-- ==== Sys2Proof/Word.lean ====
section
/-! DEFINITION. The word types of the device and the plainest arithmetic on them (spec/02 R63, R65). -/

namespace Sys2Proof

/-- One byte. -/
abbrev Byte := BitVec 8
/-- One 64-bit word: general registers, control registers, host registers (02:R63, 02:R101). -/
abbrev Word := BitVec 64
/-- One 32-bit word: instruction words, FP32 values (02:R80). -/
abbrev Half := BitVec 32
/-- A logical core, 0 to 31 (01:R25). -/
abbrev CoreId := Fin 32
/-- A die, 0 or 1 (01:R21). -/
abbrev DieId := Fin 2
/-- A device channel number, 0 to 127 (11:R456). -/
abbrev ChanId := Fin 128
/-- A command queue, 0 to 63 (15:R613). -/
abbrev QueueId := Fin 64
/-- A link index: n for OLn, 32 + k for BLk (12:R505). -/
abbrev LinkId := Fin 35
/-- A light-source feed, 0 to 3 (01:R38). -/
abbrev FeedId := Fin 4
/-- A PASID, which names a context. -/
abbrev Pasid := BitVec 20
/-- A general register number. -/
abbrev Reg := BitVec 5

/-- Bits `lo + w - 1 : lo` of a number, as a number. -/
def bitsN (x lo w : Nat) : Nat := (x >>> lo) % 2 ^ w

/-- One bit of a number. -/
def bitN (x i : Nat) : Bool := (x >>> i) % 2 == 1

/-- A Bool as the number 0 or 1. -/
def b2n (b : Bool) : Nat := if b then 1 else 0

/-- The number of the low `n` bits of `x` that are set. -/
def popN : Nat → Nat → Nat
  | 0, _ => 0
  | n + 1, x => x % 2 + popN n (x / 2)

/-- The die of a logical core (01:R25). -/
def dieOf (c : CoreId) : DieId := if c.val < 16 then 0 else 1

end Sys2Proof
end

