-- ==== Sys2Proof/Machine/Saved.lean ====
section
/-! DEFINITION. The state that leaves a core or a context as data: what a safe point saves (14:R600, R601), the effect log (14:R604),
a loadable's declarations (15:R631, R632), the state of inbound streams (12:R524), and what a save image or an evacuation
carries (14:R610, 18:R754). -/

namespace Sys2Proof.Machine

/-- A memory in canonical form: addresses strictly rising and no byte equal to zero, which is what an unlisted address
reads as. -/
abbrev Mem := List Host.Cell

/-- Privilege levels (02:R66). -/
inductive Level where
  | kernel | runtime | firmware
  deriving DecidableEq, Repr

/-- One bank of trap registers (02:R102, 09:R375). -/
structure TrapBank where
  trc  : Word
  trpc : Word
  trv  : Word
  base : BitVec 9
  deriving DecidableEq, Repr

/-- TLVL (02:R110). -/
structure Tlvl where
  pie  : Bool
  ie   : Bool
  prev : BitVec 2
  cur  : Level
  deriving DecidableEq, Repr

/-- FMODE (02:R110). -/
structure Fmode where
  ten : BitVec 10
  pam : Bool
  rm  : BitVec 3
  deriving DecidableEq, Repr

/-- One operation word of an Accord program (05:R219). -/
structure AccordOp where
  opc : BitVec 6
  d   : BitVec 5
  a   : BitVec 5
  b   : BitVec 5
  c   : BitVec 5
  imm : BitVec 6
  deriving DecidableEq, Repr

/-- A validated Accord program (05:R215, 05:R216). -/
structure AccordProg where
  prec64 : Bool
  rnd    : BitVec 3
  sfmt   : List Nat
  dfmt   : List Nat
  consts : List Word
  ops    : List AccordOp
  deriving DecidableEq, Repr

/-- Accumulation modes (06:R261). -/
inductive AccMode where
  | chunk | exact | direct64
  deriving DecidableEq, Repr

/-- The matrix configuration (06:R261). -/
structure MxCfg where
  fmta : Nat
  fmtb : Nat
  mode : AccMode
  sca  : Bool
  scb  : Bool
  base : BitVec 12
  deriving DecidableEq, Repr

/-- The epilogue configuration (07:R311 to 07:R314): FP32 codes for the parameters. -/
structure EpiCfg where
  ofmt : BitVec 3
  act  : BitVec 3
  rs   : Option (List Half)
  cs   : Option (List Half)
  bias : Option (List Half)
  lo   : Half
  hi   : Half
  deriving DecidableEq, Repr

/-- One DQUEUE of a core's effect log (14:R604): channel, ticket, the completion record it ended with (its words 0 to
3), and the cursor at which R498 ended it. -/
structure LogD where
  ch     : ChanId
  ticket : BitVec 32
  record : Option (List Word)
  cursor : Option Nat
  deriving DecidableEq, Repr

/-- The ticket and completion counts of a channel that a safe point saves (14:R600). -/
structure ChanCounts where
  ch     : ChanId
  ticket : BitVec 32
  done   : BitVec 32
  errs   : BitVec 32
  deriving DecidableEq, Repr

/-- What a safe point saves of a core (14:R600, 14:R601); `since` is the CYCLE from which 09:R374 counts. -/
structure Checkpoint where
  pc    : BitVec 20
  gregs : Vector Word 30
  spK   : Word
  spR   : Word
  spF   : Word
  banks : Vector TrapBank 3
  tlvl  : Tlvl
  fflags : BitVec 10
  fmode : Fmode
  vl    : BitVec 18
  ew    : BitVec 3
  grp   : BitVec 2
  vcur  : BitVec 18
  asc   : Word
  seed  : Vector Half 4
  spint : BitVec 16
  vregs : Mem
  masks : Vector (BitVec 65536) 8
  slots : Vector (Option AccordProg) 8
  mxcfg : Option MxCfg
  epi   : Option EpiCfg
  dmem  : Mem
  replaySet : Mem
  badDmem : List Nat
  badSpad : List Nat
  cycle : Word
  stlIssue : Word
  stlSync : Word
  instret : Word
  since : Word
  chans : List ChanCounts
  deriving DecidableEq, Repr

/-- An entry of a loadable's resource table (15:R632). -/
structure Res_ where
  type  : BitVec 8
  core  : BitVec 8
  flags : BitVec 16
  a     : BitVec 32
  b     : Word
  c     : Word
  d     : Word
  deriving DecidableEq, Repr

/-- A receiver's state for one source of an inbound window (12:R524, R527): expected SEQ, and the status of the last
answer. -/
structure Receiver where
  win    : BitVec 6
  src    : BitVec 16
  epoch  : BitVec 16
  expect : BitVec 16
  status : BitVec 8
  deriving DecidableEq, Repr

/-- A loadable's header fields and resource table, with the entry words of its inbound windows in table order (15:R631,
R632; 12:R537). -/
structure Loadable where
  coupling : Nat
  modes    : Nat
  mask     : BitVec 32
  spintUs  : Nat
  bytes    : Nat
  entry    : Nat
  table    : List Res_
  tables   : List (List Nat)
  deriving DecidableEq, Repr

/-- A core as a save image or an evacuation carries it: its current checkpoint when it is to resume, the effect log of a
core that EVACUATE reset (18:R755), its IMEM below the resident area, DMEM and scratchpad. -/
structure SavedCore where
  core : CoreId
  ckpt : Option Checkpoint
  logD : List LogD
  logS : List Bool
  imem : Mem
  dmem : Mem
  spad : Mem
  deriving DecidableEq, Repr

/-- A context as a save image or an evacuation carries it: the device that made it and the sequence number of the command;
its loadable and signal counters; the core mask of its RUN, if it has one in progress or paused, with the exit values of the cores that
have ended; its tenant secret (evacuation), whether the save key comes from one (19:R780); its cores; the granules of its
HBM regions that it has written, with their bytes; the state of its inbound streams. -/
structure Transfer where
  pasid    : Pasid
  source   : BitVec 16
  srcSeq   : Word
  lo       : Loadable
  counters : Vector Word 256
  running  : Bool
  run      : Option (BitVec 32)
  exits    : List (CoreId × Word)
  secret   : Option (BitVec 256)
  keyed    : Bool
  cores    : List SavedCore
  granules : List Nat
  hbm      : Mem
  streams  : List Receiver
  deriving DecidableEq, Repr

end Sys2Proof.Machine
end

