-- ==== Sys2Proof/Syntax.lean ====
section
/-! DEFINITION. The commands of the device: one constructor of Instr for each row of
spec/opcode_table.json, with the row's operands.  A core instruction carries the core that issues it and
the fields of its word (02:R81, 04:R176, 06:R261, 06:R266, 07:R312, 07:R317); an event carries what
arrives with it from outside the device.  -/

namespace Sys2Proof

/-- The fields of a V-format word other than OP (04:R176). -/
structure VFields where
  vd : Reg
  va : Reg
  vb : Reg
  m  : Bool
  mkr : BitVec 3
  fn : BitVec 7
  deriving DecidableEq, Repr

/-- An instruction that may be interrupted at a strip or element-block boundary, as the youngest issued
instruction of a core: its OP and fields, and how many of its strips or blocks have started (04:R205,
05:R240, 08:R351). -/
structure Running where
  op      : BitVec 6
  f       : VFields
  started : Nat
  deriving DecidableEq, Repr

/-- The asynchronous causes of 09:R371. -/
inductive AsyncCause where
  | memErr | notice | spintOver | debugHalt
  deriving DecidableEq, Repr

/-- The prefix word before an instruction word, if there is one: its KIND and PAYLOAD, bits [25:0] (02:R81, R84). -/
abbrev Pfx := Option (BitVec 26)

/-- How a host request that a command needed completed: with its data, or with an error (11:R489, 11:R497); or with its data, where the device's own
memory that the access reaches first turns out to hold an uncorrectable word (18:R744, R746). -/
inductive HostReply where
  | data (bytes : List Byte)
  | error (code : BitVec 8)
  | faulty (bytes : List Byte)
  deriving DecidableEq, Repr

/-- The bytes of a write or atomic line request, and whether the line that it hits turns out to hold an uncorrectable word (18:R746). -/
structure LineData where
  bytes   : List Byte
  sramBad : Bool
  deriving DecidableEq, Repr

/-- What an ATS Translation Completion says (11:R488): a translation with its page size and permissions, or none. -/
inductive AtsReply where
  | grant (busPage : Nat) (log2size : Nat) (r w : Bool)
  | none
  deriving DecidableEq, Repr

/-- PRG Response codes (11:R495). -/
inductive PrgCode where
  | success | invalid | failure
  deriving DecidableEq, Repr

/-- The operations of atomic line requests (10:R441). -/
inductive AtomicOp where
  | fadd32 | fadd64 | iadd32 | iadd64 | wadd
  deriving DecidableEq, Repr

/-- The memories of patrol and error counting (18:R742, 18:R760). -/
inductive MemKind where
  | scratchpad | dmem | imem | scache | hbm
  deriving DecidableEq, Repr

/-- The state in which patrol finds what it reads (10:R421, 18:R742). -/
inductive ErrKind where
  | clean | corrected | uncorrectable
  deriving DecidableEq, Repr

/-- A fabric message's header and data (12:R521). `len` is LEN, or the status of a response. -/
structure Msg where
  dest   : BitVec 16
  src    : BitVec 16
  cls    : BitVec 4
  rsp    : Bool
  hops   : BitVec 4
  rwin   : BitVec 6
  seq    : BitVec 16
  epoch  : BitVec 16
  offset : BitVec 38
  len    : BitVec 8
  data   : List Byte
  deriving DecidableEq, Repr

/-- What a received flit holds at the link layer (12:R513) and how its checks came out (12:R514, 12:R520); `fecBad` counts the codewords that
could not be corrected since the flit before, and `brings` gives the virtual channel of each of its message slots, fillers left out. -/
structure Flit where
  lseq  : BitVec 16
  lack  : BitVec 16
  nak   : Bool
  key   : Bool
  idle  : Bool
  cvc   : BitVec 3
  cred  : BitVec 16
  fecOk : Bool
  crcOk : Bool
  tagOk : Bool
  fecCorr : Nat
  fecBad  : Nat
  brings  : List (BitVec 3)
  deriving DecidableEq, Repr

/-- The order in which a link's lanes arrive (12:R507). -/
inductive LaneOrder where
  | straight | reversed | other
  deriving DecidableEq, Repr

/-- The outcome of link training (12:R511): the good lanes, whether the spare can be selected, FEC lock, and the order and the inverted
polarities that the lanes arrive with (12:R507). -/
structure TrainResult where
  lanes : BitVec 16
  spare : Bool
  locked : Bool
  order : LaneOrder
  inverted : BitVec 16
  deriving DecidableEq, Repr

/-- What link attestation found of the partner, whether the partner refused this device, and the partner's share of the session that
KEY_EXCHANGE set up (12:R516, 12:R517, 19:R771). -/
structure Partner where
  device  : BitVec 16
  plink   : BitVec 6
  chainOk : Bool
  meas2   : BitVec 384
  meas4   : BitVec 384
  meas5   : BitVec 384
  debug   : Bool
  refuses : Bool
  share   : Nat
  deriving DecidableEq, Repr

/-- A light-source module's fields as the device reads them (13:R560, 13:R561). -/
structure Module where
  ident      : BitVec 8
  cmisRev    : BitVec 8
  modState   : BitVec 3
  pageVer    : BitVec 16
  vendor     : BitVec 128
  oui        : BitVec 24
  part       : BitVec 128
  rev        : BitVec 16
  serial     : BitVec 128
  date       : BitVec 64
  fault      : Bool
  warn       : Bool
  responds   : Bool
  laserRated : Nat
  modRated   : Nat
  biasEol    : Nat
  powerMin   : Int
  sel        : List Bool
  bias       : List Nat
  power      : List Int
  laserHrs   : List Nat
  modHrs     : Nat
  lastDevice : BitVec 16
  forecast   : BitVec 32
  tempC      : Int
  supply     : BitVec 16
  deriving DecidableEq, Repr

/-- The timestamps of one TIME exchange, in ns (12:R543). -/
structure TimeStamps where
  t1 : Int
  t2 : Int
  t3 : Int
  t4 : Int
  deriving DecidableEq, Repr

/-- One sample of every temperature sensor of 16:R692, in degrees Celsius: per die 96 die sensors and 32 tier
sensors, then 8 HBM stacks, then 64 optical-engine sensors. -/
structure Temps where
  die   : List (List Int)
  tier  : List (List Int)
  hbm   : List Int
  optic : List Int
  deriving DecidableEq, Repr

/-- The power policy of the Niley image (16:R705). -/
structure PowerPolicy where
  openMode    : Bool
  idleRetMs   : Nat
  idleHeartS  : Nat
  quenchFollow : Bool
  deriving DecidableEq, Repr

/-- One route of the image (12:R531): primary link first, then fallbacks. -/
structure Route where
  dest  : BitVec 16
  links : List LinkId
  deriving DecidableEq, Repr

/-- The security policy section (19:R769), read from its value: its fields, its certificate chain, and the digest of its bytes 0 to 495
(19:R768). -/
structure SecPolicy where
  policyVer     : BitVec 16
  couplingAllow : BitVec 8
  modesAllow    : BitVec 8
  debugAllow    : Bool
  requireIde    : Bool
  evacDirect    : Bool
  peerDebugOk   : Bool
  nfw           : Nat
  peerRootHash  : BitVec 384
  debugKeyHash  : BitVec 384
  fwAllow       : List (BitVec 384)
  chain         : List Byte
  digest        : BitVec 384
  deriving DecidableEq, Repr

/-- The settings that a Niley image gives (17:R720): for each sync group its forwarding links (12:R531), the device's own group with its
members, and the members of other groups (log 76). -/
structure ImageSettings where
  deviceId   : BitVec 16
  fabDevices : BitVec 16
  quad       : Bool
  quadSlot   : Option (BitVec 2)
  linkMap    : List (LinkId × (BitVec 16 × BitVec 6))
  routes     : List Route
  groupLinks : List (BitVec 8 × List LinkId)
  group      : Option (BitVec 8 × Bool)
  members    : List (BitVec 16)
  others     : List (BitVec 8 × List (BitVec 16))
  timeMaster : Bool
  parent     : Option LinkId
  altParent  : Option LinkId
  power      : PowerPolicy
  security   : SecPolicy
  modules    : List (BitVec 24 × BitVec 128)
  uniformLat : Bool
  spintLimit : Nat
  firmware   : BitVec 384
  deriving DecidableEq, Repr

/-- What the values of an image's sections hold whose byte layout the manual does not give (17:R720, log 175): the fields of TYPE 1 to 7 and 9
to 0xB, whether their reserved fields are zero, and whether the two certificates of the security policy section pass 19:R770. -/
structure SectionFields where
  settings : ImageSettings
  rsvOk    : Bool
  certsOk  : Bool
  deriving DecidableEq, Repr

/-- A flash slot (17:R718): the bytes written since it was erased, from byte 0 of the slot, and what its section values hold once they are read. -/
structure Slot where
  bytes  : List Byte
  fields : Option SectionFields
  deriving DecidableEq, Repr

/-- An erased slot. -/
def Slot.erased : Slot := ⟨[], none⟩

/-- The image of a slot as reading it finds it (17:R719 to 17:R722): header fields, the SHA-384 over bytes 0 to LENGTH − 1, and the settings that its
sections give. -/
structure SlotImage where
  version    : BitVec 64
  length     : Nat
  digest     : BitVec 384
  settings   : ImageSettings
  deriving DecidableEq, Repr

/-- The row and the column of an array that its spare row and spare column replace (06:R282, 18:R740). -/
structure ArrayFix where
  row : Option (Fin 32)
  col : Option (Fin 32)
  deriving DecidableEq, Repr

/-- What a die's Rivet map records (18:R740): good physical cores, the physical core of each of the die's 16 logical cores, the repair of each
physical core's array, the repairs of SRAM structures made at test (structure, spares used), and for each die-to-die lane group the lanes that
its spares replace. -/
structure RivetMap where
  good     : BitVec 18
  serve    : List (BitVec 5)
  repaired : List ArrayFix
  sram     : List (Nat × Nat)
  d2dLanes : List (List Nat)
  deriving DecidableEq, Repr

/-- A copy of the Rivet map in the fuses (17:R715): its data bits, its CRC-32, and what the data record (their layout is not given, log 175). -/
structure RivetCopy where
  data : BitVec 4096
  crc  : BitVec 32
  map  : RivetMap
  deriving DecidableEq, Repr

/-- A copy of the Temper table in the fuses: eight entries of 16 bits, and their CRC-32 (17:R715). -/
structure TemperCopy where
  data : BitVec 128
  crc  : BitVec 32
  deriving DecidableEq, Repr

/-- One Temper entry (16:R672). -/
structure TemperEntry where
  vnom : BitVec 10
  trim : BitVec 6
  deriving DecidableEq, Repr

/-- The fields that only die 0's fuse block holds (17:R715): the private scalar of the identity key, the hash of the image-signing public key,
and the slot that BOOT_SEL prefers (true for B). -/
structure RootFuses where
  identity     : BitVec 384
  imageKeyHash : BitVec 384
  bootSel      : Bool
  deriving DecidableEq, Repr

/-- A die's fuse block (17:R715). -/
structure Fuses where
  die      : DieId
  part     : BitVec 32
  stepping : BitVec 8
  rivet    : List RivetCopy
  temper   : List TemperCopy
  root     : Option RootFuses
  deriving DecidableEq, Repr

/-- An SRAM structure that self-test finds failed (17:R728): the spares that mending it takes, and those it has left. -/
structure SramFail where
  die   : DieId
  structure_ : Nat
  needs : Nat
  has   : Nat
  deriving DecidableEq, Repr

/-- What a cold start finds, step by step (17:R714): straps, fuses, a flash slot that the board has rewritten since the device last held power (none:
the slot as it stands), and how each physical step that can fail came out. A wait whose Bool is false is left to the command that ends it; `d2d` are the marker exchanges
of step 10, each with the arrival cycle of each lane group, as far as they are not left to their command; `stuck` are the slab rows (die, physical core, row) of this
part in which a word still does not read back as zero after four rewrites (19:R784). -/
structure StartInputs where
  qslot     : BitVec 2
  crystal   : Bool
  qrstIn    : Bool
  fuses     : List Fuses
  hrtPg     : Bool
  slotA     : Option Slot
  slotB     : Option Slot
  fwRuns    : Bool
  tnPg      : Bool
  lnkPg     : Bool
  refIn     : Bool
  bist      : List (BitVec 18)
  sram      : List SramFail
  hbmOk     : Bool
  d2d       : List (List (Option Nat))
  romDigest : BitVec 384
  stuck     : List (DieId × BitVec 5 × Nat)
  deriving DecidableEq, Repr

/-- A debug token's fields (19:R786). -/
structure DebugToken where
  magic   : BitVec 32
  version : BitVec 16
  scope   : BitVec 8
  rsv     : BitVec 8
  device  : BitVec 384
  nonce   : BitVec 256
  keyHash : BitVec 384
  sigOk   : Bool
  deriving DecidableEq, Repr

/-- The transports of SPDM: DOE, MCTP, and the MGMT class of a link (19:R766, 12:R516). -/
inductive Transport where
  | doe | mctp
  | fabric (l : LinkId)
  deriving DecidableEq, Repr

/-- The transport is a link's. -/
def Transport.onLink : Transport → Bool
  | .fabric _ => true
  | _ => false

/-- A FINISH request: the session that KEY_EXCHANGE began, and whether what it carries verifies (19:R766): the requester's HMAC, and with mutual
authentication its certificate chain and signature. -/
structure FinishReq where
  session  : Nat
  verifies : Bool
  deriving DecidableEq, Repr

/-- The causes of a warm reset (17:R735). -/
inductive WarmCause where
  | hotReset | linkDown | fundamental | flr | management
  deriving DecidableEq, Repr

/-- What the management plane may do to a halted core in debug mode (19:R789): general and control registers, the vector
register file as bytes, mask registers, and memories. -/
inductive DebugAccess where
  | readReg (r : Reg)
  | writeReg (r : Reg) (v : Word)
  | readCsr (n : BitVec 12)
  | writeCsr (n : BitVec 12) (v : Word)
  | readVec (addr : Nat) (n : Nat)
  | writeVec (addr : Nat) (bytes : List Byte)
  | readMask (i : Fin 8)
  | writeMask (i : Fin 8) (v : BitVec 65536)
  | readMem (k : MemKind) (addr : Nat) (n : Nat)
  | writeMem (k : MemKind) (addr : Nat) (bytes : List Byte)
  deriving DecidableEq, Repr

/-- A command entry of 15:R619: its eight 64-bit words. -/
structure CmdEntry where
  w0 : Word
  w1 : Word
  w2 : Word
  w3 : Word
  w4 : Word
  w5 : Word
  w6 : Word
  w7 : Word
  deriving DecidableEq, Repr

/-- What reading the image of a LOAD or RESTORE gave: its bytes, or no translation (15:R621), and for each declared
host region, in table order, the page translations obtained (11:R485, 11:R486). -/
structure ImageRead where
  bytes : Option (List Byte)
  pages : List (List AtsReply)
  deriving DecidableEq, Repr

/-- What a peer answers to an EVACUATE: an SPDM session was set up and the enquiry answered (19:R781, 18:R752), the peer
stands by, and at the end the sequence number of its EVACUATE_IN entry (18:R754). -/
structure PeerReply where
  reachable : Bool
  standsBy  : Bool
  entrySeq  : Word
  deriving DecidableEq, Repr

/-- The commands of the device, one constructor for each row of spec/opcode_table.json, in the table's order. The `size` of a RESTORE is what
the header of its save image gives, header and tag included (19:R780), 0 for a header that is not valid. -/
inductive Instr where
  -- scalar core (02)
  | integerAlu (c : CoreId) (fn : BitVec 11) (rd ra rb : Reg)
  | immediateAlu (c : CoreId) (op : BitVec 6) (rd ra : Reg) (imm : BitVec 16) (pfx : Pfx)
  | immediateShift (c : CoreId) (rd ra : Reg) (imm : BitVec 16)
  | multiplyDivide (c : CoreId) (fn : BitVec 11) (rd ra rb : Reg)
  | scalarFloatingPoint (c : CoreId) (fn : BitVec 11) (rd ra rb : Reg)
  | scalarLoad (c : CoreId) (op : BitVec 6) (rd ra : Reg) (imm : BitVec 16) (pfx : Pfx)
  | scalarStore (c : CoreId) (op : BitVec 6) (rd ra : Reg) (imm : BitVec 16) (pfx : Pfx)
  | storeBufferDrain (c : CoreId)
  | branch (c : CoreId) (op : BitVec 6) (ra rb : Reg) (off : BitVec 16)
  | jump (c : CoreId) (off : BitVec 26)
  | jal (c : CoreId) (off : BitVec 26)
  | jalr (c : CoreId) (rd ra : Reg) (imm : BitVec 16) (pfx : Pfx)
  | syscall (c : CoreId) (rd ra rb : Reg)
  | fwcall (c : CoreId) (rd ra rb : Reg)
  | tret (c : CoreId) (rd ra rb : Reg)
  | ifence (c : CoreId) (rd ra rb : Reg)
  | sbdrain (c : CoreId) (rd ra rb : Reg)
  | brk (c : CoreId) (rd ra rb : Reg)
  | crr (c : CoreId) (rd ra : Reg) (csr : BitVec 12)
  | crw (c : CoreId) (rd ra : Reg) (csr : BitVec 12)
  | crset (c : CoreId) (rd ra : Reg) (csr : BitVec 12)
  | crclr (c : CoreId) (rd ra : Reg) (csr : BitVec 12)
  -- traps, resets, replay (09, 14)
  | interruptTaken (c : CoreId) (running : Option Running)
  | spintOver (c : CoreId)
  | coreReset (c : CoreId)
  | selfCheckFailure (c : CoreId)
  | replay (c : CoreId)
  -- vector engine (04, 08)
  | vld (c : CoreId) (f : VFields)
  | vlds (c : CoreId) (f : VFields)
  | vst (c : CoreId) (f : VFields)
  | vsts (c : CoreId) (f : VFields)
  | vgath (c : CoreId) (f : VFields)
  | vscat (c : CoreId) (f : VFields)
  | vectorFpArithmetic (c : CoreId) (f : VFields)
  | vectorFpCompare (c : CoreId) (f : VFields)
  | vectorIntegerArithmetic (c : CoreId) (f : VFields)
  | vectorIntegerCompare (c : CoreId) (f : VFields)
  | vectorFixedPoint (c : CoreId) (f : VFields)
  | vcmprs (c : CoreId) (f : VFields)
  | vxpand (c : CoreId) (f : VFields)
  | vmov (c : CoreId) (f : VFields)
  | vcvt (c : CoreId) (f : VFields)
  | maskLogic (c : CoreId) (f : VFields)
  | msetMclr (c : CoreId) (f : VFields)
  | mpopc (c : CoreId) (f : VFields)
  | mfirst (c : CoreId) (f : VFields)
  | vrsum (c : CoreId) (f : VFields)
  | vrssq (c : CoreId) (f : VFields)
  | vrmax (c : CoreId) (f : VFields)
  | vrmin (c : CoreId) (f : VFields)
  | vrargmax (c : CoreId) (f : VFields)
  | vmeanvar (c : CoreId) (f : VFields)
  | vsoftmax (c : CoreId) (f : VFields)
  | vsample (c : CoreId) (f : VFields)
  | vprefix (c : CoreId) (f : VFields)
  | vwadd (c : CoreId) (f : VFields)
  -- Accord (05)
  | aload (c : CoreId) (f : VFields)
  | arun (c : CoreId) (f : VFields)
  | arunComplete (c : CoreId)
  -- matrix (06, 07)
  | mxcfg (c : CoreId) (pfx : Pfx) (word : BitVec 26)
  | mxmma (c : CoreId) (a b kr : Reg) (bank : BitVec 2) (start sa sb : Bool) (fn : BitVec 6)
  | mxmmaComplete (c : CoreId)
  | mxepi (c : CoreId) (a : Reg) (ofmt act : BitVec 3) (rs cs bi : Bool) (rsv : BitVec 8) (fn : BitVec 4)
  | mxdrainDrain (c : CoreId) (d p : Reg) (rsv : BitVec 4) (bank : BitVec 2) (sr : Bool) (fn : BitVec 8)
  | mxdrainFill (c : CoreId) (d p : Reg) (rsv : BitVec 4) (bank : BitVec 2) (sr : Bool) (fn : BitVec 8)
  | mxdrainComplete (c : CoreId)
  -- synchronisation (14) and DMA issue (11)
  | sigpost (c : CoreId) (rd ra rb : Reg)
  | sigpostEffect (c : CoreId)
  | sigwait (c : CoreId) (rd ra rb : Reg)
  | safept (c : CoreId) (rd ra rb : Reg)
  | checkpointComplete (c : CoreId)
  | dqueue (c : CoreId) (rd ra rb : Reg)
  | dwait (c : CoreId) (rd ra rb : Reg)
  -- DMA and translation (11)
  | descriptorStart (ch : ChanId)
  | descriptorAccess (ch : ChanId) (host : HostReply)
  | descriptorComplete (ch : ChanId) (host : HostReply)
  | atsTranslationCompletion (ch : ChanId) (reply : AtsReply)
  | prgResponse (ch : ChanId) (code : PrgCode)
  | priStop
  | atsInvalidationRequest (pasid : Pasid) (va : Nat) (bytes : Nat)
  | streamPrefetch (ch : ChanId)
  | frBaseWrite (v : Word)
  | frHeadWrite (v : Word)
  -- memories (10, 18)
  | scratchpadPatrolScrub (c : CoreId) (offset : Nat) (found : ErrKind)
  | memoryPatrol (k : MemKind) (unit : Nat) (addr : Nat) (found : ErrKind)
  | lineRequestRead (cls : BitVec 3) (addr : Nat) (n : Nat) (hbmBad sramBad : Bool)
  | lineRequestWrite (cls : BitVec 3) (addr : Nat) (d : LineData)
  | atomicLineRequest (cls : BitVec 3) (op : AtomicOp) (addr : Nat) (d : LineData)
  | scCtrlFlush (d : DieId) (v : Word)
  | scCtrlInv (d : DieId) (v : Word)
  | scCtrlEnable (d : DieId) (v : Word)
  | scWalkComplete (d : DieId)
  | hbmTemperatureSample (temps : List Int)
  | htgStart (chn : Fin 256) (v : Word)
  | htgStop (chn : Fin 256) (v : Word)
  | htgRunComplete (chn : Fin 256) (granules errors : Nat) (first : Nat) (firstWord : Nat) (unc : Bool)
  -- fabric (12)
  | flitReceive (l : LinkId) (f : Flit)
  | flitResend (l : LinkId)
  | linkDown (l : LinkId) (cause : BitVec 4)
  | linkTrain (l : LinkId) (r : TrainResult)
  | linkAttest (l : LinkId) (p : Partner)
  | linkHoldRetry (l : LinkId)
  | linkRekey (l : LinkId) (sending : Bool)
  | routeSwitch (dest : BitVec 16)
  | messageForward (l : LinkId) (m : Msg)
  | writeRequestReceive (m : Msg)
  | readRequestReceive (m : Msg)
  | waddRequestReceive (m : Msg)
  | signalRequestReceive (m : Msg)
  | responseReceive (m : Msg)
  | streamResend (pasid : Pasid) (w : BitVec 6)
  | streamUnreachable (pasid : Pasid) (w : BitVec 6)
  | timeExchange (ts : TimeStamps)
  | timeParentLoss
  | timeLockLoss
  | drydownNoticeSend
  | drydownNoticeReceive (sender : BitVec 16) (level : BitVec 3) (seq : BitVec 16)
  | drydownNoticeExpiry (sender : BitVec 16)
  | groupLevelApply
  | redirectReceive (src old new : BitVec 16)
  -- light sources (13)
  | modulePresence (k : FeedId) (m : Module)
  | moduleRemoval (k : FeedId)
  | moduleWarmingTimeout (k : FeedId) (power : List Int) (withinLimits : Bool)
  | modulePoll (k : FeedId) (fault warn : Bool) (tempC : Int) (supply : BitVec 16)
  | laserHourlyUpdate (k : FeedId) (bias : List Nat)
  | plannedLaserSwitch (k : FeedId) (i : Fin 9) (bias : Nat) (power : Int) (spareOk : Bool)
  | unplannedLaserSwitch (k : FeedId) (i : Fin 9) (spareOk : Bool)
  | ringLock (l : LinkId) (i : Fin 9) (rx : Bool)
  | ringLockLoss (l : LinkId) (i : Fin 9) (rx : Bool)
  | swap (k : FeedId)
  | cancel (k : FeedId)
  -- die-to-die (14)
  | d2dMarkerExchange (arrivals : List (Option Nat))
  -- host commands (15)
  | doorbellWrite (q : QueueId) (v : BitVec 32)
  | cqCtrlWrite (q : QueueId) (v : Word)
  | commandRead (q : QueueId) (e : CmdEntry)
  | load (q : QueueId) (img : ImageRead)
  | run (q : QueueId)
  | runComplete (q : QueueId)
  | dma (q : QueueId) (descs : Option (List Byte))
  | signal (q : QueueId)
  | save (q : QueueId) (reach : Bool)
  | saveTimeout (q : QueueId)
  | restore (q : QueueId) (size : Nat) (authentic : Bool) (img : Option Machine.Transfer) (pages : List (List AtsReply))
  | evacuate (q : QueueId) (peer : PeerReply)
  | evacuateSafePointTimeout (q : QueueId) (c : CoreId)
  | evacuateIn (t : Machine.Transfer)
  | standbyEnquiry (src : BitVec 16) (coupling modes : BitVec 8)
  | zeroize (q : QueueId)
  | queryState (q : QueueId)
  | queryCounters (q : QueueId) (reach : Bool)
  | queryDigest (q : QueueId) (entry : Option CmdEntry) (reach : Bool)
  | queryFree (q : QueueId)
  | fence (q : QueueId)
  | commandComplete (q : QueueId) (reach : Bool)
  -- failover (18)
  | failover (c : CoreId)
  -- power (16)
  | governorTick (power : Nat) (target : BitVec 3)
  | pl2ExcessLimit (fit : BitVec 3)
  | levelChange (level : BitVec 3)
  | voltageSlewComplete (reg : Fin 3)
  | droopDetect (d : DieId) (i : Fin 64)
  | droopStretchEnd
  | sustainedDroop (d : DieId) (i : Fin 64)
  | thermalSample (t : Temps)
  | edgeSkipStep
  | thermalConversion
  | localLimitRise
  | quenchEntry (t : Temps)
  | quenchFollow
  | quenchExit
  | vrAlert
  | floorHoldEnd
  | levelClimb
  | temperMonitorAdjust (d : DieId) (n : BitVec 3) (ask : Nat)
  | retentionEntry
  | heartOnlyEntry
  | wake
  | energyCredit (energyMj : Nat)
  | telemetryPublish (t : Temps) (power : Nat) (volts amps : List Nat)
  -- start-up (17, 21)
  | coldStart (i : StartInputs)
  | crystalStable
  | requestedColdRestart (i : StartInputs)
  | pcieReady
  | qrstInTimeout
  | qrstInRelease
  | powerDown
  | warmReset (cause : WarmCause)
  | stagingData (pldm : Bool) (offset : Nat) (bytes : List Byte)
  | stagingCheck (img : SectionFields)
  | stagingTimeout
  -- management plane (20) and attestation (19)
  | requestUpdate
  | passComponentTable (ident : BitVec 16) (size : Nat)
  | updateComponent (ident : BitVec 16) (size : Nat)
  | activateFirmware
  | doeStagingObject (offset : Nat) (bytes : List Byte) (img : SectionFields)
  | getMeasurements (t : Transport) (index : BitVec 8)
  | getCertificate (t : Transport) (slot : BitVec 8)
  | challenge (t : Transport) (slot : BitVec 8)
  | keyExchange (t : Transport) (mutualAuth : Bool)
  | finish (t : Transport) (req : FinishReq)
  | keyUpdate (t : Transport) (session : Nat)
  | setTenantSecret (t : Transport) (session : Option Nat) (pasid : Pasid) (secret : BitVec 256)
  | getDebugNonce (t : Transport)
  | debugNonceExpiry
  | debugEnter (t : Transport) (tok : DebugToken)
  | ideStreamStateChange (stream : Fin 5) (secure : Bool)
  | dynamicAddressAssign (addr : BitVec 7)
  | setEndpointId (eid : BitVec 8)
  | getEndpointId
  | getMctpVersionSupport (mtype : BitVec 8)
  | getMessageTypeSupport
  | smbusPecFailure
  | getPdr (id : BitVec 16)
  | getSensorReading (id : BitVec 16)
  | setSensorThresholds (id : BitVec 16)
  | setEventReceiver (eid : BitVec 8)
  | pollForPlatformEventMessage
  | platformEventMessage
  | effecterColdRestart
  | effecterWarmReset
  | effecterHeartOnly
  | effecterSwapFeed (k : FeedId)
  | effecterCancelSwap (k : FeedId)
  | effecterDebugHalt (c : CoreId)
  | registerWrite (offset : BitVec 25) (v : Word)
  | vrAlertNReturnsHigh
  | quenchNRise
  | fundamentalResetRelease
  | regulatorPowerGood (grp : Fin 3)
  | powerGoodTimeout
  | fwStartTimeout
  | d2dLaneFailure (g : Fin 8)
  | debugCoreAccess (c : CoreId) (a : DebugAccess)
  deriving DecidableEq, Repr

end Sys2Proof
end

