-- ==== Sys2Proof/Decode.lean ====
section
/-! DEFINITION. The words of core instructions (02:R80 to R86, R99; 04:R176, R177; 05:R227; 06:R261, R266; 07:R312, R317; 11:R459;
14:R587): the command that a word, or a long form's two words, stands for.  The table of commands gives no row any bits, so no
word of the table's spells a command. -/

namespace Sys2Proof

/-- The command that a word of `nbits` bits spells: none, since no row of the table has bits. -/
def decodeTableWord (_nbits _w : Nat) : Option Instr := none

/-! ## The fields of a word (02:R81) -/

def wordOp (w : Half) : BitVec 6 := w.extractLsb' 26 6
def wordD (w : Half) : Reg := w.extractLsb' 21 5
def wordA (w : Half) : Reg := w.extractLsb' 16 5
def wordB (w : Half) : Reg := w.extractLsb' 11 5
def wordFn (w : Half) : BitVec 11 := w.extractLsb' 0 11
def wordImm (w : Half) : BitVec 16 := w.extractLsb' 0 16

/-- The V format (04:R176). VCVT's SRC, DST and RND (04:R185) are the same bits. -/
def wordV (w : Half) : VFields :=
  { vd := wordD w, va := wordA w, vb := wordB w, m := w.getLsbD 10, mkr := w.extractLsb' 7 3, fn := w.extractLsb' 0 7 }

/-- A word that selects no operation (02:R83, R86), with the fields of the I format: its OP is none of an immediate operation, so that its
meaning is the illegal-instruction trap, at the prefix if it has one. -/
def noOperation (c : CoreId) (p : Pfx) (w : Half) : Instr := .immediateAlu c (wordOp w) (wordD w) (wordA w) (wordImm w) p

/-- Opcodes 0x30 to 0x37 by FN (04:R177, and the tables of R178 to R202). -/
def decodeVector (c : CoreId) (w : Half) : Instr :=
  let f := wordV w
  let n := f.fn.toNat
  match (wordOp w).toNat with
  | 0x30 => match n with
    | 0x00 => .vld c f
    | 0x01 => .vlds c f
    | 0x02 => .vst c f
    | 0x03 => .vsts c f
    | 0x04 => .vgath c f
    | 0x05 => .vscat c f
    | _ => noOperation c none w
  | 0x31 => if 0x10 ≤ n then .vectorFpCompare c f else .vectorFpArithmetic c f
  | 0x32 => if 0x10 ≤ n then .vectorIntegerCompare c f else .vectorIntegerArithmetic c f
  | 0x33 => .vectorFixedPoint c f
  | 0x34 => match n with
    | 0x00 => .vcmprs c f
    | 0x01 => .vxpand c f
    | 0x02 => .vmov c f
    | _ => noOperation c none w
  | 0x35 => .vcvt c f
  | 0x36 => match n with
    | 0x00 => .vrsum c f
    | 0x01 => .vrssq c f
    | 0x02 => .vrmax c f
    | 0x03 => .vrmin c f
    | 0x04 => .vrargmax c f
    | 0x05 => .vmeanvar c f
    | 0x08 => .vsoftmax c f
    | 0x10 => .vsample c f
    | 0x11 => .vprefix c f
    | 0x18 => .vwadd c f
    | _ => noOperation c none w
  | _ => match n with
    | 0x00 | 0x01 | 0x02 | 0x03 => .maskLogic c f
    | 0x04 | 0x05 => .msetMclr c f
    | 0x08 => .mpopc c f
    | 0x09 => .mfirst c f
    | _ => noOperation c none w

/-- MXMMA (06:R266). -/
def decodeMxmma (c : CoreId) (w : Half) : Instr :=
  .mxmma c (wordD w) (wordA w) (wordB w) (w.extractLsb' 9 2) (w.getLsbD 8) (w.getLsbD 7) (w.getLsbD 6) (w.extractLsb' 0 6)

/-- MXDRAIN in its two forms (07:R317): FILL is bit 11. -/
def decodeMxdrain (c : CoreId) (w : Half) : Instr :=
  let rsv : BitVec 4 := w.extractLsb' 12 4
  let bank : BitVec 2 := w.extractLsb' 9 2
  if w.getLsbD 11 then .mxdrainFill c (wordD w) (wordA w) rsv bank (w.getLsbD 8) (w.extractLsb' 0 8)
  else .mxdrainDrain c (wordD w) (wordA w) rsv bank (w.getLsbD 8) (w.extractLsb' 0 8)

/-- MXEPI (07:R312). -/
def decodeMxepi (c : CoreId) (w : Half) : Instr :=
  .mxepi c (wordD w) (w.extractLsb' 18 3) (w.extractLsb' 15 3) (w.getLsbD 14) (w.getLsbD 13) (w.getLsbD 12) (w.extractLsb' 4 8)
    (w.extractLsb' 0 4)

/-- Opcode 0x2C by FN[3:0] (02, "Control registers"). -/
def decodeControl (c : CoreId) (w : Half) : Instr :=
  let csr : BitVec 12 := w.extractLsb' 4 12
  match w.toNat % 16 with
  | 0 => .crr c (wordD w) (wordA w) csr
  | 1 => .crw c (wordD w) (wordA w) csr
  | 2 => .crset c (wordD w) (wordA w) csr
  | 3 => .crclr c (wordD w) (wordA w) csr
  | _ => noOperation c none w

/-- Opcode 0x2E by FN (02:R99). -/
def decodeSystem (c : CoreId) (w : Half) : Instr :=
  match (wordFn w).toNat with
  | 0 => .syscall c (wordD w) (wordA w) (wordB w)
  | 1 => .fwcall c (wordD w) (wordA w) (wordB w)
  | 2 => .tret c (wordD w) (wordA w) (wordB w)
  | 3 => .ifence c (wordD w) (wordA w) (wordB w)
  | 4 => .sbdrain c (wordD w) (wordA w) (wordB w)
  | 5 => .brk c (wordD w) (wordA w) (wordB w)
  | _ => noOperation c none w

/-- Opcodes 0x2F (14:R587) and 0x3E (11:R459) by FN. -/
def decodeSync (c : CoreId) (w : Half) : Instr :=
  match (wordOp w).toNat, (wordFn w).toNat with
  | 0x2F, 0 => .sigpost c (wordD w) (wordA w) (wordB w)
  | 0x2F, 1 => .sigwait c (wordD w) (wordA w) (wordB w)
  | 0x2F, 2 => .safept c (wordD w) (wordA w) (wordB w)
  | 0x3E, 0 => .dqueue c (wordD w) (wordA w) (wordB w)
  | 0x3E, 1 => .dwait c (wordD w) (wordA w) (wordB w)
  | _, _ => noOperation c none w

/-- The operations that take an immediate extension or do without it (02:R84): OP 0x02 to 0x07, loads, stores, JALR. -/
def decodeImmediate (c : CoreId) (p : Pfx) (w : Half) : Instr :=
  let n := (wordOp w).toNat
  if 0x02 ≤ n && n ≤ 0x07 then .immediateAlu c (wordOp w) (wordD w) (wordA w) (wordImm w) p
  else if 0x10 ≤ n && n ≤ 0x16 then .scalarLoad c (wordOp w) (wordD w) (wordA w) (wordImm w) p
  else if 0x18 ≤ n && n ≤ 0x1B then .scalarStore c (wordOp w) (wordD w) (wordA w) (wordImm w) p
  else if n == 0x2A then .jalr c (wordD w) (wordA w) (wordImm w) p
  else noOperation c p w

/-- A word without a prefix, by OP (02:R82). -/
def decodeWord (c : CoreId) (w : Half) : Instr :=
  match (wordOp w).toNat with
  | 0x01 => .integerAlu c (wordFn w) (wordD w) (wordA w) (wordB w)
  | 0x08 => .immediateShift c (wordD w) (wordA w) (wordImm w)
  | 0x09 => .multiplyDivide c (wordFn w) (wordD w) (wordA w) (wordB w)
  | 0x0A => .scalarFloatingPoint c (wordFn w) (wordD w) (wordA w) (wordB w)
  | 0x20 | 0x21 | 0x22 | 0x23 | 0x24 | 0x25 => .branch c (wordOp w) (wordD w) (wordA w) (wordImm w)
  | 0x28 => .jump c (w.extractLsb' 0 26)
  | 0x29 => .jal c (w.extractLsb' 0 26)
  | 0x2C => decodeControl c w
  | 0x2E => decodeSystem c w
  | 0x2F | 0x3E => decodeSync c w
  | 0x30 | 0x31 | 0x32 | 0x33 | 0x34 | 0x35 | 0x36 | 0x37 => decodeVector c w
  | 0x38 => .mxcfg c none (w.extractLsb' 0 26)
  | 0x39 => decodeMxmma c w
  | 0x3A => decodeMxdrain c w
  | 0x3B => decodeMxepi c w
  | 0x3C => .aload c (wordV w)
  | 0x3D => .arun c (wordV w)
  | _ => decodeImmediate c none w

/-- A long form: the prefix's KIND and PAYLOAD with the word that follows (02:R84, R86; 06:R261). MXCFG's own checks, and the check of KIND
that each operation makes (pfxBad), refuse a prefix of the wrong KIND. -/
def decodeLong (c : CoreId) (p : BitVec 26) (w : Half) : Instr :=
  if (wordOp w).toNat == 0x38 then .mxcfg c (some p) (w.extractLsb' 0 26) else decodeImmediate c (some p) w

/-- The command that the word at the program counter stands for, `next` being the word after it. -/
def decodeCore (c : CoreId) (w next : Half) : Instr :=
  if (wordOp w).toNat == 0x3F then decodeLong c (w.extractLsb' 0 26) next else decodeWord c w

end Sys2Proof
end

