-- ==== Sys2Proof/Config.lean ====
section
/-! DEFINITION. What the manual leaves open: constants and functions with no body, so that nothing can be proved of
their values.  Each one is named in a row of notes/assumptions. -/

namespace Sys2Proof.Config

/-- Whether a fused multiply-add of zero by infinity with a quiet-NaN addend sets NV (03:R136, 03:R137 do not say). -/
opaque fmaZeroInfQuietNv : Bool

/-- A value drawn from the device's random source: the n-th draw (19:R772, 15:R665). -/
opaque random : Nat → Nat

/-- The n-th value that the manual leaves open and no rule bounds. -/
opaque free : Nat → Nat

/-- Bytes that the manual does not fix, by a number naming the draw and a byte index. -/
opaque freeByte : Nat → Nat → BitVec 8

/-- The bits that an approximated function of a stage delivers, inside its bound: function number, format
(its mantissa width), operand code, second operand code (05:R223, 05:R224, 07:R327, 08:R358). -/
opaque approx : Nat → Nat → Nat → Nat → Nat

/-- The part of the alias certificate that the identity key signs, by its public key and its extension (19:R763, R765): X.509 in DER, which the
manual does not lay out. -/
opaque aliasTbs : BitVec 768 → BitVec 384 → List (BitVec 8)

/-- The alias certificate from the signed part and the signature. -/
opaque aliasDer : List (BitVec 8) → BitVec 768 → List (BitVec 8)

/-- AES-CMAC under the key of a number, over the eight words of a command entry (15:R659). -/
opaque cmac : Nat → List (BitVec 64) → BitVec 128

/-- Bytes 12 to 251 of a flit on the lanes, as a number: AES-GCM-256 of its slots under a key and nonce, bytes 0 to 11 authenticated with them
(12:R513, R516, R518). -/
opaque flitSeal : Nat → BitVec 96 → List (BitVec 8) → List (BitVec 8) → Nat

/-- The key of one direction of a link (the device's own where the flag is set), from the device's draw and the partner's share of their session
(12:R516). -/
opaque linkKey : Nat → Nat → Bool → Nat

/-- The key that KEY_UPDATE derives from the one before it (12:R519). -/
opaque nextKey : Nat → Nat

/-- The word of a granule in the generator's PRBS31 and walking-ones patterns (10:R452), by pattern, seed, granule and word. -/
opaque htgWord : Nat → BitVec 64 → Nat → Nat → BitVec 64

/-- The salt that is derived with a link key (12:R518). -/
opaque keySalt : Nat → BitVec 32

/-- The slots of credit that the device's receiver gives its partner on a virtual channel when a link comes UP (12:R515). -/
opaque rxCredits : Nat → BitVec 16

/-- The bus page that a translation gives which a command's own address needs (15:R621); no command carries it. -/
opaque grantPage : Nat → Nat

/-- The identifier value of an ELSFP module in SFF-8024 (13:R560), which the manual does not give. -/
opaque elsfpIdent : BitVec 8

/-- The code of ModuleReady in the CMIS module state (13:R560), which the manual does not give. -/
opaque moduleReady : BitVec 3

/-- CYCLE, STL_ISSUE and INSTRET at the first Kernel instruction of a RUN, spent in the resident code (15:R639): 0, 1, 2. -/
opaque resident : Nat → BitVec 64

/-- The device runtime's resident code, which LOAD and RESTORE write to the top 64 KiB of a core's IMEM (15:R639, R650). -/
opaque residentCode : Vector (BitVec 8) 65536

/-- The size of a save image: by its cores to resume, its other cores, its scratchpad bytes, its HBM bytes, and its table
entries (15:R648, 19:R780, which do not lay the body out). -/
opaque saveSize : Nat → Nat → Nat → Nat → Nat → BitVec 64

end Sys2Proof.Config
end

