-- ==== Sys2Proof/Machine/Flags.lean ====
section
/-! DEFINITION. Number formats, rounding and flags (spec/03): every format of R132, exact values, the one rounding of R149
to R153, the flags of R139 and R155, the conversion outcomes of R157 and R158, and the IEEE operations of the scalar
and vector units. -/

namespace Sys2Proof.Machine

/-! ## Flags (02:R110) -/

/-- A set of FFLAGS bits. -/
abbrev Flags := BitVec 10

def fNX : Flags := 0x001#10
def fUF : Flags := 0x002#10
def fOF : Flags := 0x004#10
def fDZ : Flags := 0x008#10
def fNV : Flags := 0x010#10
def fINEXACT : Flags := 0x020#10
def fRANGE : Flags := 0x040#10
def fSAT : Flags := 0x080#10
def fEMPTY : Flags := 0x100#10
def fMASKED : Flags := 0x200#10

/-- The flag when the condition holds, else none. -/
def flagIf (b : Bool) (f : Flags) : Flags := if b then f else 0#10

/-! ## Formats and exact values (R132 to R135) -/

/-- A floating-point format: exponent and mantissa widths, bias, whether it has infinities, whether it has NaNs. -/
structure FFmt where
  eb : Nat
  mb : Nat
  bias : Int
  hasInf : Bool
  hasNan : Bool
  deriving DecidableEq, Repr

def fp64 : FFmt := ⟨11, 52, 1023, true, true⟩
def fp32 : FFmt := ⟨8, 23, 127, true, true⟩
def fp16 : FFmt := ⟨5, 10, 15, true, true⟩
def bf16 : FFmt := ⟨8, 7, 127, true, true⟩
def e5m2 : FFmt := ⟨5, 2, 15, true, true⟩
def e4m3 : FFmt := ⟨4, 3, 7, false, true⟩
def e3m2 : FFmt := ⟨3, 2, 3, false, false⟩
def e2m3 : FFmt := ⟨2, 3, 1, false, false⟩
def e2m1 : FFmt := ⟨2, 1, 1, false, false⟩

/-- The exact value of a code: a NaN (signalling or quiet), an infinity, or (−1)^neg × m × 2^e. -/
inductive Num where
  | nan (sig : Bool)
  | inf (neg : Bool)
  | fin (neg : Bool) (m : Nat) (e : Int)
  deriving DecidableEq, Repr

def FFmt.width (f : FFmt) : Nat := 1 + f.eb + f.mb
def FFmt.emin (f : FFmt) : Int := 1 - f.bias
def FFmt.expOnes (f : FFmt) : Nat := 2 ^ f.eb - 1

/-- The largest finite magnitude code (R132). -/
def FFmt.maxCode (f : FFmt) : Nat :=
  if f.hasInf then f.expOnes * 2 ^ f.mb - 1
  else if f.hasNan then 2 ^ (f.eb + f.mb) - 2
  else 2 ^ (f.eb + f.mb) - 1

/-- The canonical NaN (R136); the formats with none give +0 (R157). -/
def FFmt.nanCode (f : FFmt) : Nat :=
  if f.hasInf then f.expOnes * 2 ^ f.mb + 2 ^ (f.mb - 1)
  else if f.hasNan then 2 ^ (f.eb + f.mb) - 1
  else 0

def FFmt.infCode (f : FFmt) : Nat := f.expOnes * 2 ^ f.mb

def FFmt.signed (f : FFmt) (neg : Bool) (mag : Nat) : Nat := mag + b2n neg * 2 ^ (f.eb + f.mb)

/-- Whether NaNs of this format may be signalling (R135): the 16-bit and wider ones. -/
def FFmt.signals (f : FFmt) : Bool := f.hasInf && 4 < f.mb

/-- R133, R135: the value of a code. -/
def FFmt.decode (f : FFmt) (c : Nat) : Num :=
  let neg := bitN c (f.eb + f.mb)
  let ex := bitsN c f.mb f.eb
  let ma := c % 2 ^ f.mb
  if f.hasInf && ex == f.expOnes then
    if ma == 0 then .inf neg else .nan (f.signals && !bitN ma (f.mb - 1))
  else if !f.hasInf && f.hasNan && ex == f.expOnes && ma == 2 ^ f.mb - 1 then .nan false
  else if ex == 0 then .fin neg ma (f.emin - f.mb)
  else .fin neg (2 ^ f.mb + ma) (ex - f.bias - f.mb)

def Num.isNan : Num → Bool
  | .nan _ => true
  | _ => false

def Num.isSig : Num → Bool
  | .nan s => s
  | _ => false

def Num.isInf : Num → Bool
  | .inf _ => true
  | _ => false

def Num.isZero : Num → Bool
  | .fin _ 0 _ => true
  | _ => false

def Num.negative : Num → Bool
  | .nan _ => false
  | .inf n => n
  | .fin n _ _ => n

def Num.neg : Num → Num
  | .nan s => .nan s
  | .inf n => .inf (!n)
  | .fin n m e => .fin (!n) m e

def Num.abs : Num → Num
  | .nan s => .nan s
  | .inf _ => .inf false
  | .fin _ m e => .fin false m e

/-- A finite value with its sign on the magnitude, scaled to exponent `e0 ≤ e`. -/
def Num.scaled (n : Bool) (m : Nat) (e e0 : Int) : Int :=
  let v : Int := m * 2 ^ (e - e0).toNat
  if n then -v else v

/-- The finite value `v × 2^e`, with the sign given when it is zero. -/
def Num.ofInt (v : Int) (e : Int) (zneg : Bool) : Num :=
  if v == 0 then .fin zneg 0 e else .fin (v < 0) v.natAbs e

/-- The value of an E8M0 scale code as its exponent (R134); 0xFF is no value. -/
def e8m0Exp (c : Nat) : Option Int := if c == 0xFF then none else some (c - 127)

/-! ## Rounding (R149 to R153) -/

/-- The rounding modes of R150. -/
inductive RMode where
  | rne | rtz | rdn | rup | rna | sto
  deriving DecidableEq, Repr

/-- The mode of a code 0 to 5 (R150). -/
def RMode.ofCode : Nat → RMode
  | 0 => .rne
  | 1 => .rtz
  | 2 => .rdn
  | 3 => .rup
  | 4 => .rna
  | _ => .sto

/-- Stochastic counts as nearest-even in scalar and vector arithmetic (R94, R179). -/
def RMode.det : RMode → RMode
  | .sto => .rne
  | r => r

/-- `m / 2^d` rounded to an integer as R150 and R151 say, with the 24-bit random value `r`; the sign directs
R150's modes toward an infinity. -/
def roundShift (rm : RMode) (r : Nat) (neg : Bool) (m d : Nat) : Nat :=
  let lo := m / 2 ^ d
  let rem := m % 2 ^ d
  if rem == 0 then lo
  else
    let up : Bool := match rm with
      | .rne => decide (2 ^ d < 2 * rem) || (2 * rem == 2 ^ d && lo % 2 == 1)
      | .rtz => false
      | .rdn => neg
      | .rup => !neg
      | .rna => decide (2 ^ d ≤ 2 * rem)
      | .sto => decide (r < 2 ^ 24 * rem / 2 ^ d)
    if up then lo + 1 else lo

/-- The exponent of the lowest mantissa bit at which a format holds a magnitude `m × 2^e`, `m ≠ 0`. -/
def FFmt.quantum (f : FFmt) (m : Nat) (e : Int) : Int := max (m.log2 + e) f.emin - f.mb

/-- A magnitude rounded at the quantum `q`: the integer multiple of `2^q`. -/
def roundAt (rm : RMode) (r : Nat) (neg : Bool) (m : Nat) (e q : Int) : Nat :=
  if q ≤ e then m * 2 ^ (e - q).toNat else roundShift rm r neg m (q - e).toNat

/-- Whether `m × 2^e` is a whole multiple of `2^q`. -/
def exactAt (m : Nat) (e q : Int) : Bool :=
  decide (q ≤ e) || m % 2 ^ (q - e).toNat == 0

/-- The magnitude code of `sig × 2^q`; a carry out of the mantissa lands in the exponent. -/
def FFmt.magCode (f : FFmt) (sig : Nat) (q : Int) : Nat :=
  if sig < 2 ^ f.mb then sig else (q + f.mb - f.emin + 1).toNat * 2 ^ f.mb + (sig - 2 ^ f.mb)

/-- R139: the magnitude rounded as if the exponent range were unbounded is below the smallest normal. -/
def FFmt.tiny (f : FFmt) (rm : RMode) (r : Nat) (neg : Bool) (m : Nat) (e : Int) : Bool :=
  let q : Int := m.log2 + e - f.mb
  let sig := roundAt rm r neg m e q
  decide ((sig.log2 : Int) + q < f.emin)

/-- The overflow outcome of R157 for a finite value beyond Max: code and flags. -/
def FFmt.overflow (f : FFmt) (rm : RMode) (neg : Bool) : Nat × Flags :=
  if f.signals then
    let toInf : Bool := match rm with
      | .rtz => false
      | .rdn => neg
      | .rup => !neg
      | _ => true
    (f.signed neg (if toInf then f.infCode else f.maxCode), fOF ||| fNX)
  else (f.signed neg f.maxCode, fSAT ||| fNX)

/-- R149 to R157: an exact value rounded once to a format, with its flags. -/
def FFmt.round (f : FFmt) (rm : RMode) (r : Nat) (x : Num) : Nat × Flags :=
  match x with
  | .nan s => (f.nanCode, flagIf (if f.hasNan then s else true) fNV)
  | .inf neg =>
    if f.hasInf then (f.signed neg f.infCode, 0#10) else (f.signed neg f.maxCode, fSAT)
  | .fin neg 0 _ => (f.signed neg 0, 0#10)
  | .fin neg m e =>
    let q := f.quantum m e
    -- R153: beyond Max the stochastic mode acts as nearest-even
    let beyond : Bool := match rm with
      | .sto => decide (f.maxCode < f.magCode (roundAt .rup r false m e q) q)
      | _ => false
    let rm := if beyond then RMode.rne else rm
    let sig := roundAt rm r neg m e q
    let mag := f.magCode sig q
    if f.maxCode < mag then f.overflow rm neg
    else
      let inex := !exactAt m e q
      (f.signed neg mag, flagIf inex fNX ||| flagIf (inex && f.tiny rm r neg m e) fUF)

/-- An exact value rounded to an integer. -/
def Num.toInt (rm : RMode) (r : Nat) (neg : Bool) (m : Nat) (e : Int) : Int :=
  let v : Int := roundAt rm r neg m e 0
  if neg then -v else v

/-- R157, R158: an exact floating-point value converted to an integer target of range `lo` to `hi`. -/
def toIntRange (lo hi : Int) (rm : RMode) (r : Nat) (x : Num) : Int × Flags :=
  match x with
  | .nan _ => (0, fNV)
  | .inf neg => (if neg then lo else hi, fSAT ||| fNV)
  | .fin neg m e =>
    -- R153: beyond the range the stochastic mode acts as nearest-even
    let far := Num.toInt .rup r false m e
    let far := if neg then -far else far
    let rm := if rm = .sto && (far < lo || hi < far) then RMode.rne else rm
    let v := Num.toInt rm r neg m e
    if v < lo then (lo, fSAT ||| fNV)
    else if hi < v then (hi, fSAT ||| fNV)
    else (v, flagIf (!exactAt m e 0) fNX)

/-- R190: an integer narrowed to a target range, with SAT. -/
def clampInt (lo hi v : Int) : Int × Flags :=
  if v < lo then (lo, fSAT) else if hi < v then (hi, fSAT) else (v, 0#10)

def sMin (w : Nat) : Int := -(2 ^ (w - 1))
def sMax (w : Nat) : Int := 2 ^ (w - 1) - 1
def uMax (w : Nat) : Int := 2 ^ w - 1

/-- A code of width `w` read as two's complement. -/
def toSigned (w c : Nat) : Int := if bitN c (w - 1) then (c : Int) - 2 ^ w else c

/-- An integer as a code of width `w`, wrapping. -/
def ofSigned (w : Nat) (v : Int) : Nat := (v % 2 ^ w).toNat

/-! ## IEEE operations on exact values (R136 to R141) -/

/-- The flag of a signalling NaN operand (R137). -/
def sigNv (xs : List Num) : Flags := flagIf (xs.any Num.isSig) fNV

/-- The exact sum, with the flags that do not come from rounding; `rdn` gives the sign of an exact zero (R140). -/
def Num.add (rdn : Bool) (a b : Num) : Num × Flags :=
  match a, b with
  | .nan _, _ => (.nan false, sigNv [a, b])
  | _, .nan _ => (.nan false, sigNv [a, b])
  | .inf p, .inf q => if p == q then (.inf p, 0#10) else (.nan false, fNV)
  | .inf p, _ => (.inf p, 0#10)
  | _, .inf q => (.inf q, 0#10)
  | .fin p m e, .fin q n f =>
    let g := min e f
    let v := Num.scaled p m e g + Num.scaled q n f g
    (Num.ofInt v g (if m == 0 && n == 0 && p == q then p else rdn), 0#10)

/-- The exact product. -/
def Num.mul (a b : Num) : Num × Flags :=
  match a, b with
  | .nan _, _ => (.nan false, sigNv [a, b])
  | _, .nan _ => (.nan false, sigNv [a, b])
  | .inf p, b => if b.isZero then (.nan false, fNV) else (.inf (p != b.negative), 0#10)
  | a, .inf q => if a.isZero then (.nan false, fNV) else (.inf (a.negative != q), 0#10)
  | .fin p m e, .fin q n f => (.fin (p != q) (m * n) (e + f), 0#10)

/-- The exact a × b + c. -/
def Num.fma (rdn : Bool) (a b c : Num) : Num × Flags :=
  let nv := sigNv [a, b, c]
  if a.isNan || b.isNan then (.nan false, nv)
  else
    let (p, f) := Num.mul a b
    if p.isNan then
      (.nan false, if c.isNan && !c.isSig then flagIf Config.fmaZeroInfQuietNv fNV else fNV)
    else
      let (s, g) := Num.add rdn p c
      (s, f ||| g)

/-- The quotient to 128 bits beyond the operands', its lowest bit a sticky bit; far finer than any target format. -/
def Num.div (a b : Num) : Num × Flags :=
  match a, b with
  | .nan _, _ => (.nan false, sigNv [a, b])
  | _, .nan _ => (.nan false, sigNv [a, b])
  | .inf p, .inf _ => (if p then .nan false else .nan false, fNV)
  | .inf p, b => (.inf (p != b.negative), 0#10)
  | .fin p _ _, .inf q => (.fin (p != q) 0 0, 0#10)
  | .fin p m e, .fin q n f =>
    if n == 0 then
      if m == 0 then (.nan false, fNV) else (.inf (p != q), fDZ)
    else
      let k := 128 + n.log2
      let t := m * 2 ^ k
      (.fin (p != q) (2 * (t / n) + b2n (t % n != 0)) (e - f - k - 1), 0#10)

/-- The integer square root by bits, from bit `k - 1` down. -/
def isqrtBits : Nat → Nat → Nat → Nat
  | 0, _, acc => acc
  | k + 1, n, acc =>
    let t := acc + 2 ^ k
    isqrtBits k n (if t * t ≤ n then t else acc)

def isqrt (n : Nat) : Nat := isqrtBits (n.log2 / 2 + 1) n 0

/-- The square root to well beyond any target format, its lowest bit a sticky bit. -/
def Num.sqrt (a : Num) : Num × Flags :=
  match a with
  | .nan s => (.nan false, flagIf s fNV)
  | .inf neg => if neg then (.nan false, fNV) else (.inf false, 0#10)
  | .fin neg 0 e => (.fin neg 0 e, 0#10)
  | .fin true _ _ => (.nan false, fNV)
  | .fin false m e =>
    let k : Nat := 256 + (e % 2).toNat
    let t := m * 2 ^ k
    let s := isqrt t
    (.fin false (2 * s + b2n (s * s != t)) ((e - k) / 2 - 1), 0#10)

/-- The order of two values that are no NaN: less, equal or greater; −0 equals +0 (R180). -/
def Num.cmp (a b : Num) : Ordering :=
  match a, b with
  | .inf p, .inf q => if p == q then .eq else if p then .lt else .gt
  | .inf p, _ => if p then .lt else .gt
  | _, .inf q => if q then .gt else .lt
  | .fin p m e, .fin q n f =>
    let g := min e f
    compare (Num.scaled p m e g) (Num.scaled q n f g)
  | _, _ => .eq

/-- R141: minimumNumber (`maxi` false) and maximumNumber (`maxi` true); −0 is less than +0. -/
def Num.minMax (maxi : Bool) (a b : Num) : Num × Flags :=
  let nv := sigNv [a, b]
  if a.isNan && b.isNan then (.nan false, nv)
  else if a.isNan then (b, nv)
  else if b.isNan then (a, nv)
  else
    match Num.cmp a b with
    | .lt => (if maxi then b else a, nv)
    | .gt => (if maxi then a else b, nv)
    | .eq => (if maxi then (if a.negative then b else a) else (if a.negative then a else b), nv)

/-- R180: the three compares; `quiet` is the equality compare, which signals only on a signalling NaN. -/
def Num.compareOp (quiet : Bool) (p : Ordering → Bool) (a b : Num) : Bool × Flags :=
  if a.isNan || b.isNan then (false, if quiet then sigNv [a, b] else fNV) else (p (Num.cmp a b), 0#10)

/-! ## Operations on codes -/

/-- An exact result rounded to its format, its flags joined. -/
def FFmt.finish (f : FFmt) (rm : RMode) (x : Num × Flags) : Nat × Flags :=
  let (c, g) := f.round rm 0 x.1
  (c, x.2 ||| g)

def isRdn (rm : RMode) : Bool := decide (rm = .rdn)

def FFmt.add (f : FFmt) (rm : RMode) (a b : Nat) : Nat × Flags :=
  f.finish rm (Num.add (isRdn rm) (f.decode a) (f.decode b))

def FFmt.sub (f : FFmt) (rm : RMode) (a b : Nat) : Nat × Flags :=
  f.finish rm (Num.add (isRdn rm) (f.decode a) (f.decode b).neg)

def FFmt.mul (f : FFmt) (rm : RMode) (a b : Nat) : Nat × Flags :=
  f.finish rm (Num.mul (f.decode a) (f.decode b))

def FFmt.div (f : FFmt) (rm : RMode) (a b : Nat) : Nat × Flags :=
  f.finish rm (Num.div (f.decode a) (f.decode b))

def FFmt.sqrt (f : FFmt) (rm : RMode) (a : Nat) : Nat × Flags :=
  f.finish rm (Num.sqrt (f.decode a))

def FFmt.fma (f : FFmt) (rm : RMode) (a b c : Nat) : Nat × Flags :=
  f.finish rm (Num.fma (isRdn rm) (f.decode a) (f.decode b) (f.decode c))

def FFmt.minMax (f : FFmt) (maxi : Bool) (a b : Nat) : Nat × Flags :=
  f.finish .rne (Num.minMax maxi (f.decode a) (f.decode b))

/-- Equality, less and less-or-equal, numbered 0, 1, 2 (R180). DEDUCED for the scalar FLT and FLE: a quiet NaN sets NV in them as 04:R180
says of the vector compares; 03:R137 names signalling NaNs only. -/
def FFmt.compareCode (f : FFmt) (which a b : Nat) : Bool × Flags :=
  match which with
  | 0 => Num.compareOp true (fun o => o == .eq) (f.decode a) (f.decode b)
  | 1 => Num.compareOp false (fun o => o == .lt) (f.decode a) (f.decode b)
  | _ => Num.compareOp false (fun o => o != .gt) (f.decode a) (f.decode b)

/-- Conversion between floating-point formats (R156, R157). -/
def FFmt.convert (src dst : FFmt) (rm : RMode) (r : Nat) (a : Nat) : Nat × Flags :=
  let x := src.decode a
  let (c, g) := dst.round rm r x
  (c, g ||| sigNv [x])

/-- Conversion of an integer to a floating-point format (R158). -/
def FFmt.ofInteger (dst : FFmt) (rm : RMode) (r : Nat) (v : Int) : Nat × Flags :=
  dst.round rm r (Num.ofInt v 0 false)

/-! ## MX blocks (R142 to R145, R161) -/

/-- `x × 2^k`, exactly. -/
def Num.scale (k : Int) : Num → Num
  | .fin n m e => .fin n m (e + k)
  | x => x

/-- R142, R143: the value of an element whose own value is `v` under the scale code `c`. -/
def mxValue (c : Nat) (v : Num) : Num :=
  match e8m0Exp c with
  | none => .nan false
  | some k => v.scale k

/-- R144: the value of an MXINT8 code. -/
def mxInt8 (c : Nat) : Num := Num.ofInt (toSigned 8 c) (-6) false

/-- floor(log2 |x|) of a finite non-zero value. -/
def Num.floorLog2 : Num → Int
  | .fin _ m e => m.log2 + e
  | _ => 0

/-- The larger in magnitude of two finite values. -/
def Num.maxAbs (a b : Num) : Num := if Num.cmp a.abs b.abs == .lt then b.abs else a.abs

/-- A block element format of R161: a floating-point element or MXINT8. -/
inductive MxFmt where
  | fp (f : FFmt)
  | int8
  deriving DecidableEq, Repr

/-- EMAX of R161. -/
def MxFmt.emax : MxFmt → Int
  | .fp f => if f.mb == 1 then 2 else if f.mb == 2 then (if f.eb == 5 then 15 else 4) else (if f.eb == 4 then 8 else 2)
  | .int8 => 0

/-- One element of R161, already divided by 2^e: for MXINT8 the code's value is k × 2^−6. -/
def MxFmt.element (f : MxFmt) (rm : RMode) (r : Nat) (x : Num) : Nat × Flags :=
  match f with
  | .fp f => f.round rm r x
  | .int8 =>
    match x.scale 6 with
    | .fin neg m e =>
      -- R153: beyond Max the stochastic mode acts as nearest-even
      let rm' : RMode := match rm with
        | .sto => if (if neg then 128 else 127) < roundAt .rup r false m e 0 then .rne else .sto
        | q => q
      let v := Num.toInt rm' r neg m e
      if v < -128 then (ofSigned 8 (-128), fSAT ||| fNX)
      else if 127 < v then (127, fSAT ||| fNX)
      else (ofSigned 8 v, flagIf (!exactAt m e 0) fNX)
    | _ => (0, 0#10)

/-- R161: the scale of a block, and whether the block is finite and non-zero. -/
def MxFmt.blockScale (f : MxFmt) (xs : List Num) : Nat :=
  if xs.any (fun x => x.isNan || x.isInf) then 0xFF
  else
    let amax := xs.foldl Num.maxAbs (.fin false 0 0)
    if amax.isZero then 0
    else
      let e := amax.floorLog2 - f.emax
      let e := if e < -127 then -127 else if 127 < e then 127 else e
      (e + 127).toNat

/-- R161: the code and flags of one element of a block of scale code `c`, `z` when the whole block is zero. -/
def MxFmt.blockElement (f : MxFmt) (c : Nat) (z : Bool) (rm : RMode) (r : Nat) (x : Num) : Nat × Flags :=
  if c == 0xFF then (0, fNV)
  else if z then
    match f with
    | .fp g => (g.signed x.negative 0, 0#10)
    | .int8 => (0, 0#10)
  else f.element rm r (x.scale (127 - c))

end Sys2Proof.Machine
end

