-- ==== Sys2Proof/Machine/State.lean ====
section
/-! DEFINITION. The state of the device as plain data: per core the registers, engines, banks and memories (spec/02, 04 to 09,
14), and per device the shared cache, HBM, DMA clusters, fabric, light sources, host queues, journal, power,
start-up, repair, security and management state (spec/10 to 21); the reasons a command can stop; reset. -/

namespace Sys2Proof.Machine

/-! ## A core (02, 04 to 09, 14) -/

/-- One region table entry of a core's scratchpad, in units of 4 KiB (01:R48). -/
structure Region where
  base : Nat
  size : Nat
  r    : Bool
  w    : Bool
  deriving DecidableEq, Repr

/-- One buffered scalar store (02:R112): core-local address, width in bytes, data. -/
structure SbEntry where
  addr : Nat
  size : Nat
  data : Word
  deriving DecidableEq, Repr

/-- One output of a bank (07:R291). `chunk` is empty outside an MXMMA. -/
structure AccOut where
  total : BitVec 192
  spc   : BitVec 2
  inx   : Bool
  rng   : Bool
  mg    : BitVec 40
  chunk : Option Half
  deriving DecidableEq, Repr

/-- An accumulator bank (07:R290 to 07:R292): its tag, its poison mark with the failing word's address, and its
outputs; outputs past the end of the list are zero. -/
structure Bank where
  tag    : Option (AccMode × BitVec 12)
  poison : Bool
  outs   : List AccOut
  deriving DecidableEq, Repr

/-- An issued MXMMA (06:R264, 06:R279): its address, its bank, what the bank holds before and after the last K-step is
added, the flags it sets, and the uncorrectable words that its feed reads, as core-local addresses (06:R272). -/
structure MxFlight where
  pc    : BitVec 20
  bank  : BitVec 2
  mid   : Bank
  final : Bank
  flags : BitVec 10
  bad   : List Nat
  deriving DecidableEq, Repr

/-- An issued MXDRAIN (07:R321 to 07:R323): address, bank, form, flags, the uncorrectable words of a fill, and whether it drew
stochastically. -/
structure DrainFlight where
  pc    : BitVec 20
  bank  : BitVec 2
  fill  : Bool
  flags : BitVec 10
  bad   : List Nat
  sr    : Bool
  deriving DecidableEq, Repr

/-- An issued ARUN (05:R238, R239): its slot, the banks it reads, the banks it releases when it completes, and whether its
destination conversions are stochastic. -/
structure ArunFlight where
  slot  : BitVec 3
  reads : List (BitVec 2)
  rel   : List (BitVec 2)
  sto   : Bool
  deriving DecidableEq, Repr

/-- The arithmetic record (09:R399). -/
structure ArithRec where
  flags : BitVec 10
  first : BitVec 20
  last  : BitVec 20
  deriving DecidableEq, Repr

/-- Why a core does not issue now (02:R108): a stall at issue, or a wait at a sync point. -/
inductive Stall where
  | none | issue | sync
  deriving DecidableEq, Repr

/-- A core reset that the management core has yet to journal and decide (09:R388 to 09:R391). -/
structure ResetReq where
  hw    : Bool
  df    : Bool
  nest  : Bool
  int   : Bool
  cause : BitVec 8
  pc    : BitVec 20
  deriving DecidableEq, Repr

/-- A SIGPOST that has issued and not taken effect (14:R590): the target word, the increment, the core's own
descriptors (channel, ticket) that it waits for, and its number in the effect log. -/
structure SigPost where
  target : Word
  inc    : Word
  waits  : List (ChanId × BitVec 32)
  log    : Nat
  deriving DecidableEq, Repr

/-- One core: its architectural state, its engines' state and its memories. `found` are the uncorrectable words that its stores and
engines have come upon and the device has yet to count (09:R397); `torn` are the IMEM words that a transfer of a channel has written in
part, with their old contents (02:R125); `parts` are the enabled flags of strips done under PAM by interrupted instructions that have yet to
complete, by address (09:R404); `foreign` are the channels that other cores queued on since its safe point (14:R608);
`decided` is a replay to be made: on a spare or not, and its TRAP entry (09:R391). -/
structure Core where
  gregs    : Vector Word 30
  spK      : Word
  spR      : Word
  spF      : Word
  pc       : BitVec 20
  tlvl     : Tlvl
  banks    : Vector TrapBank 3
  cycle    : Word
  stlIssue : Word
  stlSync  : Word
  instret  : Word
  fflags   : BitVec 10
  fmode    : Fmode
  asc      : Word
  seed     : Vector Half 4
  spint    : BitVec 16
  -- scalar unit
  sb       : List SbEntry
  stale    : List (Nat × Half)
  stall    : Stall
  -- memories
  imem     : Mem
  dmem     : Mem
  spad     : Mem
  badImem  : List Nat
  badDmem  : List Nat
  badSpad  : List Nat
  regions  : List Region
  found    : List (MemKind × Nat)
  torn     : List (ChanId × Nat × Half)
  parts    : List (BitVec 20 × BitVec 10)
  -- vector engine and Accord
  vregs    : Mem
  masks    : Vector (BitVec 65536) 8
  vl       : BitVec 18
  ew       : BitVec 3
  grp      : BitVec 2
  vcur     : BitVec 18
  stoV     : BitVec 14
  stoA     : BitVec 14
  stoD     : BitVec 14
  slots    : Vector (Option AccordProg) 8
  arun     : Option ArunFlight
  -- matrix
  mxcfg    : Option MxCfg
  epi      : Option EpiCfg
  abanks   : Vector Bank 4
  mxq      : List MxFlight
  drains   : List DrainFlight
  -- traps
  dfault   : Bool
  halted   : Bool
  held     : Bool
  active   : Bool
  pMemErr  : Option Word
  pNotice  : Option (BitVec 8)
  pSpint   : Option Word
  pHalt    : Bool
  arec     : ArithRec
  resetReq : Option ResetReq
  resets   : Nat
  -- safe points
  spintFrom : Word
  spintDone : Bool
  posts    : List SigPost
  elogD    : List LogD
  elogS    : List Bool
  replayD  : List LogD
  replayS  : List Bool
  ckpt     : Option Checkpoint
  ckptNew  : Option Checkpoint
  ckptSlot : Bool
  foreign  : List ChanId
  decided  : Option (Bool × Word)
  deriving DecidableEq, Repr

/-- The memories of a physical core that a logical core has left by failover, until they are wiped (18:R748). -/
structure LeftCore where
  core  : CoreId
  pcore : BitVec 5
  imem  : Mem
  dmem  : Mem
  spad  : Mem
  deriving DecidableEq, Repr

/-- The power states of 01:R41, Quench (16:R697), and no power (17:R712). -/
inductive PState where
  | off | run | idle | retention | heartOnly | quench
  deriving DecidableEq, Repr

/-! ## Shared cache and HBM (10) -/

/-- A valid line of a shared cache (10:R422, R425): its set and way, its tag, and its state. -/
structure Line where
  set_   : Nat
  way    : Nat
  tag    : Nat
  dirty  : Bool
  age    : Nat
  poison : Bool
  data   : List Byte
  deriving DecidableEq, Repr

/-- A requester class register (10:R427). -/
structure ScClass where
  mask   : BitVec 16
  policy : BitVec 2
  deriving DecidableEq, Repr

/-- A die's shared cache: SC_CTRL and SC_STAT (10:R431, R434), SC_CLASS0 to 7, the valid lines by rising set and way, the
retired ways (18:R746), and the lines that patrol or reads have found faulty once. -/
structure Cache where
  en      : Bool
  flush   : Bool
  inv     : Bool
  enNext  : Option Bool
  wrej    : Bool
  stale   : Bool
  wwd     : Bool
  dwd     : Bool
  classes : Vector ScClass 8
  lines   : List Line
  retired : List (Nat × Nat)
  noted   : List (Nat × Nat)
  deriving DecidableEq, Repr

/-- What a run of a generator wrote: granules from `lo` to before `hi` (10:R454). -/
structure HtgRun where
  pattern : BitVec 4
  seed    : Word
  lo      : Nat
  hi      : Nat
  deriving DecidableEq, Repr

/-- A channel's traffic generator and checker (10:R452), and what its runs wrote, the latest first. -/
structure Htg where
  wrote   : List HtgRun
  pattern : BitVec 4
  mode    : BitVec 2
  raw     : Bool
  running : Bool
  stop    : Bool
  begin_  : Half
  end_    : Half
  seed    : Word
  errors  : Half
  rej     : Bool
  ue      : Bool
  done    : Bool
  bytes   : Word
  word    : BitVec 5
  granule : Half
  deriving DecidableEq, Repr

/-- A stack's temperature sample and the two actions of 10:R450, each with the time since which the stack has read at
least 3 °C below its threshold. -/
structure StackTemp where
  temp  : Int
  dbl   : Bool
  half  : Bool
  dblCool  : Option Nat
  halfCool : Option Nat
  deriving DecidableEq, Repr

/-! ## DMA (11) -/

/-- A completion (11:R478): status, reason and cursor. -/
structure Fin_ where
  status : BitVec 8
  reason : BitVec 8
  bytes  : Nat
  plane  : Nat
  row    : Nat
  col    : Nat
  deriving DecidableEq, Repr

/-- A queued descriptor (11:R458, R463, R464): its eight words, its ticket, the core or the host queue that issued it, the
context it acts for, its entry in the effect log that it replays (14:R606), whether it was queued before the RUN in progress
and is left out of its counts (R459), and its completion once it has one. -/
structure Desc where
  words  : Vector Word 8
  ticket : BitVec 32
  core   : Option CoreId
  queue  : Option QueueId
  pasid  : Pasid
  redo   : Option LogD
  old    : Bool
  fin    : Option Fin_
  deriving DecidableEq, Repr

/-- What a host access needs: the page, whether it is written, whether it is for the completion record, and the first address of
the page that it touches. -/
structure Need where
  page : Nat
  wr   : Bool
  cpl  : Bool
  va   : Nat
  deriving DecidableEq, Repr

/-- What a channel's head waits for: nothing; an ATS Translation Completion (11:R488); a PRG Response (R494); room in the
fault ring before its Page Request is sent, or before it completes (R502); a response of the fabric (12:R525). -/
inductive ChanWait where
  | none
  | ats (n : Need)
  | prg (n : Need)
  | ringPage (n : Need)
  | ringEnd
  | remote
  deriving DecidableEq, Repr

/-- A TLB entry (11:R482): page base address, its size as a power of two, the bus address of the page. -/
structure TlbEntry where
  pasid  : Pasid
  va     : Nat
  log2   : Nat
  bus    : Nat
  r      : Bool
  w      : Bool
  pinned : Bool
  deriving DecidableEq, Repr

/-- A DMA channel (11:R456 to R461, R493 to R495): owner, queue with the head first, counts, and the head's walk: started,
its cursor, its flags, what it waits for, the pages it parked on with how often each after a Success (R495), prefetches asked for,
stream-prefetch mode (R491), the ATS and PRG answers that are still to come for descriptors that have ended (R498), and the
translations under which the access in progress was begun (R490), and the source bytes read whose destination bytes still wait for others, before
and after the access in progress (R493). -/
structure Chan where
  owner    : Option Pasid
  queue    : List Desc
  ticket   : BitVec 32
  done     : BitVec 32
  errs     : BitVec 32
  started  : Bool
  plane    : Nat
  row      : Nat
  col      : Nat
  flags    : BitVec 7
  wait     : ChanWait
  parks    : List (Nat × Nat)
  asked    : List Need
  got      : List Byte
  prefetch : Bool
  owedAts  : Nat
  owedPrg  : Nat
  xlat     : List TlbEntry
  carry    : List Byte
  carryNext : List Byte
  deriving DecidableEq, Repr

/-- A fault-ring entry (11:R501) in its eight words, and the channel that holds it until it is written (R502). -/
structure RingEntry where
  chan  : Option ChanId
  words : List Word
  deriving DecidableEq, Repr

/-- The fault ring (11:R499 to R503). -/
structure Ring where
  addr   : BitVec 50
  en     : Bool
  head   : BitVec 9
  tail   : BitVec 9
  cedrop : BitVec 32
  ovf    : BitVec 32
  ovec   : BitVec 8
  fvec   : BitVec 8
  held   : List RingEntry
  deriving DecidableEq, Repr

/-! ## Fabric (12) -/

/-- Link states (12:R508). -/
inductive LinkState where
  | unmapped | down | train | attest | up | hold
  deriving DecidableEq, Repr

/-- A link: LINK_STAT and LINK_CNT (12:R512), and the link protocol (12:R513 to R520): last LSEQ sent, last received in
order, flits sent and not acknowledged with their messages (oldest first), replays of the oldest, NAK sent and NAK received, lanes
marked failed (13:R559), credits by virtual channel, key phases and slot counters of the two directions, tag failures
since the last hour of UP, when UP or HOLD began, uncorrectable codewords this tick, the messages queued, the slot contents of the flits not
acknowledged, the keys of the two directions by number and the next key of each, the session of attestation by the device's draw, the credit to be
returned, since when each virtual channel has waited for credit, and the flits sent and received in the microsecond that passes. -/
structure Link where
  st      : LinkState
  cause   : BitVec 4
  lanemap : BitVec 16
  keyed   : Bool
  degr    : Bool
  spare   : Bool
  plink   : BitVec 6
  partner : BitVec 16
  feccorr : Half
  retry   : BitVec 16
  downs   : BitVec 16
  txSeq   : BitVec 16
  rxSeq   : BitVec 16
  unacked : List (BitVec 16)
  replays : Nat
  nak     : Bool
  nakIn   : Bool
  lost    : BitVec 16
  lostRx  : BitVec 16
  credits : Vector (BitVec 16) 8
  txKey   : Bool
  rxKey   : Bool
  txSlot  : Nat
  rxSlot  : Nat
  tagFails : Nat
  upSince : Nat
  badWords : Nat
  queue   : List Msg
  buf     : List (List Byte)
  txKeyNo : Nat
  rxKeyNo : Nat
  rxNext  : Option Nat
  txNext  : Option Nat
  session : Option Nat
  freed   : Vector Nat 8
  starved : Vector (Option Nat) 8
  sentUs  : Nat
  recvUs  : Nat
  deriving DecidableEq, Repr

/-- A flit that the device sends (12:R513): its link fields, its slot contents before encryption, and the key and nonce it goes under (none
in ATTEST, before the keys stand). -/
structure FlitOut where
  lseq  : BitVec 16
  lack  : BitVec 16
  nak   : Bool
  key   : Bool
  idle  : Bool
  cvc   : BitVec 3
  cred  : BitVec 16
  slots : List Byte
  keyNo : Option Nat
  nonce : BitVec 96
  deriving DecidableEq, Repr

/-- Who sent a request: an access of a descriptor on a channel, its completion record, or a SIGPOST. -/
inductive Sender where
  | chan (c : ChanId) (ticket : BitVec 32)
  | record (c : ChanId) (ticket : BitVec 32)
  | signal
  deriving DecidableEq, Repr

/-- A stream (12:R524 to R526): the context and window, its epoch, the next SEQ, the unacknowledged requests oldest
first, the resends since the last advance, and when acknowledgement last advanced or the stream was resent. -/
structure Stream where
  pasid   : Pasid
  win     : BitVec 6
  epoch   : BitVec 16
  seq     : BitVec 16
  unacked : List (Msg × Sender)
  resends : Nat
  advAt   : Nat
  deriving DecidableEq, Repr

/-- A member's current Drydown notice (12:R549, R550), with the time it arrived. -/
structure Notice where
  sender : BitVec 16
  level  : BitVec 3
  seq    : BitVec 16
  time   : Nat
  deriving DecidableEq, Repr

/-- Fabric time (12:R543 to R547) and this device's sync-group view (12:R549 to R551): the notices held, this
device's last notice (its number, time and level); `slew` is the correction in ns that the counter still makes by slewing;
`seen` are the group messages seen (12:R533), `discarded` the messages discarded and counted; `loop` are the messages to the device
itself that are to be delivered (R532), `untold` the management messages that wait for a route, `epoch` the EPOCH of the next stream that
begins, `quiet` the inbound windows of contexts that have left by EVACUATE (18:R754), and `timeTick` the tick of the last TIME
exchange. -/
structure Fabric where
  streams   : List Stream
  receivers : List Receiver
  seen      : List (BitVec 16 × BitVec 16)
  discarded : Nat
  timeErr   : Int
  timeLink  : Option LinkId
  holdover  : Bool
  locked    : Bool
  noParent  : Option Nat
  notices   : List Notice
  noticeSeq : BitVec 16
  noticeAt  : Nat
  noticeLvl : Option (BitVec 3)
  slew      : Int
  grpLevel  : BitVec 3
  grpSource : BitVec 16
  loop      : List Msg
  untold    : List Msg
  epoch     : BitVec 16
  quiet     : List (BitVec 6)
  timeTick  : Option Nat
  deriving DecidableEq, Repr

/-! ## Contexts, queues and the journal (15) -/

/-- A declared HBM or host region (15:R632), or part of a replay set (14:R600): base, bytes and permissions. -/
structure Span where
  base : Nat
  size : Nat
  r    : Bool
  w    : Bool
  deriving DecidableEq, Repr

/-- An outbound window (12:R535). -/
structure OutWin where
  win  : BitVec 6
  dest : BitVec 16
  rwin : BitVec 6
  deriving DecidableEq, Repr

/-- An inbound window (12:R537): granule code, sources, class, permissions and entries; an entry not valid is none. -/
structure InWin where
  win     : BitVec 6
  gran    : BitVec 2
  srcsel  : BitVec 16
  cls     : BitVec 3
  perm    : BitVec 4
  entries : List (Option Nat)
  deriving DecidableEq, Repr

/-- A requester class that a context holds (15:R632, 10:R428). -/
structure HeldClass where
  cls : BitVec 3
  val : ScClass
  deriving DecidableEq, Repr

/-- A RUN (15:R638 to R642): its queue (none for a RUN that an evacuation brought, 18:R754), its journal entry or 0, its
cores, and the exit values of the cores that have ended. -/
structure RunRec where
  queue : Option QueueId
  seq   : Word
  cores : BitVec 32
  exits : List (CoreId × Word)
  deriving DecidableEq, Repr

/-- What a paused context keeps of its RUN (14:R610): the core mask, the cores that had ended, with their exit values. -/
structure PausedRec where
  cores : BitVec 32
  exits : List (CoreId × Word)
  deriving DecidableEq, Repr

/-- Context states (15:R628). -/
inductive CtxState where
  | loaded | running | paused
  deriving DecidableEq, Repr

/-- A resident context (15:R628 to R637): its loadable's header fields and declarations, the device's key for its HBM
regions (19:R772), its signal counters and errors (14:R588, R591), the RUN in progress or the paused one, whether
LOAD or RESTORE still admits it (R630), and whether an EVACUATE keeps its inbound windows still (18:R754). -/
structure Context where
  pasid   : Pasid
  st      : CtxState
  loading : Bool
  mask    : BitVec 32
  direct  : Bool
  modes   : BitVec 8
  entry   : BitVec 20
  spintUs : BitVec 32
  lo      : Loadable
  hbm     : List Span
  host    : List Span
  chans   : List ChanId
  outs    : List OutWin
  ins     : List InWin
  classes : List HeldClass
  regions : List (CoreId × Region)
  replay  : List (CoreId × Span)
  hbmKey  : Nat
  counters : Vector Word 256
  sigErrs : BitVec 32
  quiet   : Bool
  run     : Option RunRec
  pausedRun : Option PausedRec
  deriving DecidableEq, Repr

/-- A command in flight on a queue (15:R617, R660): its sequence number, its entry, whether it has started, the time it
started, and once its work is done its status word and RESULT2. A DMA command has `rest` still to queue, waits for the
tickets of `wants`, has queued `last` last and counts `bad` ends; a FENCE waits for the commands of `fence`; the wait of a
SAVE or EVACUATE counts from `since`; `keyed` says that the save key of a SAVE comes from a tenant secret (19:R775). -/
structure Flight where
  seq     : Word
  entry   : CmdEntry
  started : Bool
  tStart  : Nat
  done    : Option (Word × Word)
  chan    : Option ChanId
  wants   : List (BitVec 32)
  rest    : List (Vector Word 8)
  last    : BitVec 32
  bad     : Nat
  fence   : List Word
  since   : Nat
  keyed   : Bool
  deriving DecidableEq, Repr

/-- A command queue (15:R613). -/
structure Queue where
  addr  : BitVec 52
  pasid : Pasid
  vec   : BitVec 8
  log2n : BitVec 5
  en    : Bool
  head  : BitVec 17
  tail  : BitVec 17
  dberr : Bool
  cur   : Option Flight
  deriving DecidableEq, Repr

/-- Phases of a journal entry (15:R658). -/
inductive Phase where
  | accepted | started | completed | abandoned
  deriving DecidableEq, Repr

/-- A journal entry (15:R657, R658). -/
structure JEntry where
  seq     : Word
  tAccept : Word
  tStart  : Word
  tDone   : Word
  digest  : BitVec 128
  status  : Word
  pasid   : Pasid
  queue   : BitVec 6
  dev     : Bool
  kind    : BitVec 5
  phase   : Phase
  clink   : Int
  deriving DecidableEq, Repr

/-- The journal (15:R656, R665): the entries held, oldest first, the next sequence number, and JOURNAL_ID. -/
structure Journal where
  entries : List JEntry
  tail    : Word
  ident   : Word
  deriving DecidableEq, Repr

/-! ## Repair (18) and the core map (01:R29) -/

/-- A byte of the core map without its die (01:R29). -/
structure MapByte where
  moved : Bool
  pcore : BitVec 5
  deriving DecidableEq, Repr

/-- What patrol has seen of one memory: where it was last, and the units in which it corrected errors in this pass and in
the one before (18:R742, R745, R746). -/
structure Patrol where
  last : Nat
  cur  : List Nat
  prev : List Nat
  deriving DecidableEq, Repr

/-- An ECC_CNT register (18:R760). -/
structure EccCount where
  corr : BitVec 32
  unc  : BitVec 32
  deriving DecidableEq, Repr

/-- Spares and repair of the device (18:R738 to R760); `repaired` gives for each physical core of a die the row and the column of its array
that a spare replaces (06:R282), `d2dLanes` for each lane group the lanes that its spares replaced at test, and `sram` for each die the SRAM
structures repaired with the spares used (17:R728, 18:R740). -/
structure Repair where
  good      : Vector (BitVec 18) 2
  map       : Vector MapByte 32
  repaired  : Vector (Vector ArrayFix 18) 2
  retired   : Vector (BitVec 18) 2
  rowsSpared : Vector (List Nat) 32
  movedMarks : Vector (List Nat) 32
  rowLost   : Bool
  lineLost  : Bool
  coreLost  : Bool
  patrolS   : Vector Patrol 32
  patrolC   : Vector Patrol 2
  d2dLeft   : Vector Nat 8
  d2dTest   : Vector Nat 8
  d2dLanes  : Vector (List Nat) 8
  sram      : Vector (List (Nat × Nat)) 2
  ecc       : Vector EccCount 5
  level     : BitVec 3
  redirects : List (BitVec 16 × BitVec 16)
  redirOver : Nat
  deriving DecidableEq, Repr

/-! ## Light sources (13) -/

/-- LS_STAT.STATE (13:R564). -/
inductive FeedState where
  | absent | check | warming | on | draining | removable | rejected | switching
  deriving DecidableEq, Repr

/-- A switch of a wavelength to its spare laser (13:R569, R570): planned or not, when SEL was written, and the links of the feed group whose rings
have yet to lock on the spare's line. -/
structure LaserSwitch where
  lane    : Fin 9
  planned : Bool
  selAt   : Option Nat
  relock  : List LinkId
  deriving DecidableEq, Repr

/-- A feed and its module (13:R560 to R575): LS_STAT, LS_FCAST, the module as read, the kept bias samples of each laser
with their hour, the wavelengths without a usable laser, whether a fault recheck has been made, whether the module is dark,
the wavelengths being switched (13:R569), the bits of LS_CTRL, the time up to which on-hours are counted, the parts of an hour of each laser
and of the module, the on-time since the last hourly update, and when the module was lit. -/
structure Feed where
  st       : FeedState
  reason   : BitVec 4
  dead     : BitVec 9
  module   : Option Module
  samples  : List (List (Nat × Nat))
  forecast : BitVec 32
  modHrs   : BitVec 32
  rechecked : Bool
  dark     : Bool
  sws      : List LaserSwitch
  swapBit  : Bool
  cancelBit : Bool
  litAt    : Nat
  laserNs  : List Nat
  modNs    : Nat
  sinceNs  : Nat
  warmAt   : Nat
  deriving DecidableEq, Repr

/-! ## Power, clocks and temperature (16) -/

/-- A Temper entry of a die and level (16:R672 to R675). -/
structure Temper where
  vnom : BitVec 10
  trim : BitVec 6
  vapp : BitVec 10
  aged : Bool
  hour : Option Nat
  deriving DecidableEq, Repr

/-- A quadrant (16:R693 to R696): its throttle causes in force with the time from which each has been 3 °C below, its pass
ratio in sixteenths, consecutive ticks below 16/16, and ticks since its last step upward. -/
structure Quad where
  ratio   : Nat
  below   : Nat
  upTicks : Nat
  core    : Bool
  coreCool : Option Nat
  tier    : Bool
  tierCool : Option Nat
  stack   : Bool
  stackCool : Option Nat
  deriving DecidableEq, Repr

/-- Power, clocks and temperature of the device (16). Energies are in units of 1/2048 J (watts times ticks); times in ns. -/
structure Power where
  level    : BitVec 3
  localCap : BitVec 3
  powerCap : BitVec 3
  droopCap : BitVec 3
  rising   : Option (BitVec 3 × BitVec 3)
  deferred : Option (BitVec 3)
  burst    : Bool
  armed    : Bool
  t0       : Nat
  balance  : Int
  overPl2  : Nat
  tickW    : BitVec 16
  ticks    : List (BitVec 16)
  energy   : Nat
  droops   : List (DieId × Fin 64 × Nat)
  stretched : Bool
  noRaise  : Nat
  depart   : Bool
  quads    : Vector Quad 8
  die      : Vector Bool 2
  dieCool  : Vector (Option Nat) 2
  noSkip   : Nat
  temper   : Vector (Vector Temper 8) 2
  stretch  : BitVec 32
  quenches : BitVec 8
  floors   : BitVec 8
  sustain  : BitVec 8
  therm    : BitVec 8
  alertLow : Bool
  floorHold : Option Nat
  floored  : Bool
  climbing : Bool
  quenchN  : Bool
  quenchInLow : Bool
  quenchCool : Option Nat
  quenchFrom : PState
  idleSince : Nat
  slots    : Vector Nat 32
  temps    : Temps
  govTick  : Option Nat
  pl2Tick  : Option Nat
  skipTick : Option Nat
  riseTick : Option Nat
  creditTick : Option Nat
  deriving DecidableEq, Repr

/-! ## Start-up, staging, security and management (17, 19, 20, 21) -/

/-- What start-up waits for (17:R714, 21:R817, R822, R823): power-good, the crystal, its turn in the reset chain, a
regulator group, the firmware, the die-to-die exchange, the links and their modules; or nothing more. -/
inductive BootWait where
  | power | crystal | chain | heartPg | firmware | topPg | linkPg | d2d | links | done
  deriving DecidableEq, Repr

/-- Start-up and staging (17:R714 to R733, 21:R817 to R823): what start-up found and waits for, BOOT_STAT, BOOT_VER and
BOOT_OTHER (17:R731), the Safe-hold cause that waits for the heart domain, the pins of power control and of the reset chain, the flash slots, the
image in use, the read depth of each die-to-die lane group's crossing FIFO (14:R582), the staging in progress with its path (PLDM or DOE), bytes and last data time, the power state that the device wakes from, the REFOUT pins that it
drives (21:R821), and XSPI_RESET_N (21:R830). -/
structure Boot where
  inputs  : Option StartInputs
  wait    : BootWait
  stage   : BitVec 4
  hold    : BitVec 8
  failed  : BitVec 8
  report  : BitVec 8
  slot    : Bool
  warm    : Bool
  ready   : Bool
  retry   : Bool
  version : Word
  other   : BitVec 2
  staging : BitVec 2
  pwrgd   : Bool
  qslot   : BitVec 2
  qrstIn  : Bool
  qrstOut : Bool
  hrtEn   : Bool
  tnEn    : Bool
  lnkEn   : Bool
  pgSince : Nat
  chainFrom : Nat
  d2dFails : Nat
  depth   : Vector (Option Nat) 8
  crystal : Bool
  slotA   : Slot
  slotB   : Slot
  image   : Option SlotImage
  path    : Option Bool
  stBytes : Nat
  stLast  : Nat
  update  : Bool
  runSeen : Bool
  waking  : Option PState
  refOut  : BitVec 3
  xspiRstN : Bool
  deriving DecidableEq, Repr

/-- A secure session (19:R766): transport, number, mutual authentication, whether FINISH has set it up, and the draw of its
keys. -/
structure Session where
  via    : Transport
  ident  : Nat
  mutualAuth : Bool
  open_  : Bool
  key    : Nat
  deriving DecidableEq, Repr

/-- What the alias certificate carries (19:R763, R765): the alias public key, the extension, and the identity key's signature. -/
structure AliasCert where
  key : BitVec 768
  ext : BitVec 384
  sig : BitVec 768
  deriving DecidableEq, Repr

/-- Keys, sessions and debug (19:R766 to R791). Keys are numbers that name the keys drawn; a journal key names its draw. -/
structure Security where
  aliasKey : Nat
  aliasCert : Option AliasCert
  devHbm   : Nat
  devSave  : Nat
  jkeys    : List (Pasid × Nat)
  secrets  : List (Pasid × BitVec 256)
  sessions : List Session
  ide      : Vector Bool 5
  debug    : Bool
  scope    : BitVec 2
  nonce    : Option (Nat × Nat)
  denied   : BitVec 8
  deriving DecidableEq, Repr

/-- An accepted action of a state effecter, until the next tick edge (20:R802, R803). -/
inductive Action where
  | coldRestart | warmReset | heartOnly
  | swapFeed (k : FeedId) | cancelSwap (k : FeedId)
  | debugHalt (c : CoreId)
  deriving DecidableEq, Repr

/-- The readings of one tick (20:R798, R799): the time stamp, the powers, energy, rail voltages and currents, the states
and the temperatures. -/
structure Published where
  stamp  : Nat
  tickW  : Nat
  avg1s  : Nat
  energy : Nat
  volts  : List Nat
  amps   : List Nat
  level  : Nat
  pstate : Nat
  patina : Nat
  boot   : Nat
  temps  : Temps
  feeds  : List (Nat × Option Int)
  links  : List Nat
  deriving DecidableEq, Repr

/-- The management plane (20:R792 to R807): endpoint and dynamic address, the event queue with event data, drops counted
and drops not yet reported, the receiver, the published readings with the tick of their publication, and the accepted
action. -/
structure Mgmt where
  eid     : BitVec 8
  dyn     : BitVec 7
  events  : List (Nat × List Word)
  evdrop  : BitVec 16
  owed    : Nat
  rcvr    : Option (BitVec 8)
  fwrun   : Bool
  pub     : Option Published
  pubTick : Option Nat
  actions : List Action
  deriving DecidableEq, Repr

/-- What the device sends to the outside: reads of and writes to host memory, MSI-X interrupts, ATS and Page Requests, completions of
line requests, messages and flits on links, a save image (19:R780: its header; its body, AES-256-GCM ciphertext of the content under the save key;
its tag) and the content of an evacuation (18:R754), answers of the management plane and of SPDM, ATS Invalidation Completions,
and what a debug access reads. -/
inductive Out where
  | hostWrite (pasid : Option Pasid) (translated : Bool) (addr : Nat) (bytes : List Byte)
  | hostRead (pasid : Option Pasid) (translated : Bool) (addr : Nat) (bytes : Nat)
  | msix (vec : BitVec 8)
  | atsRequest (ch : ChanId) (pasid : Pasid) (page : Nat) (wr : Bool)
  | pageRequest (ch : ChanId) (pasid : Pasid) (page : Nat) (wr : Bool)
  | invalDone (pasid : Pasid) (va : Nat) (bytes : Nat)
  | lineReply (status : BitVec 8) (flags : BitVec 7) (bytes : List Byte)
  | message (l : Option LinkId) (m : Msg)
  | saveImage (pasid : Pasid) (addr : Nat) (bytes : Nat) (header : List Byte) (t : Transfer)
  | transfer (dest : BitVec 16) (t : Transfer)
  | flit (l : LinkId) (f : FlitOut)
  | reply (kind : Nat) (code : Nat) (body : List Nat)
  | event (receiver : BitVec 8) (inBand : Bool) (code : Nat) (data : List Word)
  | moduleWrite (k : FeedId) (field : Nat) (bytes : List Byte)
  | avs (reg : Fin 3) (mv : Nat)
  | pmbus (reg : Fin 2) (ocWarnAmps : Nat)
  | debugData (bytes : List Byte)
  deriving DecidableEq, Repr

/-! ## The device -/

/-- Reasons a command stops: there is none that the spec calls for, so this has only the case below. -/
inductive Fault where
  /-- Raised by no meaning of this model: every stop of the hardware is an effect on the state.  Safe. -/
  | never
  deriving DecidableEq, Repr

/-- Reasons a command is refused. -/
inductive Refusal where
  /-- Raised by an arm of exec for a command with no meaning yet.  Safe: the machine stops. -/
  | notModelled (mnemonic : String)
  deriving DecidableEq, Repr

/-- The whole device and the queue of waiting commands. `time` is the device time counter in ns; `us` counts the
microseconds of idle steps; `fresh` counts the draws of values that the manual leaves open (the model's own field);
`keys` counts the keys drawn; `invals` are the ATS Invalidation Requests whose completion waits for accesses begun under the removed
entries (11:R490); `left` are the memories that hold data on physical cores which serve no logical core, the others being zero (18:R739, R748);
`ats`, `pri` and `priStopped` are the PCIe configuration as 11:R489 and R496 use it. -/
structure State where
  pending  : List Instr
  cores    : Vector Core 32
  pstate   : PState
  gated    : BitVec 32
  time     : Nat
  us       : Nat
  fresh    : Nat
  keys     : Nat
  out      : List Out
  caches   : Vector Cache 2
  hbm      : Mem
  hbmBad   : List Nat
  hbmKeys  : List (Nat × Nat)
  htg      : Vector Htg 256
  hbmTemps   : Vector StackTemp 8
  chans    : Vector Chan 128
  tlbs     : Vector (List TlbEntry) 16
  ring     : Ring
  invals   : List (Pasid × Nat × Nat)
  ats      : Bool
  pri      : Bool
  priStopped : Bool
  links    : Vector Link 35
  fab      : Fabric
  ctxs     : List Context
  queues   : Vector Queue 64
  journal  : Journal
  rep      : Repair
  left     : List LeftCore
  feeds    : Vector Feed 4
  power    : Power
  boot     : Boot
  sec      : Security
  mgmt     : Mgmt
  deriving DecidableEq, Repr

/-! ## Reset

Register values are those of the rule cited; where the spec gives none, the value is zero (logged). -/

def ScClass.reset : ScClass := ⟨0xFFFF#16, 0#2⟩

/-- SC_CLASS7 is fixed (10:R428). -/
def ScClass.seven : ScClass := ⟨0xFFFF#16, 1#2⟩

/-- 10:R427, R431, R434. -/
def Cache.reset : Cache :=
  { en := true, flush := false, inv := false, enNext := none, wrej := false, stale := false, wwd := false, dwd := false,
    classes := (Vector.replicate 8 ScClass.reset).set 7 ScClass.seven,
    lines := [], retired := [], noted := [] }

/-- 10:R452. -/
def Htg.reset : Htg :=
  { wrote := [], pattern := 0#4, mode := 0#2, raw := false, running := false, stop := false, begin_ := 0#32, end_ := 0x00C00000#32,
    seed := 1#64, errors := 0#32, rej := false, ue := false, done := false, bytes := 0#64, word := 0#5, granule := 0#32 }

def StackTemp.reset : StackTemp := ⟨0, false, false, none, none⟩

def Chan.reset : Chan :=
  { owner := none, queue := [], ticket := 0#32, done := 0#32, errs := 0#32, started := false, plane := 0, row := 0,
    col := 0, flags := 0#7, wait := .none, parks := [], asked := [], got := [], prefetch := false,
    owedAts := 0, owedPrg := 0, xlat := [], carry := [], carryNext := [] }

/-- 11:R499. -/
def Ring.reset : Ring :=
  { addr := 0#50, en := false, head := 0#9, tail := 0#9, cedrop := 0#32, ovf := 0#32, ovec := 0#8, fvec := 0#8, held := [] }

/-- 12:R512. -/
def Link.reset : Link :=
  { st := .unmapped, cause := 0#4, lanemap := 0#16, keyed := false, degr := false, spare := false, plink := 0#6,
    partner := 0xFFFF#16, feccorr := 0#32, retry := 0#16, downs := 0#16, txSeq := 0#16, rxSeq := 0#16, unacked := [],
    replays := 0, nak := false, nakIn := false, lost := 0#16, lostRx := 0#16, credits := Vector.replicate 8 0#16, txKey := false, rxKey := false, txSlot := 0,
    rxSlot := 0, tagFails := 0, upSince := 0, badWords := 0, queue := [], buf := [], txKeyNo := 0, rxKeyNo := 0, rxNext := none, txNext := none, session := none, recvUs := 0,
    freed := Vector.replicate 8 0, starved := Vector.replicate 8 none, sentUs := 0 }

/-- 12:R547, R551. -/
def Fabric.reset : Fabric :=
  { streams := [], receivers := [], seen := [], discarded := 0, timeErr := 0, timeLink := none, holdover := false,
    locked := false, noParent := none, notices := [], noticeSeq := 0#16, noticeAt := 0, noticeLvl := none, slew := 0, grpLevel := 0#3, grpSource := 0#16,
    loop := [], untold := [], epoch := 0#16, quiet := [], timeTick := none }

/-- 15:R613. -/
def Queue.reset : Queue :=
  { addr := 0#52, pasid := 0#20, vec := 0#8, log2n := 4#5, en := false, head := 0#17, tail := 0#17, dberr := false,
    cur := none }

/-- 15:R665; JOURNAL_ID is drawn at each cold start. -/
def Journal.reset : Journal := ⟨[], 1#64, 0#64⟩

def Patrol.reset : Patrol := ⟨0, [], []⟩

/-- An array with nothing replaced. -/
def ArrayFix.none : ArrayFix := ⟨Option.none, Option.none⟩

/-- 18:R760; before the fuses are read no core is known good. -/
def Repair.reset : Repair :=
  { good := Vector.replicate 2 0#18, map := Vector.replicate 32 ⟨false, 0#5⟩, repaired := Vector.replicate 2 (Vector.replicate 18 ArrayFix.none),
    retired := Vector.replicate 2 0#18, rowsSpared := Vector.replicate 32 [], movedMarks := Vector.replicate 32 [], rowLost := false, lineLost := false,
    coreLost := false, patrolS := Vector.replicate 32 Patrol.reset, patrolC := Vector.replicate 2 Patrol.reset,
    d2dLeft := Vector.replicate 8 0, d2dTest := Vector.replicate 8 0, d2dLanes := Vector.replicate 8 [],
    sram := Vector.replicate 2 [], ecc := Vector.replicate 5 ⟨0#32, 0#32⟩,
    level := 0#3, redirects := [], redirOver := 0 }

/-- 13:R564. -/
def Feed.reset : Feed :=
  { st := .absent, reason := 0#4, dead := 0#9, module := none, samples := [], forecast := 0xFFFFFFFF#32, modHrs := 0#32,
    rechecked := false, dark := true, sws := [], swapBit := false, cancelBit := false, litAt := 0, laserNs := [], modNs := 0, sinceNs := 0,
    warmAt := 0 }

def Temper.reset : Temper := ⟨0#10, 0#6, 0#10, false, none⟩

def Quad.reset : Quad := ⟨16, 0, 0, false, none, false, none, false, none⟩

def Temps.reset : Temps := ⟨[], [], [], []⟩

/-- 16:R711; levels start at P5. -/
def Power.reset : Power :=
  { level := 5#3, localCap := 7#3, powerCap := 7#3, droopCap := 7#3, rising := none, deferred := none, burst := false,
    armed := true, t0 := 0, balance := 0, overPl2 := 0, tickW := 0#16, ticks := [], energy := 0, droops := [],
    stretched := false, noRaise := 0, depart := false, quads := Vector.replicate 8 Quad.reset,
    die := Vector.replicate 2 false, dieCool := Vector.replicate 2 none, noSkip := 0,
    temper := Vector.replicate 2 (Vector.replicate 8 Temper.reset), stretch := 0#32, quenches := 0#8, floors := 0#8,
    sustain := 0#8, therm := 0#8, alertLow := false, floorHold := none, floored := false, climbing := false,
    quenchN := true, quenchInLow := false, quenchCool := none, quenchFrom := .idle, idleSince := 0,
    slots := Vector.replicate 32 0, temps := Temps.reset, govTick := none, pl2Tick := none, skipTick := none, riseTick := none,
    creditTick := none }

/-- 17:R731. -/
def Boot.reset : Boot :=
  { inputs := none, wait := .power, stage := 0#4, hold := 0#8, failed := 0#8, report := 0#8, slot := false, warm := false, ready := false,
    retry := false, version := 0#64, other := 0#2, staging := 0#2, pwrgd := false, qslot := 0#2, qrstIn := false,
    qrstOut := false, hrtEn := false, tnEn := false, lnkEn := false, pgSince := 0, chainFrom := 0, d2dFails := 0,
    depth := Vector.replicate 8 none, crystal := false, slotA := Slot.erased, slotB := Slot.erased, image := none, path := none, stBytes := 0,
    stLast := 0, update := false, runSeen := false, waking := none, refOut := 0#3, xspiRstN := false }

/-- 19:R791. -/
def Security.reset : Security :=
  { aliasKey := 0, aliasCert := none, devHbm := 0, devSave := 0, jkeys := [], secrets := [], sessions := [], ide := Vector.replicate 5 false,
    debug := false, scope := 0#2, nonce := none, denied := 0#8 }

/-- 20:R807. -/
def Mgmt.reset : Mgmt :=
  { eid := 0#8, dyn := 0#7, events := [], evdrop := 0#16, owed := 0, rcvr := none, fwrun := false, pub := none,
    pubTick := none, actions := [] }

def TrapBank.reset (base : BitVec 9) : TrapBank := ⟨0#64, 0#64, 0#64, base⟩

def ArithRec.empty : ArithRec := ⟨0#10, 0#20, 0#20⟩

/-- An empty bank (07:R292). -/
def Bank.empty : Bank := ⟨none, false, []⟩

/-- A core after power-up: the reset values of 02:R68, R110, 04:R167, 09:R375; memories, vector and mask registers with
nothing written. -/
def Core.reset : Core :=
  { gregs := Vector.replicate 30 0#64, spK := 0#64, spR := 0#64, spF := 0#64, pc := 0xF0000#20,
    tlvl := ⟨false, false, 0#2, .firmware⟩,
    banks := #v[TrapBank.reset 0#9, TrapBank.reset 0#9, TrapBank.reset 0x1E1#9],
    cycle := 0#64, stlIssue := 0#64, stlSync := 0#64, instret := 0#64, fflags := 0#10, fmode := ⟨0#10, false, 0#3⟩,
    asc := 0#64, seed := Vector.replicate 4 0#32, spint := 0#16, sb := [], stale := [], stall := .none,
    imem := [], dmem := [], spad := [], badImem := [], badDmem := [], badSpad := [], regions := [], found := [],
    torn := [], parts := [],
    vregs := [], masks := Vector.replicate 8 0#65536, vl := 0#18, ew := 0b011#3, grp := 0#2, vcur := 0#18,
    stoV := 0#14, stoA := 0#14, stoD := 0#14, slots := Vector.replicate 8 none, arun := none, mxcfg := none, epi := none,
    abanks := Vector.replicate 4 Bank.empty, mxq := [], drains := [],
    dfault := false, halted := false, held := false, active := false, pMemErr := none, pNotice := none, pSpint := none, pHalt := false,
    arec := ArithRec.empty, resetReq := none, resets := 0, spintFrom := 0#64, spintDone := false, posts := [],
    elogD := [], elogS := [], replayD := [], replayS := [], ckpt := none, ckptNew := none, ckptSlot := false, foreign := [],
    decided := none }

/-- The device right after reset: no power-good yet, every register at its reset value, no command waiting. -/
def State.reset : State :=
  { pending := [], cores := Vector.replicate 32 Core.reset, pstate := .off, gated := 0xFFFFFFFF#32, time := 0, us := 0,
    fresh := 0, keys := 0, out := [], caches := Vector.replicate 2 Cache.reset, hbm := [], hbmBad := [], hbmKeys := [],
    htg := Vector.replicate 256 Htg.reset, hbmTemps := Vector.replicate 8 StackTemp.reset,
    chans := Vector.replicate 128 Chan.reset, tlbs := Vector.replicate 16 [], ring := Ring.reset, invals := [], ats := true, pri := true,
    priStopped := false, links := Vector.replicate 35 Link.reset, fab := Fabric.reset, ctxs := [],
    queues := Vector.replicate 64 Queue.reset, journal := Journal.reset, rep := Repair.reset, left := [],
    feeds := Vector.replicate 4 Feed.reset, power := Power.reset, boot := Boot.reset, sec := Security.reset,
    mgmt := Mgmt.reset }

end Sys2Proof.Machine
end

