-- ==== Sys2Proof/Machine/Ops.lean ====
section
/-! DEFINITION. The shared operations of a core: memory in canonical form, registers, the store buffer (02:R112 to R120),
trap entry and return (09:R379 to R387), core reset (09:R388), flags raised (09:R399), and how an instruction ends. -/

namespace Sys2Proof.Machine

/-! ## Memory -/

/-- The byte at an address; an unlisted address reads as zero. -/
def Mem.get : Mem → Nat → Byte
  | [], _ => 0#8
  | (b, v) :: m, a => if b == a then v else Mem.get m a

/-- The cells of a run of bytes, zero bytes left out. -/
def Mem.cells : Nat → List Byte → Mem
  | _, [] => []
  | a, b :: bs => if b == 0#8 then Mem.cells (a + 1) bs else (a, b) :: Mem.cells (a + 1) bs

/-- The memory with a run of bytes written at `a`. -/
def Mem.put (m : Mem) (a : Nat) (bs : List Byte) : Mem :=
  m.filter (fun c => c.1 < a) ++ (Mem.cells a bs ++ m.filter (fun c => a + bs.length ≤ c.1))

/-- The part of a memory from `a` up to, not including, `a + n`. -/
def Mem.slice (m : Mem) (a n : Nat) : Mem := m.filter (fun c => a ≤ c.1 && c.1 < a + n)

/-- The bytes at `a`, `a + 1`, …, `n` of them, from a memory. -/
def Mem.bytesFrom (m : Mem) : Nat → Nat → List Byte
  | _, 0 => []
  | a, n + 1 => Mem.get m a :: Mem.bytesFrom m (a + 1) n

/-- The `n` bytes at `a`. -/
def Mem.getN (m : Mem) (a n : Nat) : List Byte := Mem.bytesFrom (Mem.slice m a n) a n

/-- The canonical form: addresses strictly rising, no byte zero. -/
def Mem.wf : Mem → Bool
  | [] => true
  | [c] => c.2 != 0#8
  | c :: d :: m => c.2 != 0#8 && (c.1 < d.1) && Mem.wf (d :: m)

/-- Little-endian bytes as a number (02:R65). -/
def leNat : List Byte → Nat
  | [] => 0
  | b :: bs => b.toNat + 256 * leNat bs

/-- The low `n` bytes of a number, lowest first. -/
def leBytes : Nat → Nat → List Byte
  | 0, _ => []
  | n + 1, v => BitVec.ofNat 8 v :: leBytes n (v / 256)

def Mem.getLe (m : Mem) (a n : Nat) : Nat := leNat (m.getN a n)
def Mem.putLe (m : Mem) (a n v : Nat) : Mem := m.put a (leBytes n v)

/-! ## Marks of uncorrectable words: a rising list of word offsets -/

/-- A number inserted into a rising list, once. -/
def addMark : List Nat → Nat → List Nat
  | [], a => [a]
  | b :: l, a => if a < b then a :: b :: l else if a == b then b :: l else b :: addMark l a

/-- The lowest marked 8-byte word that the bytes `a` to `a + n − 1` touch. -/
def firstMark (l : List Nat) (a n : Nat) : Option Nat := l.find? (fun w => n != 0 && a < w + 8 && w < a + n)

/-- The marked 8-byte words that the bytes `a` to `a + n − 1` touch. -/
def allMarks (l : List Nat) (a n : Nat) : List Nat := l.filter (fun w => n != 0 && a < w + 8 && w < a + n)

/-- The marks left when the bytes `a` to `a + n − 1` are written: a word covered whole loses its mark (18:R744). -/
def clearMarks (l : List Nat) (a n : Nat) : List Nat := l.filter (fun w => !(a ≤ w && w + 8 ≤ a + n))

/-- The bytes to store at `a`, those that fall into a marked word they do not cover whole kept as they are (10:R420,
02:R120). -/
def keepMarked (m : Mem) (l : List Nat) (a n : Nat) : Nat → List Byte → List Byte
  | _, [] => []
  | i, b :: bs =>
    let w := (a + i) / 8 * 8
    (if l.contains w && !(a ≤ w && w + 8 ≤ a + n) then m.get (a + i) else b) :: keepMarked m l a n (i + 1) bs

/-- A run of bytes written to a memory with marks. -/
def putMarked (m : Mem) (l : List Nat) (a : Nat) (bs : List Byte) : Mem × List Nat :=
  if (firstMark l a bs.length).isNone then (m.put a bs, l)
  else (m.put a (keepMarked m l a bs.length 0 bs), clearMarks l a bs.length)

/-! ## Levels, banks and stack pointers (02:R66, 02:R102, 09:R378) -/

def Level.num : Level → Nat
  | .kernel => 0
  | .runtime => 1
  | .firmware => 2

def Level.ofNum : Nat → Option Level
  | 0 => some .kernel
  | 1 => some .runtime
  | 2 => some .firmware
  | _ => none

def Level.idx : Level → Fin 3
  | .kernel => 0
  | .runtime => 1
  | .firmware => 2

def Level.le (a b : Level) : Bool := a.num ≤ b.num

def Level.max (a b : Level) : Level := if a.le b then b else a

def Core.level (k : Core) : Level := k.tlvl.cur

def Core.sp (k : Core) : Level → Word
  | .kernel => k.spK
  | .runtime => k.spR
  | .firmware => k.spF

def Core.setSp (k : Core) (l : Level) (v : Word) : Core :=
  match l with
  | .kernel => { k with spK := v }
  | .runtime => { k with spR := v }
  | .firmware => { k with spF := v }

def Core.bank (k : Core) (l : Level) : TrapBank := k.banks[l.idx]

def Core.setBank (k : Core) (l : Level) (b : TrapBank) : Core := { k with banks := k.banks.set l.idx b }

/-- The word of TLVL (02:R110). -/
def Tlvl.word (t : Tlvl) : Word :=
  BitVec.ofNat 64 (t.cur.num + 4 * t.prev.toNat + 16 * b2n t.ie + 32 * b2n t.pie)

/-- The word of FMODE (02:R110). -/
def Fmode.word (f : Fmode) : Word :=
  BitVec.ofNat 64 (f.rm.toNat + 16 * b2n f.pam + 4096 * f.ten.toNat)

/-! ## General registers (02:R63, 02:R64, 09:R378) -/

/-- The register's place among g1 to g30, if it is one of them. -/
def regSlot (r : Reg) : Option (Fin 30) :=
  if h : 1 ≤ r.toNat ∧ r.toNat ≤ 30 then some ⟨r.toNat - 1, by omega⟩ else none

/-- g0 reads as zero, g31 names the current level's stack pointer. -/
def Core.reg (k : Core) (r : Reg) : Word :=
  match regSlot r with
  | some i => k.gregs[i]
  | none => if r == 0#5 then 0#64 else k.sp k.level

/-- A write to g0 is discarded. -/
def Core.setReg (k : Core) (r : Reg) (v : Word) : Core :=
  match regSlot r with
  | some i => { k with gregs := k.gregs.set i v }
  | none => if r == 0#5 then k else k.setSp k.level v

/-! ## Core-local space (01:R47 to R50) -/

/-- What a core-local address is. -/
inductive Place where
  | dmem | dfsa | alias_ | spad | none
  deriving DecidableEq, Repr

def dfsaBase : Nat := 0x3FC00
def aliasBase : Nat := 0x100000
def spadBase : Nat := 0x40000000
def spadBytes : Nat := 0x5800000

def placeOf (a : Nat) : Place :=
  if a < 0x3FC00 then .dmem
  else if a < 0x40000 then .dfsa
  else if 0x100000 ≤ a && a < 0x200000 then .alias_
  else if 0x40000000 ≤ a && a < 0x45800000 then .spad
  else .none

/-- One region allows reading (`wr` false) or writing all of the scratchpad bytes `off` to `off + n − 1` (01:R49). -/
def Core.regionOk (k : Core) (wr : Bool) (off n : Nat) : Bool :=
  k.regions.any (fun g =>
    g.base * 4096 ≤ off && off + n ≤ (g.base + g.size) * 4096 && (if wr then g.w else g.r))

/-- Cause codes (09:R371). -/
inductive Cause where
  | illegal | privilege | align | bounds | fetch | memErr | syscall | fwcall | brk | arith
  | memErrAsync | notice | spintOver | debugHalt
  deriving DecidableEq, Repr

def Cause.code : Cause → Nat
  | .illegal => 0x01
  | .privilege => 0x02
  | .align => 0x03
  | .bounds => 0x04
  | .fetch => 0x05
  | .memErr => 0x06
  | .syscall => 0x08
  | .fwcall => 0x09
  | .brk => 0x0A
  | .arith => 0x0C
  | .memErrAsync => 0x40
  | .notice => 0x41
  | .spintOver => 0x42
  | .debugHalt => 0x43

/-- R372: the interrupts are the codes 0x40 to 0x43. -/
def Cause.isInt (c : Cause) : Bool := 0x40 ≤ c.code

/-- The routing level; `none` is "Kernel, else Runtime" (09:R371). -/
def Cause.routing : Cause → Option Level
  | .illegal | .align | .bounds | .brk | .arith => none
  | .fwcall | .debugHalt => some .firmware
  | _ => some .runtime

/-- The check of one access of `n` bytes at core-local address `a` (01:R47 to R50): the cause, or none when allowed.
A write into the DFSA is refused at every level, a Kernel access to it too; the alias is Firmware's. -/
def Core.accessCheck (k : Core) (wr : Bool) (a n : Nat) : Option Cause :=
  match placeOf a, placeOf (a + n - 1) with
  | .dmem, .dmem => none
  | .dmem, .dfsa => if wr || k.level == .kernel then some .privilege else none
  | .dfsa, .dfsa => if wr || k.level == .kernel then some .privilege else none
  | .alias_, .alias_ => if k.level == .firmware then none else some .privilege
  | .spad, .spad => if k.regionOk wr (a - spadBase) n then none else some .bounds
  | _, _ => some .bounds

/-- The memory, its marks, and the offset of a core-local address. -/
def Core.memAt (k : Core) (a : Nat) : Mem × List Nat × Nat :=
  match placeOf a with
  | .alias_ => (k.imem, k.badImem, a - aliasBase)
  | .spad => (k.spad, k.badSpad, a - spadBase)
  | _ => (k.dmem, k.badDmem, a)

/-- The bytes at a core-local address. -/
def Core.load (k : Core) (a n : Nat) : List Byte :=
  let (m, _, o) := k.memAt a
  m.getN o n

/-- The offset of the lowest uncorrectable word that an access touches. -/
def Core.badWord (k : Core) (a n : Nat) : Option Nat :=
  let (_, l, o) := k.memAt a
  firstMark l o n

/-- The uncorrectable words of the scratchpad window that an access touches, as core-local addresses. -/
def Core.badWords (k : Core) (a n : Nat) : List Nat := (allMarks k.badSpad (a - spadBase) n).map (· + spadBase)

/-- Bytes stored at a core-local address. -/
def Core.store (k : Core) (a : Nat) (bs : List Byte) : Core :=
  match placeOf a with
  | .alias_ => let (m, l) := putMarked k.imem k.badImem (a - aliasBase) bs; { k with imem := m, badImem := l }
  | .spad => let (m, l) := putMarked k.spad k.badSpad (a - spadBase) bs; { k with spad := m, badSpad := l }
  | _ => let (m, l) := putMarked k.dmem k.badDmem a bs; { k with dmem := m, badDmem := l }

/-- The memory that holds a core-local address, as error counting names it. -/
def memKindAt (a : Nat) : MemKind :=
  match placeOf a with
  | .alias_ => .imem
  | .spad => .scratchpad
  | _ => .dmem

/-! ## Pending interrupts (09:R397) -/

/-- MEMERR_ASYNC becomes pending for the word at `off` of a memory; a pending one keeps its first address. The error is one more to count
(R397). -/
def Core.raiseMemErr (k : Core) (m : MemKind) (off : Nat) (v : Word) : Core :=
  let k := { k with found := k.found ++ [(m, off)] }
  match k.pMemErr with
  | none => { k with pMemErr := some v }
  | some _ => k

def Core.raiseNotice (k : Core) (code : BitVec 8) : Core :=
  match k.pNotice with
  | none => { k with pNotice := some code }
  | some _ => k

/-! ## Store buffer (02:R112 to R120) -/

/-- The oldest buffered store leaves; a sub-word store into an uncorrectable word raises MEMERR_ASYNC (R120). -/
def Core.drainOne (k : Core) : Core :=
  match k.sb with
  | [] => k
  | e :: rest =>
    let k := { k with sb := rest }
    match k.badWord e.addr e.size with
    | some w =>
      if e.size < 8 then k.raiseMemErr (memKindAt e.addr) w (BitVec.ofNat 64 (e.addr / 8 * 8))
      else k.store e.addr (leBytes e.size e.data.toNat)
    | none => k.store e.addr (leBytes e.size e.data.toNat)

/-- Buffered stores leave, `n` of them. -/
def Core.drainN : Nat → Core → Core
  | 0, k => k
  | n + 1, k => Core.drainN n k.drainOne

/-- The store buffer empties (R117). -/
def Core.drain (k : Core) : Core := Core.drainN k.sb.length k

/-- A buffered store overlaps the bytes `a` to `a + n − 1`. -/
def SbEntry.overlaps (e : SbEntry) (a n : Nat) : Bool := a < e.addr + e.size && e.addr < a + n

def SbEntry.covers (e : SbEntry) (a n : Nat) : Bool := e.addr ≤ a && a + n ≤ e.addr + e.size

/-- The youngest buffered store that overlaps an access (R115). -/
def youngest (sb : List SbEntry) (a n : Nat) : Option SbEntry :=
  sb.foldl (fun r e => if e.overlaps a n then some e else r) none

/-! ## Flags raised and the arithmetic record (09:R399 to R402) -/

/-- An instruction at `at_` raises flags: FFLAGS keeps them, and the enabled ones join the record unless PAM is 1. -/
def Core.raise (k : Core) (fl : Flags) (at_ : BitVec 20) : Core :=
  let en := fl &&& k.fmode.ten
  let k := { k with fflags := k.fflags ||| fl }
  if k.fmode.pam || en == 0#10 then k
  else
    { k with arec := { flags := k.arec.flags ||| en,
                       first := if k.arec.flags == 0#10 then at_ else k.arec.first,
                       last := at_ } }

/-- The TRV of ARITH (R401). -/
def ArithRec.word (r : ArithRec) : Word :=
  BitVec.ofNat 64 (r.first.toNat + 2 ^ 20 * r.last.toNat + 2 ^ 48 * r.flags.toNat)

/-! ## Banks and engines (06, 07) -/

/-- A zero output (07:R291). -/
def AccOut.zero : AccOut := ⟨0#192, 0#2, false, false, 0#40, none⟩

/-- Output `i` of a bank; outputs past the list are zero. -/
def Bank.out (b : Bank) (i : Nat) : AccOut := b.outs.getD i AccOut.zero

def Core.abank (k : Core) (b : BitVec 2) : Bank := k.abanks[b.toNat]'(by have := b.isLt; omega)

def Core.setAbank (k : Core) (b : BitVec 2) (v : Bank) : Core :=
  { k with abanks := k.abanks.set b.toNat v (by have := b.isLt; omega) }

/-- The named banks become empty. -/
def Core.emptyBanks (k : Core) (bs : List (BitVec 2)) : Core :=
  bs.foldl (fun k b => k.setAbank b Bank.empty) k

/-- An ARUN completes: the banks bound with REL are empty (05:R239), and a stochastic one is
counted (05:R234). -/
def Core.arunDone (k : Core) : Core :=
  match k.arun with
  | none => k
  | some a =>
    let k := k.emptyBanks a.rel
    { k with arun := none, stoA := if a.sto then k.stoA + 1#14 else k.stoA }

/-- A matrix instruction, drain or ARUN has issued and not completed. -/
def Core.inFlight (k : Core) : Bool := !k.mxq.isEmpty || !k.drains.isEmpty || k.arun.isSome

/-! ## Core reset (02:R68, 09:R388) -/

/-- A core's registers, engines and pending work take their reset values; IMEM, DMEM, scratchpad, the region table, the
checkpoint, the effect log, the vector and mask registers and what the management core keeps stay. -/
def Core.resetRegs (k : Core) : Core :=
  { k with
    gregs := Vector.replicate 30 0#64
    spK := 0#64
    spR := 0#64
    spF := 0#64
    pc := 0xF0000#20
    tlvl := ⟨false, false, 0#2, .firmware⟩
    banks := #v[TrapBank.reset 0#9, TrapBank.reset 0#9, TrapBank.reset 0x1E1#9]
    cycle := 0#64
    stlIssue := 0#64
    stlSync := 0#64
    instret := 0#64
    fflags := 0#10
    fmode := ⟨0#10, false, 0#3⟩
    asc := 0#64
    seed := Vector.replicate 4 0#32
    spint := 0#16
    sb := []
    stale := []
    stall := .none
    vl := 0#18
    ew := 0b011#3
    grp := 0#2
    vcur := 0#18
    stoV := 0#14
    stoA := 0#14
    stoD := 0#14
    slots := Vector.replicate 8 none
    arun := none
    mxcfg := none
    epi := none
    abanks := Vector.replicate 4 Bank.empty
    mxq := []
    drains := []
    dfault := false
    halted := false
    pMemErr := none
    pNotice := none
    pSpint := none
    pHalt := false
    arec := ArithRec.empty
    parts := []
    posts := []
    ckptNew := none }

/-! ## Trap entry (09:R373, R377, R379 to R382) -/

/-- R373: the target level of a cause. -/
def Core.target (k : Core) (c : Cause) : Level :=
  let l := match c.routing with
    | some l => l
    | none => if (k.bank .kernel).base == 0#9 then .runtime else .kernel
  let l := if l == .runtime && (k.bank .runtime).base == 0#9 then .firmware else l
  l.max k.level

/-- R379: the stack pointer leaves room for a frame in DMEM below the DFSA. -/
def frameOk (sp : Word) : Bool :=
  sp.toNat % 16 == 0 && 64 ≤ sp.toNat && sp.toNat ≤ 0x3FC00

/-- The TRC value of an entry (R372). -/
def Cause.trc (c : Cause) : Word := BitVec.ofNat 64 (c.code + 2 ^ 63 * b2n c.isInt)

/-- The bytes of words, lowest word first. -/
def wordsBytes (ws : List Word) : List Byte := ws.flatMap (fun w => leBytes 8 w.toNat)

/-- Bytes written over whole words of DMEM: their marks clear. -/
def Core.putDmem (k : Core) (a : Nat) (bs : List Byte) : Core :=
  { k with dmem := k.dmem.put a bs, badDmem := clearMarks k.badDmem a bs.length }

/-- R386: the DFSA of a double fault. -/
def Core.dfsaBytes (k : Core) (c : Cause) (v pc : Word) (t : Level) : List Byte :=
  wordsBytes ([pc, c.trc, v, k.tlvl.word, k.sp t, BitVec.ofNat 64 t.num, 0#64, 0#64] ++
    (List.range 32).map (fun i => k.reg (BitVec.ofNat 5 i)) ++
    [k.spK, k.spR, k.spF, k.vcur.setWidth 64, k.fflags.setWidth 64, k.fmode.word, k.asc, k.cycle] ++
    List.replicate 80 0#64)

/-- R385: the double fault. -/
def Core.doubleFault (k : Core) (c : Cause) (v pc : Word) (t : Level) : Core :=
  let k := k.putDmem dfsaBase (k.dfsaBytes c v pc t)
  { k with tlvl := { k.tlvl with cur := .firmware, ie := false }, dfault := true, pc := 0xF0040#20, stale := [] }

/-- The vector of a cause at a level (R377). -/
def Core.vector (k : Core) (c : Cause) (t : Level) : BitVec 20 :=
  BitVec.ofNat 20 ((k.bank t).base.toNat * 0x800 + (if c.isInt then 0x400 else 16 * c.code))

/-- R380: entry to level `t`, whose stack pointer meets R379. -/
def Core.pushFrame (k : Core) (c : Cause) (v pc : Word) (t : Level) : Core :=
  let f := k.sp t - 64#64
  let b := k.bank t
  let k := k.putDmem f.toNat (wordsBytes [b.trc, b.trpc, b.trv, k.tlvl.word, 0#64, 0#64, 0#64, 0#64])
  let dest := k.vector c t
  let k := k.setBank t { b with trc := c.trc, trpc := pc, trv := v }
  let k := k.setSp t f
  { k with tlvl := { pie := k.tlvl.ie, ie := false, prev := BitVec.ofNat 2 k.tlvl.cur.num, cur := t },
           pc := dest, stale := [] }

/-- Entry of a cause with value `v` and return address `pc` on a core not in double-fault state (R380): the store
buffer drains, an ARUN in flight completes (R382, R394), and the frame is pushed or a double fault is taken. -/
def Core.enter (k : Core) (c : Cause) (v pc : Word) : Core :=
  let k := k.drain.arunDone
  let k := { k with stall := .none, ckptNew := none, arec := if c = Cause.arith then ArithRec.empty else k.arec }
  let t := k.target c
  if frameOk (k.sp t) then k.pushFrame c v pc t else k.doubleFault c v pc t

/-- What a core reset out of double-fault state reports (09:R390, R406): the first cause is read from DF_TRC. -/
def Core.chainReq (k : Core) (nest : Bool) : ResetReq :=
  let trc := k.dmem.getLe (dfsaBase + 8) 8
  let cause := trc % 256
  { hw := cause == 0x06 || cause == 0x40, df := true, nest := nest, int := bitN trc 63,
    cause := BitVec.ofNat 8 cause, pc := BitVec.ofNat 20 (k.dmem.getLe dfsaBase 8) }

/-- A synchronous trap (R387): outside double-fault state it is entered; inside, BREAK halts the core and any other
trap resets it, for the management core to decide. -/
def Core.takeTrap (k : Core) (c : Cause) (v pc : Word) : Core :=
  if k.dfault then
    if c == .brk then { k with halted := true, resetReq := some (k.chainReq false) }
    else { k.resetRegs with halted := true, resetReq := some (k.chainReq true) }
  else k.enter c v pc

/-! ## How an instruction ends -/

/-- The ending of an instruction's own effect; `retireWith` names the enabled flags to report beside those it raises now. -/
inductive Ending where
  | retire (fl : Flags)
  | retireWith (fl en : Flags)
  | goto (target : Word)
  | trap (c : Cause) (v : Word)
  | memerr (m : MemKind) (off : Nat) (v : Word)
  | wait (sync : Bool)
  deriving DecidableEq, Repr

/-- The program counter as an address. -/
def Core.pcWord (k : Core) : Word := k.pc.setWidth 64

/-- Execution goes on at the next instruction (02:R98), or at 0x0010_0000 raises a fetch fault. -/
def Core.advance (k : Core) (len : Nat) : Core :=
  if k.pc.toNat + len < 0x100000 then
    let p := k.pc.toNat + len
    { k with pc := BitVec.ofNat 20 p, stale := k.stale.filter (fun w => p ≤ w.1) }
  else k.takeTrap .fetch 0x100000#64 0xFFFFC#64

/-- An instruction completes: its flags are raised, it is counted, and with PAM 1 the enabled flags `en` raise ARITH at the boundary after it
(09:R404). -/
def Core.retireTo (k : Core) (len : Nat) (fl en : Flags) : Core :=
  let at_ := k.pc
  let k := k.raise fl at_
  let k := { k with instret := k.instret + 1#64, stall := .none }
  if k.fmode.pam && en != 0#10 then
    let k := k.advance len
    k.takeTrap .arith (ArithRec.word ⟨en, at_, at_⟩) k.pcWord
  else k.advance len

/-- An instruction completes that raised all its flags now. -/
def Core.retire (k : Core) (len : Nat) (fl : Flags) : Core := k.retireTo len fl (fl &&& k.fmode.ten)

/-- What the strips of the instruction at the PC left for its end is no more. -/
def Core.dropParts (k : Core) : Core := { k with parts := k.parts.filter (fun p => p.1 != k.pc) }

/-- The enabled flags that an instruction raised under PAM before an interrupt, when it has continued from VCUR and come to its end. -/
def Core.contFlags (k k' : Core) : Flags :=
  if k.fmode.pam && k.vcur != 0#18 && k'.vcur == 0#18 then
    ((k.parts.filter (fun p => p.1 == k.pc)).map Prod.snd).foldl (· ||| ·) 0#10 &&& k.fmode.ten
  else 0#10

/-- A vector or Accord instruction that continues from VCUR reports at its end what its earlier strips raised under PAM. -/
def Core.continued (k : Core) : Core × Ending → Core × Ending
  | (k', .retire fl) =>
    let late := k.contFlags k'
    if late == 0#10 then (k', .retire fl) else (k'.dropParts, .retireWith fl (fl &&& k'.fmode.ten ||| late))
  | r => r

/-- Strips of the instruction at the PC are done with flags `fl`, from `vcur` on, and the instruction is to go on (04:R205); under PAM the enabled
flags wait for its end. -/
def Core.partDone (k : Core) (vcur : BitVec 18) (fl : Flags) : Core :=
  let at_ := k.pc
  let k := if vcur == 0#18 then k.dropParts else k
  let k := k.raise fl at_
  if k.fmode.pam && fl &&& k.fmode.ten != 0#10 then { k with parts := k.parts ++ [(at_, fl &&& k.fmode.ten)] } else k

/-- A control transfer (02:R97): a bad target raises a fetch fault on the transfer itself. -/
def Core.transfer (k k' : Core) (t : Word) : Core :=
  if t.toNat % 4 == 0 && t.toNat < 0x100000 then
    { k' with pc := t.setWidth 20, stale := [], instret := k'.instret + 1#64, stall := .none }
  else k.takeTrap .fetch t k.pcWord

/-- The end of an instruction of `len` bytes: `k` before it, `k'` with its own effect. -/
def Core.finish (k k' : Core) (len : Nat) : Ending → Core
  | .retire fl => k'.retire len fl
  | .retireWith fl en => k'.retireTo len fl en
  | .goto t => k.transfer k' t
  | .trap c v => k'.takeTrap c v k.pcWord
  | .memerr _ _ v => k'.takeTrap .memErr v k.pcWord
  | .wait sync => { k' with stall := if sync then .sync else .issue }

/-- The checks of fetching an instruction of `len` bytes at the PC (02:R70, R79, R89). DESIGN CHOICE: a prefix at 0x000F_FFFC at Kernel meets
both R89 and R70, which the spec does not order; the fetch fault of R89 is the one raised. DESIGN CHOICE: "the word's address" of a MEMERR (09:R371)
is that of the 4-byte instruction word, not of the 8-byte word that the error code protects. -/
def Core.fetchCheck (k : Core) (len : Nat) : Option Ending :=
  let p := k.pc.toNat
  if 0x100000 < p + len then some (.trap .fetch 0x100000#64)
  else if k.level == .kernel && 0xF0000 < p + len then some (.trap .privilege 0#64)
  else match firstMark k.badImem p 4, firstMark k.badImem (p + 4) (len - 4) with
    | some w, _ => some (.memerr .imem w k.pcWord)
    | none, some w => some (.memerr .imem w (k.pcWord + 4#64))
    | none, none => none

/-- The word that the core executes at an IMEM address: the one the fetch window holds from before a later store (02:R123), else the memory's.
Of a DMA transfer's words that the core executes without the completion wait and IFENCE of R125, each is old or new in full. DESIGN CHOICE:
it is new as soon as an access of the transfer has written it whole, and old until the transfer ends where an access has written a part of
it, an alias store to it in between included (log 170). -/
def Core.fetched (k : Core) (a : Nat) : Half :=
  match k.stale.find? (fun w => w.1 == a) with
  | some w => w.2
  | none => match k.torn.find? (fun w => w.2.1 == a) with
    | some w => w.2.2
    | none => BitVec.ofNat 32 (k.imem.getLe a 4)

/-- A sync-point instruction or SAFEPT with traps enabled waits for what is in flight and then reports the record
(09:R400). -/
def Core.arithCheck (k : Core) : Option Ending :=
  if k.fmode.ten == 0#10 then none
  else if k.inFlight then some (.wait false)
  else if k.arec.flags != 0#10 then some (.trap .arith k.arec.word)
  else none

/-- Under PAM nothing issues while an earlier arithmetic instruction has not completed (09:R403). -/
def Core.pamWaits (k : Core) : Bool := k.fmode.pam && k.inFlight

end Sys2Proof.Machine
end

