-- ==== Sys2Proof/Machine/Registers.lean ====
section
/-! DEFINITION. What each host register reads (01:R29, R60, R62; 10:R427, R431, R434, R452; 11:R499; 12:R512, R547, R551; 13:R564;
15:R613, R656 to R658, R665; 16:R672, R711; 17:R731; 18:R758, R760; 19:R791; 20:R807, R808). -/

namespace Sys2Proof.Machine

/-- A word from its fields: low bit, width, value. -/
def fields : List (Nat × Nat × Nat) → Nat
  | [] => 0
  | (lo, w, v) :: fs => v % 2 ^ w * 2 ^ lo + fields fs

def wordOf (fs : List (Nat × Nat × Nat)) : Word := BitVec.ofNat 64 (fields fs)

/-- Bits `base + i` for the members of a list that hold. -/
def bitList (bs : List Bool) : Nat := bs.foldr (fun b n => b2n b + 2 * n) 0

/-- A saturating count of `w` bits, plus `n`. -/
def satAdd {w : Nat} (x : BitVec w) (n : Nat) : BitVec w := BitVec.ofNat w (min (x.toNat + n) (2 ^ w - 1))

/-! ## Image settings -/

def State.settings (s : State) : Option ImageSettings := s.boot.image.map SlotImage.settings

/-- DEVICE_ID; 0xFFFF with no image settings (01:R62). -/
def State.deviceId (s : State) : BitVec 16 := match s.settings with
  | some g => g.deviceId
  | none => 0xFFFF#16

def PowerPolicy.default_ : PowerPolicy := ⟨false, 10, 0, true⟩

def State.policy (s : State) : PowerPolicy := match s.settings with
  | some g => g.power
  | none => PowerPolicy.default_

def State.secPolicy (s : State) : Option SecPolicy := s.settings.map ImageSettings.security

def State.linkMapped (s : State) (l : LinkId) : Bool := match s.settings with
  | some g => g.linkMap.any (fun x => x.1 == l)
  | none => false

/-- The group policy is enabled (12:R551, 16:R711). -/
def State.gvalid (s : State) : Bool := match s.settings with
  | some g => g.group.any Prod.snd
  | none => false

def State.safeHold (s : State) : Bool := s.boot.hold != 0#8

/-! ## Size table and core map -/

def State.sizeTable (s : State) (n : Nat) : Word :=
  match n with
  | 0 => 0x00004800B0000001#64
  | 1 => 0x2010020420202008#64
  | 2 => 0x0058008040010000#64
  | 3 => 0x0400200080080000#64
  | 4 => 0x030008201F400000#64
  | 5 => wordOf [(56, 8, 0x20), (48, 8, 3),
      (16, 32, bitList ((List.range 32).map (fun i => s.linkMapped (Fin.ofNat 35 i)))),
      (13, 3, bitList ((List.range 3).map (fun i => s.linkMapped (Fin.ofNat 35 (32 + i)))))]
  | 6 => wordOf [(48, 16, s.deviceId.toNat), (32, 16, (s.settings.map (fun g => g.fabDevices.toNat)).getD 0),
      (30, 2, s.boot.qslot.toNat), (29, 1, b2n ((s.settings.map ImageSettings.quad).getD false))]
  | _ => 0x001F400000232800#64

/-- The core map byte of a logical core (01:R29). -/
def State.mapByte (s : State) (c : CoreId) : Nat :=
  let m := s.rep.map[c]
  fields [(7, 1, (dieOf c).val), (6, 1, b2n m.moved), (0, 5, m.pcore.toNat)]

def State.coreMap (s : State) (n : Nat) : Word :=
  wordOf ((List.range 8).map (fun i => (8 * i, 8, s.mapByte (Fin.ofNat 32 (8 * n + i)))))

/-! ## Shared cache and traffic generators -/

def Cache.dirtyCount (c : Cache) : Nat := (c.lines.filter Line.dirty).length

def Cache.ctrl (c : Cache) : Word := wordOf [(7, 1, b2n c.inv), (6, 1, b2n c.flush), (0, 1, b2n c.en)]

def Cache.stat (c : Cache) : Word :=
  wordOf [(32, 32, c.dirtyCount), (6, 1, b2n c.wrej), (5, 1, b2n c.stale), (4, 1, b2n c.wwd), (3, 1, b2n c.dwd)]

def ScClass.word (k : ScClass) : Word := wordOf [(18, 2, k.policy.toNat), (0, 16, k.mask.toNat)]

def Htg.reg (h : Htg) (n : Nat) : Word :=
  match n with
  | 0 => wordOf [(12, 4, h.pattern.toNat), (8, 2, h.mode.toNat), (4, 1, b2n h.raw), (1, 1, b2n h.stop), (0, 1, b2n h.running)]
  | 1 => wordOf [(32, 32, h.end_.toNat), (0, 32, h.begin_.toNat)]
  | 2 => h.seed
  | 3 => wordOf [(32, 32, h.errors.toNat), (3, 1, b2n h.rej), (2, 1, b2n h.ue), (1, 1, b2n h.done),
      (0, 1, b2n (h.errors != 0#32))]
  | 4 => h.bytes
  | 5 => wordOf [(32, 5, h.word.toNat), (0, 32, h.granule.toNat)]
  | _ => 0#64

/-! ## Fault ring -/

def Ring.reg (r : Ring) (n : Nat) : Word :=
  match n with
  | 0 => wordOf [(14, 50, r.addr.toNat), (0, 1, b2n r.en)]
  | 1 => r.head.setWidth 64
  | 2 => r.tail.setWidth 64
  | 3 => wordOf [(32, 32, r.cedrop.toNat), (0, 32, r.ovf.toNat)]
  | 4 => wordOf [(8, 8, r.ovec.toNat), (0, 8, r.fvec.toNat)]
  | _ => 0#64

/-! ## Links, time and group -/

def LinkState.code : LinkState → Nat
  | .unmapped => 0
  | .down => 1
  | .train => 2
  | .attest => 3
  | .up => 4
  | .hold => 5

def Link.stat (l : Link) : Word :=
  wordOf [(48, 16, l.partner.toNat), (42, 6, l.plink.toNat), (35, 1, b2n l.spare), (34, 1, b2n l.degr), (33, 1, b2n l.keyed),
    (16, 16, l.lanemap.toNat), (4, 4, l.cause.toNat), (0, 4, l.st.code)]

def Link.cnt (l : Link) : Word := wordOf [(32, 32, l.feccorr.toNat), (16, 16, l.retry.toNat), (0, 16, l.downs.toNat)]

def satInt32 (v : Int) : Nat := ((max (-(2 ^ 31)) (min v (2 ^ 31 - 1))) % 2 ^ 32).toNat

def State.timeMaster (s : State) : Bool := match s.settings with
  | some g => g.timeMaster
  | none => false

def State.ftStat (s : State) : Word :=
  wordOf [(32, 32, satInt32 s.fab.timeErr), (26, 6, (s.fab.timeLink.map Fin.val).getD 0), (2, 1, b2n s.timeMaster),
    (1, 1, b2n s.fab.holdover), (0, 1, b2n s.fab.locked)]

/-- The group address of the image, or 0 (12:R551). -/
def State.groupAddr (s : State) : Nat := match s.settings with
  | some g => match g.group with
    | some (n, _) => 0x8000 + n.toNat
    | none => 0
  | none => 0

def State.sgStat (s : State) : Word :=
  wordOf [(48, 16, s.groupAddr), (32, 8, s.fab.grpLevel.toNat), (16, 16, s.fab.grpSource.toNat), (0, 1, b2n s.gvalid)]

/-! ## Light sources -/

def FeedState.code : FeedState → Nat
  | .absent => 0
  | .check => 1
  | .warming => 2
  | .on => 3
  | .draining => 4
  | .removable => 5
  | .rejected => 6
  | .switching => 7

def Feed.spares (f : Feed) : List Bool := match f.module with
  | some m => (List.range 9).map (fun i => m.sel.getD i false)
  | none => List.replicate 9 false

def Feed.stat (f : Feed) : Word :=
  wordOf [(31, 9, f.dead.toNat), (22, 9, bitList f.spares), (15, 1, b2n (f.forecast.toNat < 2000)),
    (14, 1, b2n f.module.isSome), (8, 4, f.reason.toNat), (0, 4, f.st.code)]

/-- LS_CTRL (13:R564). -/
def Feed.ctrl (f : Feed) : Word := wordOf [(1, 1, b2n f.cancelBit), (0, 1, b2n f.swapBit)]

def Feed.fcast (f : Feed) : Word := wordOf [(32, 32, f.modHrs.toNat), (0, 32, f.forecast.toNat)]

/-! ## Command queues and the journal -/

def Queue.active (q : Queue) : Bool := q.cur.isSome

def Queue.reg (q : Queue) (n : Nat) : Word :=
  match n with
  | 0 => wordOf [(12, 52, q.addr.toNat)]
  | 1 => wordOf [(24, 20, q.pasid.toNat), (16, 8, q.vec.toNat), (8, 5, q.log2n.toNat), (1, 1, b2n q.active), (0, 1, b2n q.en)]
  | 2 => q.head.setWidth 64
  | _ => wordOf [(17, 1, b2n q.dberr), (0, 17, q.tail.toNat)]

def Phase.code : Phase → Nat
  | .accepted => 0
  | .started => 1
  | .completed => 2
  | .abandoned => 3

/-- CLINK (15:R658): signed, or 0 outside its range. -/
def clinkCode (v : Int) : Nat := if -(2 ^ 23) ≤ v ∧ v ≤ 2 ^ 23 - 1 then (v % 2 ^ 24).toNat else 0

def JEntry.meta_ (e : JEntry) : Word :=
  wordOf [(44, 20, e.pasid.toNat), (38, 6, e.queue.toNat), (37, 1, b2n e.dev), (32, 5, e.kind.toNat),
    (30, 2, e.phase.code), (0, 24, clinkCode e.clink)]

def JEntry.words (e : JEntry) : List Word :=
  [e.seq, e.tAccept, e.tStart, e.tDone, e.digest.setWidth 64, (e.digest >>> 64).setWidth 64, e.status, e.meta_]

/-- The entry that the slot of a sequence number holds: the latest written there (15:R656). -/
def Journal.slot (j : Journal) (n : Nat) : Option JEntry :=
  j.entries.foldl (fun r e => if e.seq.toNat % 65536 == n then some e else r) none

/-- JOURNAL_HEAD (15:R665). -/
def Journal.head (j : Journal) : Word := BitVec.ofNat 64 (max 1 (j.tail.toNat - 65536))

/-! ## Power -/

/-- The levels from the lowest AGED one of either die on are not chosen (16:R675). -/
def Power.agedCap (p : Power) : Nat :=
  match (List.range 8).find? (fun n => p.temper.any (fun t => (t.toList.getD n Temper.reset).aged)) with
  | some n => n - 1
  | none => 7

/-- Floor is forced or held (16:R701). -/
def Power.floorOn (p : Power) : Bool := p.alertLow || p.floorHold.isSome

/-- The local level (16:R702). -/
def State.localLevel (s : State) : BitVec 3 :=
  let p := s.power
  if p.floorOn || s.pstate == .quench then 0#3
  else BitVec.ofNat 3 (min (min (if s.policy.openMode then 7 else 5) p.agedCap)
    (min p.localCap.toNat (min p.powerCap.toNat p.droopCap.toNat)))

/-- The group level: the lowest local level announced, this device's own with it, with the member that announces it
(12:R550, 16:R703). -/
def State.groupLevel (s : State) : BitVec 3 × BitVec 16 :=
  s.fab.notices.foldl (fun r n => if n.level.toNat < r.1.toNat then (n.level, n.sender) else r) (s.localLevel, s.deviceId)

def PState.code : PState → Nat
  | .off | .run => 0
  | .idle => 1
  | .retention | .quench => 2
  | .heartOnly => 3

def State.pwrStat (s : State) : Word :=
  let p := s.power
  wordOf [(36, 4, s.pstate.code), (24, 8, bitList (p.quads.toList.map (fun q => q.ratio < 16))),
    (18, 1, b2n p.depart), (17, 1, b2n p.floorOn), (16, 1, b2n (s.pstate == .quench)), (15, 1, b2n p.stretched),
    (14, 1, b2n p.armed), (13, 1, b2n p.burst), (12, 1, b2n s.policy.openMode), (11, 1, b2n s.gvalid),
    (8, 3, if s.gvalid then s.groupLevel.1.toNat else 7), (4, 3, s.localLevel.toNat), (0, 3, p.level.toNat)]

def Power.cnt (p : Power) : Word :=
  wordOf [(32, 32, p.stretch.toNat), (24, 8, p.quenches.toNat), (16, 8, p.floors.toNat), (8, 8, p.sustain.toNat),
    (0, 8, p.therm.toNat)]

/-- The 1 s average: over the last 2,048 ticks (16:R711). -/
def Power.avg1s (p : Power) : Nat := (p.ticks.foldl (fun n w => n + w.toNat) 0) / 2048

/-- PWR_ENERGY in mJ: watts times ticks of 1/2048 s. -/
def Power.energyMj (p : Power) : Nat := p.energy * 125 / 256

def Power.tick (p : Power) : Word := wordOf [(16, 16, p.avg1s), (0, 16, p.tickW.toNat)]

def Temper.word (t : Temper) : Word :=
  wordOf [(32, 1, b2n t.aged), (22, 10, t.vnom.toNat), (16, 6, t.trim.toNat), (0, 10, t.vapp.toNat)]

/-! ## Contexts -/

/-- The lowest set bit of a mask of logical cores. -/
def lowestCore (m : BitVec 32) : Option CoreId :=
  ((List.range 32).find? (fun i => m.getLsbD i)).map (fun i => Fin.ofNat 32 i)

/-- The resident context whose lowest logical core is `n` (16:R711). -/
def State.slotCtx (s : State) (n : CoreId) : Option Context := s.ctxs.find? (fun x => lowestCore x.mask == some n)

def State.enId (s : State) (n : CoreId) : Word := match s.slotCtx n with
  | some x => wordOf [(20, 1, 1), (0, 20, x.pasid.toNat)]
  | none => 0#64

/-- EN_CTXn_E: the slot holds thirty-seconds of a mJ. -/
def State.enE (s : State) (n : CoreId) : Word := BitVec.ofNat 64 (s.power.slots[n] / 32)

/-! ## Start-up -/

def Boot.stat (b : Boot) : Word :=
  wordOf [(56, 8, b.hold.toNat), (40, 8, b.report.toNat), (8, 1, b2n b.slot), (4, 4, b.stage.toNat),
    (3, 1, b2n (b.hold != 0#8)), (2, 1, b2n b.warm), (1, 1, b2n b.ready)]

def Boot.otherWord (b : Boot) : Word := wordOf [(4, 2, b.staging.toNat), (0, 2, b.other.toNat)]

/-! ## Repair (18:R758, R760) -/

/-- The physical cores that serve the logical cores of a die. -/
def Repair.serving (r : Repair) (d : DieId) : List Nat :=
  (List.range 16).map (fun i => (r.map.toList.getD (16 * d.val + i) ⟨false, 0#5⟩).pcore.toNat)

/-- Spare cores left on a die, lowest first: good, serving no logical core, not retired by a failover. -/
def Repair.spareCores (r : Repair) (d : DieId) : List Nat :=
  (List.range 18).filter (fun p =>
    r.good[d].getLsbD p && !r.retired[d].getLsbD p && !(r.serving d).contains p)

/-- Some logical core of the die is served by a spare (01:R29). -/
def Repair.coreMoved (r : Repair) : Bool := r.map.any MapByte.moved

def linesLeft (c : Cache) : Nat := 1024 - c.retired.length

/-- The optical links. -/
def State.optical (s : State) : List Link := s.links.toList.take 32

/-- The wavelengths of the feeds that hold a module, each with whether its spare laser is unused and healthy. -/
def State.laserSpares (s : State) : List Bool :=
  s.feeds.toList.flatMap (fun f => match f.module with
    | some _ => (List.range 9).map (fun i => !(f.spares.getD i false) && !f.dead.getLsbD i)
    | none => [])

/-- The dies whose repair map has been taken (17:R716). -/
def Repair.mapped (r : Repair) (d : DieId) : Bool := r.good[d] != 0#18

/-- For each class 0 to 5: whether a spare of each instance is left, and whether one has been used since test
(18:R738, R758). A die whose repair map has not been taken has no instance of classes 0 and 3 yet. -/
def State.spareClasses (s : State) : List (List Bool × Bool) :=
  let r := s.rep
  [((([0, 1] : List DieId).filter r.mapped).map (fun d => !(r.spareCores d).isEmpty), r.coreMoved),
   (r.rowsSpared.toList.map (fun l => l.length < 32), r.rowsSpared.any (fun l => !l.isEmpty)),
   (s.caches.toList.map (fun c => linesLeft c != 0), s.caches.any (fun c => !c.retired.isEmpty)),
   (((List.finRange 8).filter (fun g => r.mapped (if g.val < 4 then 0 else 1))).map (fun g => r.d2dLeft[g] != 0), r.d2dLeft != r.d2dTest),
   (s.optical.map (fun l => !l.spare), s.optical.any Link.spare),
   (s.laserSpares, s.laserSpares.any (!·))]

/-- Levels above P5 AGED; levels at or below P5 AGED. -/
def Power.agedAt (p : Power) (hi : Bool) : Bool :=
  p.temper.any (fun t => (List.range 8).any (fun n => (if hi then 5 < n else n ≤ 5) && (t.toList.getD n Temper.reset).aged))

/-- The level-4 conditions (18:R758). -/
def State.cause4 (s : State) : List Bool :=
  [s.rep.coreLost,
   s.links.any (fun l => (l.st == .down && l.cause == 7#4) || (l.st == .up && l.degr)),
   s.feeds.any (fun f => f.dead != 0#9),
   s.rep.lineLost, s.rep.rowLost, s.power.agedAt false]

/-- The Patina level (18:R758). -/
def State.patina (s : State) : Nat :=
  let cs := s.spareClasses
  if s.cause4.any id then 4
  else if cs.any (fun c => !c.1.isEmpty && !(c.1.any id)) || s.power.agedAt true then 3
  else if cs.any (fun c => c.1.any (!·)) then 2
  else if cs.any Prod.snd then 1
  else 0

def State.repPatina (s : State) : Word :=
  let cs := s.spareClasses
  wordOf [(32, 6, bitList s.cause4), (23, 1, b2n (s.power.agedAt true)),
    (16, 6, bitList (cs.map (fun c => !c.1.isEmpty && !(c.1.any id)))),
    (8, 6, bitList (cs.map (fun c => c.1.any (!·)))), (0, 3, s.rep.level.toNat)]

def minOf (xs : List Nat) (d : Nat) : Nat := xs.foldl min d

def State.repSpares (s : State) : Word :=
  wordOf [(56, 8, (s.optical.filter (fun l => !l.spare)).length), (48, 8, (s.laserSpares.filter id).length),
    (40, 8, s.rep.d2dLeft.toList.foldl (· + ·) 0),
    (32, 8, minOf (s.rep.rowsSpared.toList.map (fun l => 32 - l.length)) 32),
    (16, 11, minOf (s.caches.toList.map linesLeft) 1024),
    (8, 8, (s.rep.spareCores 1).length), (0, 8, (s.rep.spareCores 0).length)]

def EccCount.word (e : EccCount) : Word := wordOf [(32, 32, e.corr.toNat), (0, 32, e.unc.toNat)]

/-! ## Security and management -/

/-- The device may send host requests (19:R779). -/
def State.ideSecure (s : State) : Bool := s.sec.ide.any id

def State.requireIde (s : State) : Bool := match s.secPolicy with
  | some p => p.requireIde
  | none => false

def State.secStat (s : State) : Word :=
  wordOf [(24, 8, s.sec.denied.toNat), (16, 8, s.ctxs.length), (8, 8, s.sec.secrets.length), (4, 1, b2n s.ideSecure),
    (3, 1, b2n s.requireIde), (1, 2, s.sec.scope.toNat), (0, 1, b2n s.sec.debug)]

def Mgmt.stat (m : Mgmt) : Word :=
  wordOf [(56, 8, m.eid.toNat), (48, 7, m.dyn.toNat), (32, 9, m.events.length), (16, 16, m.evdrop.toNat),
    (3, 1, b2n m.rcvr.isSome), (2, 1, b2n (m.dyn == 0#7)), (1, 1, b2n (m.dyn != 0#7)), (0, 1, b2n m.fwrun)]

/-! ## The register space -/

/-- The index of an offset in a row of `n` blocks of `size` bytes from `base` on, with the offset in its block. -/
def blockAt (base size n off : Nat) : Option (Nat × Nat) :=
  if base ≤ off ∧ off < base + size * n then some ((off - base) / size, (off - base) % size) else none

/-- A 64-bit register read at a BAR0 offset, a multiple of 8; an unassigned offset reads as zero (20:R808). -/
def State.regRead (s : State) (off : Nat) : Word :=
  if off == 0x800 then s.boot.stat
  else if off == 0x808 then s.boot.version
  else if off == 0x810 then s.boot.otherWord
  else if 0x1000 ≤ off && off < 0x1040 then s.sizeTable ((off - 0x1000) / 8)
  else if 0x1100 ≤ off && off < 0x1120 then s.coreMap ((off - 0x1100) / 8)
  else if off == 0x6400 then s.ftStat
  else if off == 0x6408 then s.sgStat
  else if off == 0x9000 then s.journal.head
  else if off == 0x9008 then s.journal.tail
  else if off == 0x9010 then s.journal.ident
  else if off == 0xA000 then s.pwrStat
  else if off == 0xA008 then s.power.cnt
  else if off == 0xA010 then s.power.tick
  else if off == 0xA018 then BitVec.ofNat 64 s.power.energyMj
  else if off == 0xB000 then s.repPatina
  else if off == 0xB008 then s.repSpares
  else if off == 0xC000 then s.secStat
  else if off == 0xD000 then s.mgmt.stat
  else if 0x5000 ≤ off && off < 0x5028 then s.ring.reg ((off - 0x5000) / 8)
  else match blockAt 0x4000 0x100 2 off with
  | some (d, o) =>
    let c := s.caches[Fin.ofNat 2 d]
    if o == 0 then c.ctrl else if o == 8 then c.stat
    else if 0x40 ≤ o && o < 0x80 then (c.classes[Fin.ofNat 8 ((o - 0x40) / 8)]).word else 0#64
  | none =>
  match blockAt 0x6000 16 35 off with
  | some (i, o) => let l := s.links[Fin.ofNat 35 i]; if o == 0 then l.stat else l.cnt
  | none =>
  match blockAt 0x6800 0x40 4 off with
  | some (k, o) => let f := s.feeds[Fin.ofNat 4 k]; if o == 8 then f.stat else if o == 16 then f.fcast else if o == 0 then f.ctrl else 0#64
  | none =>
  match blockAt 0x8000 0x20 64 off with
  | some (q, o) => (s.queues[Fin.ofNat 64 q]).reg (o / 8)
  | none =>
  match blockAt 0xA040 0x40 2 off with
  | some (d, o) => ((s.power.temper[Fin.ofNat 2 d])[Fin.ofNat 8 (o / 8)]).word
  | none =>
  match blockAt 0xA100 16 32 off with
  | some (n, o) => if o == 0 then s.enId (Fin.ofNat 32 n) else s.enE (Fin.ofNat 32 n)
  | none =>
  match blockAt 0xB040 8 5 off with
  | some (m, _) => (s.rep.ecc[Fin.ofNat 5 m]).word
  | none =>
  match blockAt 0x100000 0x40 256 off with
  | some (i, o) => (s.htg[Fin.ofNat 256 i]).reg (o / 8)
  | none =>
  match blockAt 0x1000000 64 65536 off with
  | some (i, o) => match s.journal.slot i with
    | some e => e.words.getD (o / 8) 0#64
    | none => 0#64
  | none => 0#64

end Sys2Proof.Machine
end

