-- ==== Sys2Proof/Machine/Device.lean ====
section
/-! DEFINITION. Shared operations of the device: outputs and events (20:R800, R801), the fault ring (11:R499 to R503), error counts and
sparing (18:R744 to R746, R759), the journal (15:R655 to R662), contexts and their cores, and free values. -/

namespace Sys2Proof.Machine

/-! ## Cores -/

def State.core (s : State) (c : CoreId) : Core := s.cores[c]

def State.setCore (s : State) (c : CoreId) (k : Core) : State := { s with cores := s.cores.set c k }

def State.updCore (s : State) (c : CoreId) (f : Core → Core) : State := s.setCore c (f (s.core c))

/-- The clock of a core is gated or runs (16:R707). -/
def State.gate (s : State) (c : CoreId) (g : Bool) : State :=
  let bit : BitVec 32 := BitVec.ofNat 32 (2 ^ c.val)
  { s with gated := if g then s.gated ||| bit else s.gated &&& ~~~bit }

/-- The logical cores of a mask, in order. -/
def coresOf (m : BitVec 32) : List CoreId :=
  ((List.range 32).filter (fun i => m.getLsbD i)).map (fun i => Fin.ofNat 32 i)

/-! ## The crystal and the management tick (00:R8) -/

/-- Nanoseconds of the base-note crystal, which no slew of the device time counter moves (12:R543); durations are counted in it. -/
def State.xtal (s : State) : Nat := s.us * 1000

/-- The number of the tick of a time of the crystal: ticks are 488.28125 µs long (00:R8). -/
def tickNo (t : Nat) : Nat := t * 4 / 1953125

/-- What happens once a tick has not happened yet in the tick that passes (00:R10). -/
def State.tickDue (s : State) (last : Option Nat) : Bool := last != some (tickNo s.xtal)

/-! ## Outputs, events and free values -/

def State.emit (s : State) (o : Out) : State := { s with out := s.out ++ [o] }

/-- The next number of a free value. -/
def State.draw (s : State) : State × Nat := ({ s with fresh := s.fresh + 1 }, s.fresh)

/-- A key drawn from the device's random source, by its number (19:R772). -/
def State.drawKey (s : State) : State × Nat := ({ s with keys := s.keys + 1 }, s.keys + 1)

/-- R801: an event joins the queue, or finds it full, is dropped and counted. -/
def State.event (s : State) (code : Nat) (data : List Word) : State :=
  let m := s.mgmt
  if 256 ≤ m.events.length then { s with mgmt := { m with evdrop := satAdd m.evdrop 1, owed := m.owed + 1 } }
  else { s with mgmt := { m with events := m.events ++ [(code, data)] } }

def natW (n : Nat) : Word := BitVec.ofNat 64 n

/-! ## Contexts -/

def State.ctx (s : State) (p : Pasid) : Option Context := s.ctxs.find? (fun x => x.pasid == p)

/-- The context with a new value; one that is not resident stays out. -/
def State.setCtx (s : State) (x : Context) : State :=
  { s with ctxs := s.ctxs.map (fun y => if y.pasid == x.pasid then x else y) }

def State.updCtx (s : State) (p : Pasid) (f : Context → Context) : State :=
  { s with ctxs := s.ctxs.map (fun y => if y.pasid == p then f y else y) }

/-- The resident context that owns a logical core. -/
def State.ctxOf (s : State) (c : CoreId) : Option Context := s.ctxs.find? (fun x => x.mask.getLsbD c.val && !x.loading)

def State.pasidOf (s : State) (c : CoreId) : Pasid := match s.ctxOf c with
  | some x => x.pasid
  | none => 0#20

/-- An address range lies wholly in one span that grants the access, or byte by byte in spans that do (11:R473). -/
def spansGrant (l : List Span) (wr : Bool) (a n : Nat) : Bool :=
  -- the bytes from `a` on that the spans cover, span after span
  let reach := l.foldl (fun p _ => l.foldl (fun p x =>
    if x.base ≤ p && p < x.base + x.size && (if wr then x.w else x.r) then x.base + x.size else p) p) a
  n == 0 || a + n ≤ reach

/-! ## Fault ring (11:R500 to R503) -/

def Ring.full (r : Ring) : Bool := (r.tail - r.head).toNat == 256

def Ring.open_ (r : Ring) : Bool := r.en && !r.full

/-- An entry is written, TAIL advances, and the FAULT interrupt is raised (R501). -/
def State.ringWrite (s : State) (e : RingEntry) : State :=
  let r := s.ring
  let a := r.addr.toNat * 16384 + 64 * (r.tail.toNat % 256)
  let s := { s with ring := { r with tail := r.tail + 1#9 } }
  (s.emit (.hostWrite none false a (wordsBytes e.words))).emit (.msix r.fvec)

/-- A fault entry is written, or held with OVF counted and FAULT_OVERFLOW raised (R502). -/
def State.ringPost (s : State) (e : RingEntry) : State × Bool :=
  if s.ring.open_ && s.ring.held.isEmpty then (s.ringWrite e, true)
  else
    let r := s.ring
    ({ s with ring := { r with held := r.held ++ [e], ovf := satAdd r.ovf 1 } }.emit (.msix r.ovec), false)

/-- The words of an entry (R501). -/
def ringWords (kind detail chan : Nat) (pasid : Pasid) (w : Bool) (addr ticket row plane col bytes time : Nat) : List Word :=
  [wordOf [(56, 8, kind), (48, 8, detail), (41, 7, chan), (21, 20, pasid.toNat), (20, 1, b2n w)], natW addr,
   wordOf [(32, 32, ticket), (16, 16, row), (0, 16, plane)], wordOf [(0, 32, col)], natW bytes, natW time, 0#64, 0#64]

/-- A CORRECTED notice is written or dropped (R503). -/
def State.noticeCorrected (s : State) (mem addr : Nat) : State :=
  if s.ring.open_ && s.ring.held.isEmpty then
    s.ringWrite ⟨none, ringWords 0x10 mem 0 0#20 false addr 0 0 0 0 0 s.time⟩
  else { s with ring := { s.ring with cedrop := satAdd s.ring.cedrop 1 } }

/-! ## Patina level (18:R759) -/

/-- The level takes a value, and a change raises PATINA_CHANGE. -/
def State.setLevel (s : State) (n : Nat) : State :=
  let v := BitVec.ofNat 3 n
  if v == s.rep.level then s
  else
    let s := { s with rep := { s.rep with level := v } }
    s.event 1 [s.repPatina]

/-- The level is recomputed at a change of spare state: it does not fall. -/
def State.recompute (s : State) : State := s.setLevel (max s.patina s.rep.level.toNat)

/-- The level after a light-source module has been replaced, and at a cold start: it may fall. -/
def State.relevel (s : State) : State := s.setLevel s.patina

/-! ## Error counts and sparing (18:R744 to R746) -/

/-- The memory code of 18:R760. -/
def eccIdx : MemKind → Fin 5
  | .scratchpad => 0
  | .dmem => 1
  | .imem => 2
  | .scache => 3
  | .hbm => 4

/-- The memory code of a CORRECTED notice or a MEMORY_ERROR entry (11:R501). -/
def ringCode : MemKind → Nat
  | .scratchpad => 0
  | .scache => 1
  | .hbm => 2
  | .dmem => 3
  | .imem => 4

def State.countUnc (s : State) (m : MemKind) (addr : Nat) : State :=
  let e := s.rep.ecc[(eccIdx m)]
  let s := { s with rep := { s.rep with ecc := s.rep.ecc.set (eccIdx m) { e with unc := satAdd e.unc 1 } } }
  s.event 9 [natW (eccIdx m).val, natW addr]

def State.countCorr (s : State) (m : MemKind) (addr : Nat) : State :=
  let e := s.rep.ecc[(eccIdx m)]
  let s := { s with rep := { s.rep with ecc := s.rep.ecc.set (eccIdx m) { e with corr := satAdd e.corr 1 } } }
  s.noticeCorrected (ringCode m) addr

/-- R745: the row of a slab is spared, or stays in service when no spare row is left. The marks of its words move with them. -/
def State.spareRow (s : State) (c : CoreId) (row : Nat) : State :=
  let l := s.rep.rowsSpared[c]
  let marks := (s.core c).badSpad.filter (fun w => w / 4096 == row)
  let s := { s with rep := { s.rep with movedMarks := s.rep.movedMarks.set c (s.rep.movedMarks[c].filter (fun w => w / 4096 != row) ++ marks) } }
  if l.length < 32 then ({ s with rep := { s.rep with rowsSpared := s.rep.rowsSpared.set c (l ++ [row]) } }).recompute
  else ({ s with rep := { s.rep with rowLost := true } }).recompute

/-- The device address of a byte of a core's memory (01:R51). -/
def devAddr (m : MemKind) (c : CoreId) (off : Nat) : Nat :=
  match m with
  | .scratchpad => 0x10000000000 + c.val * 0x8000000 + off
  | .imem => 0x10100000000 + c.val * 0x200000 + off
  | .dmem => 0x10100000000 + c.val * 0x200000 + 0x100000 + off
  | _ => off

/-- What an access that reads an uncorrectable word of a core's memory leaves: the count (R744) and, in scratchpad, the
sparing of its row (R745), but for a mark that has already moved to a spare row with its word. -/
def State.noteRead (s : State) (c : CoreId) (m : MemKind) (off : Nat) : State :=
  let s := s.countUnc m (devAddr m c off)
  if m = .scratchpad && !s.rep.movedMarks[c].contains (off / 8 * 8) then s.spareRow c (off / 4096) else s

/-! ## Journal (15:R655 to R662) -/

/-- An entry joins; the slot it takes loses the entry it held. -/
def Journal.add (j : Journal) (e : JEntry) : Journal :=
  { j with entries := j.entries.filter (fun x => x.seq.toNat % 65536 != e.seq.toNat % 65536) ++ [e], tail := j.tail + 1#64 }

def Journal.upd (j : Journal) (seq : Word) (f : JEntry → JEntry) : Journal :=
  { j with entries := j.entries.map (fun e => if e.seq == seq then f e else e) }

/-- A device entry (R661), in PHASE completed with all three times equal; its sequence number is the one before the new
tail. -/
def State.devEntry (s : State) (kind : BitVec 5) (status : Word) (p : Pasid) (clink : Int) : State :=
  let t := natW s.time
  let e : JEntry :=
    { seq := s.journal.tail, tAccept := t, tStart := t, tDone := t, digest := 0#128, status := status, pasid := p,
      queue := 0#6, dev := true, kind := kind, phase := .completed, clink := clink }
  { s with journal := s.journal.add e }

/-- R406: the trap summary. -/
def trapSummary (res : Nat) (hw df nest int : Bool) (c : CoreId) (cause : BitVec 8) (pc : BitVec 20) : Word :=
  wordOf [(62, 2, res), (61, 1, b2n hw), (60, 1, b2n df), (59, 1, b2n nest), (58, 1, b2n int), (53, 5, c.val),
    (40, 8, cause.toNat), (0, 20, pc.toNat)]

/-- A TRAP entry of a core: its CLINK names the RUN's entry, whose CLINK becomes this entry (R661, R662). -/
def State.trapEntry (s : State) (c : CoreId) (status : Word) : State :=
  let p := s.pasidOf c
  match (s.ctxOf c).bind Context.run with
  | none => s.devEntry 0x10#5 status p 0
  | some r =>
    let seq := s.journal.tail
    if r.seq == 0#64 then s.devEntry 0x10#5 status p 0
    else
    let s := s.devEntry 0x10#5 status p ((r.seq.toNat : Int) - seq.toNat)
    { s with journal := s.journal.upd r.seq (fun e => { e with clink := (seq.toNat : Int) - r.seq.toNat }) }

/-! ## Channels -/

def State.chan (s : State) (c : ChanId) : Chan := s.chans[c]

def State.setChan (s : State) (c : ChanId) (x : Chan) : State := { s with chans := s.chans.set c x }

def State.updChan (s : State) (c : ChanId) (f : Chan → Chan) : State := s.setChan c (f (s.chan c))

/-- The device, when its data plane runs. -/
def State.runs (s : State) : Bool := s.pstate == .run

end Sys2Proof.Machine
end

