-- ==== Sys2Proof/Machine/Operands.lean ====
section
/-! DEFINITION. The operand forms of core instructions (02:R81, R85, R92, R95; 04:R165, R176) and how one instruction of a core runs:
fetch checks, the wait of PAM, its own effect, its end. -/

namespace Sys2Proof.Machine

/-! ## Immediates (02:R84, R85) -/

/-- The length of an instruction with or without its prefix. -/
def pfxLen (p : Pfx) : Nat := match p with
  | some _ => 8
  | none => 4

/-- A prefix of another KIND than immediate extension, 0b00 (02:R84, R86). -/
def pfxBad (p : Pfx) : Bool := match p with
  | some h => h.toNat / 2 ^ 24 != 0
  | none => false

/-- The 40 bits of a long form's immediate: PAYLOAD above IMM (02:R85). -/
def longImm (h : BitVec 26) (imm : BitVec 16) : BitVec 40 := h.setWidth 24 ++ imm

/-- The sign-extended immediate: 16 bits, or the 40 bits of a long form. -/
def immS (p : Pfx) (imm : BitVec 16) : Word :=
  match p with
  | some h => (longImm h imm).signExtend 64
  | none => imm.signExtend 64

/-- The immediate of ANDI, ORI and XORI: zero-extended, or as R85 under a prefix. -/
def immZ (p : Pfx) (imm : BitVec 16) : Word :=
  match p with
  | some h => (longImm h imm).signExtend 64
  | none => imm.setWidth 64

/-! ## Vector operands (04:R165, R147) -/

def vregBytes : Nat := 8192

/-- The low `n` elements of `b` bytes each of a run of bytes. -/
def unpackBytes (b : Nat) : Nat → List Byte → List Nat
  | 0, _ => []
  | n + 1, bs => leNat (bs.take b) :: unpackBytes b n (bs.drop b)

/-- The low `n` elements of `w` bits of a number. -/
def unpackBits (w : Nat) : Nat → Nat → List Nat
  | 0, _ => []
  | n + 1, v => v % 2 ^ w :: unpackBits w n (v / 2 ^ w)

/-- Sub-byte elements in groups of three bytes: eight 4-bit or 6-bit elements take `w` bytes. -/
def unpackGroups (w : Nat) : Nat → List Byte → List Nat
  | 0, _ => []
  | n + 1, bs => unpackBits w 8 (leNat (bs.take w)) ++ unpackGroups w n (bs.drop w)

/-- The first `n` elements of width `w` held in a run of bytes. -/
def unpack (w n : Nat) (bs : List Byte) : List Nat :=
  if w % 8 == 0 then unpackBytes (w / 8) n bs else (unpackGroups w ((n + 7) / 8) bs).take n

/-- Elements of `w` bits as one number. -/
def packBits (w : Nat) : List Nat → Nat
  | [] => 0
  | x :: xs => x % 2 ^ w + 2 ^ w * packBits w xs

/-- Groups of eight sub-byte elements as bytes. -/
def packGroups (w : Nat) : Nat → List Nat → List Byte
  | 0, _ => []
  | n + 1, xs => leBytes w (packBits w (xs.take 8)) ++ packGroups w n (xs.drop 8)

/-- The bytes of elements of width `w`, whole bytes only for sub-byte widths. -/
def pack (w : Nat) (xs : List Nat) : List Byte :=
  if w % 8 == 0 then xs.flatMap (leBytes (w / 8))
  else (packGroups w ((xs.length + 7) / 8) xs).take ((xs.length * w + 7) / 8)

/-- The first `n` elements of the operand of width `w` that starts at register `r`. -/
def Core.vget (k : Core) (r : Reg) (w n : Nat) : List Nat :=
  unpack w n (k.vregs.getN (r.toNat * vregBytes) ((n * w + 7) / 8))

/-- The operand's first elements written; the elements that share a last byte group with them keep their values. -/
def Core.vput (k : Core) (r : Reg) (w : Nat) (xs : List Nat) : Core :=
  let n := xs.length
  let xs := if w % 8 == 0 then xs else xs ++ (k.vget r w ((n + 7) / 8 * 8)).drop n
  { k with vregs := k.vregs.put (r.toNat * vregBytes) (pack w xs) }

/-- A mask register, by the low three bits of its number. -/
def Core.mask (k : Core) (m : BitVec 3) : BitVec 65536 := k.masks[m.toNat]'(by have := m.isLt; omega)

def Core.setMask (k : Core) (m : BitVec 3) (v : BitVec 65536) : Core :=
  { k with masks := k.masks.set m.toNat v (by have := m.isLt; omega) }

/-- The grouping G (04:R167). -/
def Core.group (k : Core) : Nat := 2 ^ k.grp.toNat

/-- The element width in bits of VGRP.EW (04:R167). -/
def Core.ewBits (k : Core) : Nat :=
  match k.ew.toNat with
  | 0 => 8
  | 1 => 16
  | 2 => 32
  | 3 => 64
  | _ => 4

/-! ## One instruction of a core -/

/-- The core issues instructions: the data plane runs (01:R41), its clock is not gated (16:R707), it is not halted (09:R387),
and no SAVE or EVACUATE holds it at a safe point (15:R645). -/
def State.issues (s : State) (c : CoreId) : Bool :=
  s.pstate == .run && !s.gated.getLsbD c.val && !(s.core c).halted && !(s.core c).held

/-- The uncorrectable words that a core has found beyond its first `n` are counted (09:R397, 18:R744). -/
def State.noteFound (s : State) (c : CoreId) (n : Nat) : State :=
  let l := (s.core c).found
  (l.drop n).foldl (fun s e => s.noteRead c e.1 e.2) (s.updCore c (fun k => { k with found := l.take n }))

/-- A change of a core by itself, with what it finds counted. -/
def State.ownChange (s : State) (c : CoreId) (f : Core → Core) : State := (s.updCore c f).noteFound c (s.core c).found.length

/-- An instruction of core `c` ends: `k` is the core before it. -/
def State.endInstr (s : State) (c : CoreId) (k : Core) (len : Nat) (e : Ending) : State :=
  let s := (s.updCore c (fun k' => k.finish k' len e)).noteFound c k.found.length
  match e with
  | .memerr m off _ => s.noteRead c m off
  | _ => s

/-- One instruction of `len` bytes on core `c` whose own effect reaches the device: on a core that issues, the fetch
checks come first, then the wait of PAM, then the effect. DESIGN CHOICE: the wait of PAM (09:R403) holds for every instruction, MXCFG
too, though MXCFG of itself never waits for a matrix instruction (06:R264); the spec does not rank the two rules. -/
def State.instr (s : State) (c : CoreId) (len : Nat) (body : State → State × Ending) : State :=
  let k := s.core c
  if !s.issues c then s
  else match k.fetchCheck len with
    | some e => s.endInstr c k len e
    | none =>
      if k.pamWaits then s.endInstr c k len (.wait false)
      else
        let (s', e) := body s
        s'.endInstr c k len e

/-- One instruction whose own effect stays in the core. -/
def State.coreInstr (s : State) (c : CoreId) (len : Nat) (body : Core → Core × Ending) : State :=
  s.instr c len (fun s => let (k, e) := body (s.core c); (s.setCore c k, e))

/-- One instruction that may stand behind an immediate extension: a prefix of another KIND is an illegal instruction at the prefix
(02:R84, R86). -/
def State.longInstr (s : State) (c : CoreId) (p : Pfx) (body : Core → Core × Ending) : State :=
  s.coreInstr c (pfxLen p) (fun k => if pfxBad p then (k, .trap .illegal 0#64) else body k)

/-- The command that core `c` executes next: the word that it executes at the PC, with the next word where it is a prefix (02:R80, R123). -/
def State.coreCommand (s : State) (c : CoreId) : Instr :=
  let k := s.core c
  decodeCore c (k.fetched k.pc.toNat) (k.fetched (k.pc.toNat + 4))

end Sys2Proof.Machine
end

