-- ==== Sys2Proof/Machine/Scalar.lean ====
section
/-! DEFINITION. The scalar instructions (02:R90 to R99, R112 to R124): integer, floating point, loads, stores, control
transfers and the system instructions that do not end a core. -/

namespace Sys2Proof.Machine

/-- The answer of a command that completes. -/
abbrev Res := Host.Outcome State Fault Refusal

/-! ## Integer (02:R90, R91) -/

def clz64 (v : Word) : Nat := if v == 0#64 then 64 else 63 - v.toNat.log2

/-- A Bool as a word. -/
def boolWord (b : Bool) : Word := if b then 1#64 else 0#64

/-- The integer ALU: the result of FN, none when FN selects no operation or RB must be 0 and is not. -/
def aluOp (fn : BitVec 11) (rb : Reg) (a b : Word) : Option Word :=
  match fn.toNat with
  | 0x000 => some (a + b)
  | 0x001 => some (a - b)
  | 0x002 => some (a &&& b)
  | 0x003 => some (a ||| b)
  | 0x004 => some (a ^^^ b)
  | 0x005 => some (a <<< (b.toNat % 64))
  | 0x006 => some (a >>> (b.toNat % 64))
  | 0x007 => some (a.sshiftRight (b.toNat % 64))
  | 0x008 => some (boolWord (a.slt b))
  | 0x009 => some (boolWord (a.ult b))
  | 0x00A => some (if a.slt b then a else b)
  | 0x00B => some (if a.slt b then b else a)
  | 0x00C => some (if a.ult b then a else b)
  | 0x00D => some (if a.ult b then b else a)
  | 0x00E => if rb == 0#5 then some (BitVec.ofNat 64 (clz64 a)) else none
  | 0x00F => if rb == 0#5 then some (BitVec.ofNat 64 (popN 64 a.toNat)) else none
  | _ => none

/-- A result written to RD, or the illegal-instruction trap of R83. -/
def Core.writeOr (k : Core) (rd : Reg) : Option Word → Core × Ending
  | some v => (k.setReg rd v, .retire 0#10)
  | none => (k, .trap .illegal 0#64)

def execIntegerAlu (c : CoreId) (fn : BitVec 11) (rd ra rb : Reg) (s : State) : Res :=
  .next (s.coreInstr c 4 (fun k => k.writeOr rd (aluOp fn rb (k.reg ra) (k.reg rb))))

/-- ADDI to SLTIU by opcode. -/
def immOp (op : BitVec 6) (pfx : Pfx) (imm : BitVec 16) (a : Word) : Option Word :=
  match op.toNat with
  | 0x02 => some (a + immS pfx imm)
  | 0x03 => some (a &&& immZ pfx imm)
  | 0x04 => some (a ||| immZ pfx imm)
  | 0x05 => some (a ^^^ immZ pfx imm)
  | 0x06 => some (boolWord (a.slt (immS pfx imm)))
  | 0x07 => some (boolWord (a.ult (immS pfx imm)))
  | _ => none

def execImmediateAlu (c : CoreId) (op : BitVec 6) (rd ra : Reg) (imm : BitVec 16) (pfx : Pfx) (s : State) : Res :=
  .next (s.longInstr c pfx (fun k => k.writeOr rd (immOp op pfx imm (k.reg ra))))

/-- SLLI, SRLI, SRAI: IMM[15:8] selects, IMM[7:6] must be 0. -/
def shiftOp (imm : BitVec 16) (a : Word) : Option Word :=
  let sh := imm.toNat % 64
  if imm.toNat / 64 % 4 != 0 then none
  else match imm.toNat / 256 with
    | 0 => some (a <<< sh)
    | 1 => some (a >>> sh)
    | 2 => some (a.sshiftRight sh)
    | _ => none

def execImmediateShift (c : CoreId) (rd ra : Reg) (imm : BitVec 16) (s : State) : Res :=
  .next (s.coreInstr c 4 (fun k => k.writeOr rd (shiftOp imm (k.reg ra))))

/-- The high word of an exact product. -/
def mulHigh (a b : Int) : Word := BitVec.ofInt 64 (a * b / 2 ^ 64)

/-- Multiply and divide, with the values of R91. -/
def mulDivOp (fn : BitVec 11) (a b : Word) : Option Word :=
  match fn.toNat with
  | 0 => some (a * b)
  | 1 => some (mulHigh a.toInt b.toInt)
  | 2 => some (mulHigh a.toNat b.toNat)
  | 3 => some (mulHigh a.toInt b.toNat)
  | 4 => some (if b == 0#64 then BitVec.allOnes 64 else BitVec.ofInt 64 (a.toInt.tdiv b.toInt))
  | 5 => some (if b == 0#64 then BitVec.allOnes 64 else a / b)
  | 6 => some (if b == 0#64 then a else BitVec.ofInt 64 (a.toInt.tmod b.toInt))
  | 7 => some (if b == 0#64 then a else a % b)
  | _ => none

def execMultiplyDivide (c : CoreId) (fn : BitVec 11) (rd ra rb : Reg) (s : State) : Res :=
  .next (s.coreInstr c 4 (fun k => k.writeOr rd (mulDivOp fn (k.reg ra) (k.reg rb))))

/-! ## Floating point (02:R92 to R94) -/

/-- The rounding mode of scalar and vector arithmetic. -/
def Core.rm (k : Core) : RMode := (RMode.ofCode k.fmode.rm.toNat).det

def b2flags (r : Bool × Flags) : Nat × Flags := (b2n r.1, r.2)

/-- The operation of FN[4:0] on codes of the selected precision `f`; `a64` is the whole of RA for FCVT.F and FCVT.P. -/
def fpOp (f other : FFmt) (rm : RMode) (op : Nat) (a b c : Nat) (a64 : Word) : Option (Nat × Flags) :=
  match op with
  | 0x00 => some (f.add rm a b)
  | 0x01 => some (f.sub rm a b)
  | 0x02 => some (f.mul rm a b)
  | 0x03 => some (f.div rm a b)
  | 0x04 => some (f.sqrt rm a)
  | 0x05 => some (f.fma rm a b c)
  | 0x06 => some (f.minMax false a b)
  | 0x07 => some (f.minMax true a b)
  | 0x08 => some (b2flags (f.compareCode 0 a b))
  | 0x09 => some (b2flags (f.compareCode 1 a b))
  | 0x0A => some (b2flags (f.compareCode 2 a b))
  | 0x0C => let (v, g) := toIntRange (sMin 64) (sMax 64) rm 0 (f.decode a); some (ofSigned 64 v, g)
  | 0x0D => let (v, g) := toIntRange 0 (uMax 64) rm 0 (f.decode a); some (ofSigned 64 v, g)
  | 0x0E => some (f.ofInteger rm 0 a64.toInt)
  | 0x0F => some (other.convert f rm 0 (a64.toNat % 2 ^ other.width))
  | _ => none

/-- The operations that read one register only: RB must be 0 (R83, R92). -/
def fpUnary (op : Nat) : Bool := op == 0x04 || (0x0C ≤ op && op ≤ 0x0F)

/-- One scalar floating-point instruction. -/
def Core.scalarFp (k : Core) (fn : BitVec 11) (rd ra rb : Reg) : Core × Ending :=
  let op := fn.toNat % 32
  let single := bitN fn.toNat 5
  let rc : Reg := BitVec.ofNat 5 (fn.toNat / 64)
  let f := if single then fp32 else fp64
  let other := if single then fp64 else fp32
  let code := fun (r : Reg) => (k.reg r).toNat % 2 ^ f.width
  if (op != 0x05 && rc != 0#5) || (fpUnary op && rb != 0#5) then (k, .trap .illegal 0#64)
  else match fpOp f other k.rm op (code ra) (code rb) (code rc) (k.reg ra) with
    | some (v, g) => (k.setReg rd (BitVec.ofNat 64 v), .retire g)
    | none => (k, .trap .illegal 0#64)

def execScalarFloatingPoint (c : CoreId) (fn : BitVec 11) (rd ra rb : Reg) (s : State) : Res :=
  .next (s.coreInstr c 4 (fun k => k.scalarFp fn rd ra rb))

/-! ## Loads and stores (02:R74 to R78, R95, R112 to R122) -/

/-- Width in bytes and sign-extension of a load opcode. -/
def loadForm (op : BitVec 6) : Option (Nat × Bool) :=
  match op.toNat with
  | 0x10 => some (1, true)
  | 0x11 => some (1, false)
  | 0x12 => some (2, true)
  | 0x13 => some (2, false)
  | 0x14 => some (4, true)
  | 0x15 => some (4, false)
  | 0x16 => some (8, false)
  | _ => none

def storeForm (op : BitVec 6) : Option Nat :=
  match op.toNat with
  | 0x18 => some 1
  | 0x19 => some 2
  | 0x1A => some 4
  | 0x1B => some 8
  | _ => none

/-- The checks of a scalar access: in the alias window privilege first, then the width and alignment (R75);
elsewhere alignment (R74), then R47 to R50. -/
def Core.scalarCheck (k : Core) (wr : Bool) (a n : Nat) : Option Cause :=
  if placeOf a = Place.alias_ then
    if k.level != .firmware then some .privilege
    else if n < 4 || a % n != 0 then some .align
    else none
  else if a % n != 0 then some .align
  else k.accessCheck wr a n

/-- The value a load of `n` bytes returns: `v` sign- or zero-extended. -/
def extendLoad (n : Nat) (sg : Bool) (v : Nat) : Word :=
  if sg then BitVec.ofInt 64 (toSigned (8 * n) v) else BitVec.ofNat 64 v

/-- The bytes of a covering buffered store (R115). -/
def SbEntry.forward (e : SbEntry) (a n : Nat) : Nat := e.data.toNat / 256 ^ (a - e.addr) % 256 ^ n

/-- Reads memory for a load: the word, or the memory-error trap of R78. -/
def Core.readLoad (k : Core) (rd : Reg) (a n : Nat) (sg : Bool) : Core × Ending :=
  match k.badWord a n with
  | some w => (k, .memerr (memKindAt a) w (BitVec.ofNat 64 a))
  | none => (k.setReg rd (extendLoad n sg (leNat (k.load a n))), .retire 0#10)

/-- One scalar load: forwarding, or draining what overlaps in part (R115, R116). -/
def Core.scalarLoad (k : Core) (rd : Reg) (addr : Word) (n : Nat) (sg : Bool) : Core × Ending :=
  let a := addr.toNat
  match k.scalarCheck false a n with
  | some cause => (k, .trap cause addr)
  | none =>
    match youngest k.sb a n with
    | some e =>
      if e.covers a n then (k.setReg rd (extendLoad n sg (e.forward a n)), .retire 0#10)
      else (k.drain).readLoad rd a n sg
    | none => k.readLoad rd a n sg

def execScalarLoad (c : CoreId) (op : BitVec 6) (rd ra : Reg) (imm : BitVec 16) (pfx : Pfx) (s : State) : Res :=
  .next (s.longInstr c pfx (fun k =>
    match loadForm op with
    | none => (k, .trap .illegal 0#64)
    | some (n, sg) => k.scalarLoad rd (k.reg ra + immS pfx imm) n sg))

/-- The instruction words that the fetch window already holds when an alias store at `p` writes the bytes from IMEM
address `a` on (R123): those from `p + 4` to `p + 32`, each kept with its old contents. DESIGN CHOICE: where two stores write one
word and both windows cover it, R123 names for it the contents from before each; the window keeps those from before the first. -/
def Core.keepStale (k : Core) (p a n : Nat) : List (Nat × Half) :=
  let ws := (if n == 8 then [a, a + 4] else [a]).filter (fun w =>
    p + 4 ≤ w && w ≤ p + 32 && !(k.stale.any (fun x => x.1 == w)))
  k.stale ++ ws.map (fun w => (w, BitVec.ofNat 32 (k.imem.getLe w 4)))

/-- A store to the IMEM alias window: the buffer empties, then IMEM is written (R122). -/
def Core.aliasStore (k : Core) (a n : Nat) (v : Word) : Core :=
  let k := k.drain
  let k := { k with stale := k.keepStale k.pc.toNat (a - aliasBase) n }
  k.store a (leBytes n v.toNat)

/-- A checked store enters the buffer; when it is full the oldest entry leaves first (R112, R113). -/
def Core.bufferStore (k : Core) (a n : Nat) (v : Word) : Core :=
  let k := if 8 ≤ k.sb.length then k.drainOne else k
  { k with sb := k.sb ++ [⟨a, n, BitVec.ofNat 64 (v.toNat % 256 ^ n)⟩] }

/-- One scalar store. -/
def Core.scalarStore (k : Core) (addr : Word) (n : Nat) (v : Word) : Core × Ending :=
  let a := addr.toNat
  match k.scalarCheck true a n with
  | some cause => (k, .trap cause addr)
  | none =>
    (if placeOf a = Place.alias_ then k.aliasStore a n v else k.bufferStore a n v, .retire 0#10)

def execScalarStore (c : CoreId) (op : BitVec 6) (rd ra : Reg) (imm : BitVec 16) (pfx : Pfx) (s : State) : Res :=
  .next (s.longInstr c pfx (fun k =>
    match storeForm op with
    | none => (k, .trap .illegal 0#64)
    | some n => k.scalarStore (k.reg ra + immS pfx imm) n (k.reg rd)))

/-- The oldest buffered store leaves (R112). -/
def execStoreBufferDrain (c : CoreId) (s : State) : Res :=
  .next (if s.pstate == .run then s.ownChange c Core.drainOne else s)

/-! ## Control transfers (02:R96, R97) -/

/-- The comparison of a branch opcode. -/
def branchTaken (op : BitVec 6) (a b : Word) : Option Bool :=
  match op.toNat with
  | 0x20 => some (a == b)
  | 0x21 => some (a != b)
  | 0x22 => some (a.slt b)
  | 0x23 => some (!a.slt b)
  | 0x24 => some (a.ult b)
  | 0x25 => some (!a.ult b)
  | _ => none

def execBranch (c : CoreId) (op : BitVec 6) (ra rb : Reg) (off : BitVec 16) (s : State) : Res :=
  .next (s.coreInstr c 4 (fun k =>
    match branchTaken op (k.reg ra) (k.reg rb) with
    | none => (k, .trap .illegal 0#64)
    | some true => (k, .goto (k.pcWord + 4#64 * off.signExtend 64))
    | some false => (k, .retire 0#10)))

def execJump (c : CoreId) (off : BitVec 26) (s : State) : Res :=
  .next (s.coreInstr c 4 (fun k => (k, .goto (k.pcWord + 4#64 * off.signExtend 64))))

def execJal (c : CoreId) (off : BitVec 26) (s : State) : Res :=
  .next (s.coreInstr c 4 (fun k =>
    (k.setReg 30#5 (k.pcWord + 4#64), .goto (k.pcWord + 4#64 * off.signExtend 64))))

def execJalr (c : CoreId) (rd ra : Reg) (imm : BitVec 16) (pfx : Pfx) (s : State) : Res :=
  .next (s.longInstr c pfx (fun k =>
    (k.setReg rd (k.pcWord + BitVec.ofNat 64 (pfxLen pfx)), .goto (k.reg ra + immS pfx imm))))

/-! ## System instructions (02:R99; 09:R371, R383, R384, R387) -/

/-- The system instructions use no operand: a non-zero RD, RA or RB is illegal. -/
def sysGuard (rd ra rb : Reg) (body : Core → Core × Ending) (k : Core) : Core × Ending :=
  if rd != 0#5 || ra != 0#5 || rb != 0#5 then (k, .trap .illegal 0#64) else body k

/-- FWCALL traps to Firmware; at Kernel it raises a privilege fault. -/
def execFwcall (c : CoreId) (rd ra rb : Reg) (s : State) : Res :=
  .next (s.coreInstr c 4 (sysGuard rd ra rb (fun k =>
    (k, .trap (if k.level == .kernel then .privilege else .fwcall) 0#64))))

/-- IFENCE discards the fetch window once the store buffer is empty (02:R117, R124). -/
def execIfence (c : CoreId) (rd ra rb : Reg) (s : State) : Res :=
  .next (s.coreInstr c 4 (sysGuard rd ra rb (fun k => ({ k.drain with stale := [] }, .retire 0#10))))

def execSbdrain (c : CoreId) (rd ra rb : Reg) (s : State) : Res :=
  .next (s.coreInstr c 4 (sysGuard rd ra rb (fun k => (k.drain, .retire 0#10))))

/-- BREAK raises its trap; in double-fault state it halts the core (09:R387). -/
def execBreak (c : CoreId) (rd ra rb : Reg) (s : State) : Res :=
  .next (s.coreInstr c 4 (sysGuard rd ra rb (fun k => (k, .trap .brk 0#64))))

/-- The frame at the current stack pointer: TRC, TRPC, TRV, TLVL (09:R381). -/
def Core.frame (k : Core) (i : Nat) : Word := BitVec.ofNat 64 (k.dmem.getLe ((k.sp k.level).toNat + 8 * i) 8)

/-- The word of TRC that holds: INT and CAUSE (02:R110). -/
def trcMask (w : Word) : Word := w &&& 0x80000000000000FF#64

/-- R384: the state after a TRET that passes its checks, but for the PC. -/
def Core.popFrame (k : Core) (lv : Level) : Core :=
  let l := k.level
  let tl := (k.frame 3).toNat
  let b := k.bank l
  let k' := k.setBank l { b with trc := trcMask (k.frame 0), trpc := k.frame 1, trv := k.frame 2 }
  let k' := k'.setSp l (k.sp l + 64#64)
  { k' with tlvl := { pie := bitN tl 5, ie := bitN tl 4, prev := BitVec.ofNat 2 (bitsN tl 2 2), cur := lv } }

/-- The lowest byte of a frame at `sp` that is not in DMEM below the DFSA (09:R371, R383). -/
def frameFail (sp : Word) : Word := if sp.toNat < dfsaBase then BitVec.ofNat 64 dfsaBase else sp

/-- R383, R384: TRET's checks in order, and its effect. -/
def Core.tret (k : Core) : Core × Ending :=
  let k := k.drain
  let sp := k.sp k.level
  let ret := (k.bank k.level).trpc
  if k.dfault then (k, .trap .illegal 0#64)
  else if sp.toNat % 16 != 0 then (k, .trap .align sp)
  else if !frameOk (sp + 64#64) then (k, .trap .bounds (frameFail sp))
  else match firstMark k.badDmem sp.toNat 32 with
    | some w => (k, .memerr .dmem w (BitVec.ofNat 64 w))
    | none =>
      match Level.ofNum ((k.frame 3).toNat % 4) with
      | none => (k, .trap .privilege 0#64)
      | some lv =>
        if !lv.le k.level then (k, .trap .privilege 0#64)
        else if ret.toNat % 4 != 0 || 0x100000 ≤ ret.toNat then (k, .trap .fetch ret)
        else (k.popFrame lv, .goto ret)

def execTret (c : CoreId) (rd ra rb : Reg) (s : State) : Res :=
  .next (s.coreInstr c 4 (sysGuard rd ra rb Core.tret))

end Sys2Proof.Machine
end

