-- ==== Sys2Proof/Machine/ControlRegs.lean ====
section
/-! DEFINITION. The control registers (02:R100 to R111, 04:R167, 04:R168, 09:R375, 09:R376, 14:R593): numbers, levels, reads, writes and
the waits of R106 and R107. -/

namespace Sys2Proof.Machine

/-- A control register. -/
inductive Csr where
  | coreId | pasid | cycle | stlIssue | stlSync | instret
  | trc (l : Level) | trpc (l : Level) | trv (l : Level) | tvb (l : Level)
  | tlvl | dfsa | vl | vgrp | vcur | fflags | fmode | mxlat | asc | seed (i : Fin 4) | spint
  deriving DecidableEq, Repr

/-- R101, R102: the register of a number, at the level that executes the access. -/
def csrOf (lv : Level) (n : Nat) : Option Csr :=
  match n with
  | 0x000 => some .coreId
  | 0x001 => some .pasid
  | 0x004 => some .cycle
  | 0x005 => some .stlIssue
  | 0x006 => some .stlSync
  | 0x007 => some .instret
  | 0x010 => some (.trc lv)
  | 0x011 => some (.trpc lv)
  | 0x012 => some (.trv lv)
  | 0x013 => some (.tvb lv)
  | 0x014 => some .tlvl
  | 0x018 => some (.trc .kernel)
  | 0x019 => some (.trpc .kernel)
  | 0x01A => some (.trv .kernel)
  | 0x01B => some (.tvb .kernel)
  | 0x01C => some (.trc .runtime)
  | 0x01D => some (.trpc .runtime)
  | 0x01E => some (.trv .runtime)
  | 0x01F => some (.tvb .runtime)
  | 0x020 => some .dfsa
  | 0x030 => some .vl
  | 0x031 => some .vgrp
  | 0x032 => some .vcur
  | 0x040 => some .fflags
  | 0x041 => some .fmode
  | 0x050 => some .mxlat
  | 0x060 => some .asc
  | 0x061 => some (.seed 0)
  | 0x062 => some (.seed 1)
  | 0x063 => some (.seed 2)
  | 0x064 => some (.seed 3)
  | 0x070 => some .spint
  | _ => none

/-- The lowest level that may read a number (R101). -/
def csrReadLevel (n : Nat) : Level :=
  if 0x018 ≤ n && n ≤ 0x01B then .runtime
  else if 0x01C ≤ n && n ≤ 0x01F then .firmware
  else if n == 0x020 then .runtime
  else .kernel

/-- The lowest level that may write a number; none where R101 says never. -/
def csrWriteLevel (n : Nat) : Option Level :=
  if n == 0x000 || n == 0x001 || n == 0x020 || n == 0x050 then none
  else if 0x004 ≤ n && n ≤ 0x007 then some .firmware
  else if n == 0x014 || (0x018 ≤ n && n ≤ 0x01B) then some .runtime
  else if 0x01C ≤ n && n ≤ 0x01F then some .firmware
  else if n == 0x060 then some .firmware
  else if 0x061 ≤ n && n ≤ 0x064 then some .runtime
  else if n == 0x070 then some .runtime
  else some .kernel

/-- What a control register shows of the device: the core's number, the device's identifier, the resident context, and
whether the array presents the repaired latency (02:R110, 06:R281). -/
structure CsrEnv where
  lcore    : Nat
  deviceId : BitVec 16
  pasid    : Nat
  rep      : Bool

def Core.csrRead (k : Core) (e : CsrEnv) : Csr → Word
  | .coreId => BitVec.ofNat 64 (e.lcore + 2 ^ 16 * e.deviceId.toNat)
  | .pasid => BitVec.ofNat 64 e.pasid
  | .cycle => k.cycle
  | .stlIssue => k.stlIssue
  | .stlSync => k.stlSync
  | .instret => k.instret
  | .trc l => (k.bank l).trc
  | .trpc l => (k.bank l).trpc
  | .trv l => (k.bank l).trv
  | .tvb l => BitVec.ofNat 64 ((k.bank l).base.toNat * 2048)
  | .tlvl => k.tlvl.word
  | .dfsa => 0x3FC00#64
  | .vl => k.vl.setWidth 64
  | .vgrp => BitVec.ofNat 64 (k.grp.toNat + 16 * k.ew.toNat)
  | .vcur => k.vcur.setWidth 64
  | .fflags => k.fflags.setWidth 64
  | .fmode => k.fmode.word
  | .mxlat => if e.rep then 0x107#64 else 6#64
  | .asc => k.asc
  | .seed i => (k.seed[i]).setWidth 64
  | .spint => k.spint.setWidth 64

/-- R376: what a write of BASE leaves in a bank's TVB. -/
def tvbWrite (l : Level) (old new : BitVec 9) : BitVec 9 :=
  match l with
  | .kernel => if 0x1E0 ≤ new.toNat then 0#9 else new
  | .runtime => new
  | .firmware => if new == 0#9 then old else new

/-- A write to a control register; reserved bits are discarded (R105, R110, R111, 04:R168). For FFLAGS the bits of
`v` are cleared. -/
def Core.csrWrite (k : Core) (v : Word) : Csr → Core
  | .coreId | .pasid | .dfsa | .mxlat => k
  | .cycle => { k with cycle := v }
  | .stlIssue => { k with stlIssue := v }
  | .stlSync => { k with stlSync := v }
  | .instret => { k with instret := v }
  | .trc l => k.setBank l { k.bank l with trc := trcMask v }
  | .trpc l => k.setBank l { k.bank l with trpc := v }
  | .trv l => k.setBank l { k.bank l with trv := v }
  | .tvb l => k.setBank l { k.bank l with base := tvbWrite l (k.bank l).base (BitVec.ofNat 9 (bitsN v.toNat 11 9)) }
  | .tlvl => { k with tlvl := { k.tlvl with pie := bitN v.toNat 5, ie := bitN v.toNat 4,
                                            prev := BitVec.ofNat 2 (bitsN v.toNat 2 2) } }
  | .vl => { k with vl := v.setWidth 18 }
  | .vgrp => { k with grp := v.setWidth 2,
                      ew := if bitsN v.toNat 4 3 ≤ 4 then BitVec.ofNat 3 (bitsN v.toNat 4 3) else k.ew }
  | .vcur => { k with vcur := v.setWidth 18 }
  | .fflags => { k with fflags := k.fflags &&& ~~~(v.setWidth 10) }
  | .fmode => { k with fmode := { ten := BitVec.ofNat 10 (bitsN v.toNat 12 10), pam := bitN v.toNat 4,
                                  rm := if bitsN v.toNat 0 3 ≤ 5 then BitVec.ofNat 3 (bitsN v.toNat 0 3)
                                        else k.fmode.rm } }
  | .asc => { k with asc := v }
  | .seed i => { k with seed := k.seed.set i (v.setWidth 32) }
  | .spint => { k with spint := v.setWidth 16 }

/-- R106, R107: whether a read waits for what is in flight. -/
def Core.csrReadWaits (k : Core) : Csr → Bool
  | .fflags => k.inFlight
  | .vl | .vgrp | .vcur => k.arun.isSome
  | _ => false

/-- R107: whether a write waits. -/
def Core.csrWriteWaits (k : Core) : Csr → Bool
  | .vl | .vgrp | .vcur | .fmode | .asc | .seed _ => k.inFlight
  | _ => false

/-- The four accesses of R100. -/
inductive CrOp where
  | read | write | set | clear
  deriving DecidableEq, Repr

/-- The value that an access writes (R100); for FFLAGS the bits to clear (R105). -/
def CrOp.value (o : CrOp) (r : Csr) (old ra : Word) : Word :=
  match o with
  | .read => old
  | .write => ra
  | .set => old ||| ra
  | .clear => if r = .fflags then ra else old &&& ~~~ra

/-- R103, R104: the trap an access raises before anything is read. -/
def crCheck (lv : Level) (o : CrOp) (n : Nat) : Option Cause :=
  if (csrOf lv n).isNone then some .illegal
  else if o = .read then
    if (csrReadLevel n).le lv then none else some .privilege
  else match csrWriteLevel n with
    | none => some .illegal
    | some w =>
      if o = .set && n == 0x040 then some .illegal
      else if (csrReadLevel n).le lv && w.le lv then none
      else some .privilege

/-- One control-register access. -/
def Core.crAccess (k : Core) (e : CsrEnv) (o : CrOp) (rd ra : Reg) (n : Nat) : Core × Ending :=
  if o = .read && ra != 0#5 then (k, .trap .illegal 0#64)
  else match crCheck k.level o n, csrOf k.level n with
  | some cause, _ => (k, .trap cause 0#64)
  | none, none => (k, .trap .illegal 0#64)
  | none, some r =>
    if k.csrReadWaits r || (o != .read && k.csrWriteWaits r) then (k, .wait false)
    else
      let old := k.csrRead e r
      let v := k.reg ra
      let k' := k.setReg rd old
      (if o = .read then k' else k'.csrWrite (o.value r old v) r, .retire 0#10)

/-- A spare row or column of an array is in use (06:R284). -/
def ArrayFix.used (f : ArrayFix) : Bool := f.row.isSome || f.col.isSome

/-- The unit of the 33 by 33 array that serves output (r, c): that of the spare row, of the spare column, or of both where they replace what
would serve it (06:R245, R282). Its results are the same (06:R283). -/
def ArrayFix.unit (f : ArrayFix) (r c : Fin 32) : Nat × Nat :=
  (if f.row = some r then 32 else r.val, if f.col = some c then 32 else c.val)

/-- The repair of the array that serves a logical core. -/
def State.arrayFix (s : State) (c : CoreId) : ArrayFix :=
  (s.rep.repaired[dieOf c]).toList.getD s.rep.map[c].pcore.toNat ArrayFix.none

/-- MXLAT.REP of a logical core: its array has a spare in use, or the image asks for the register everywhere (06:R284,
R285). -/
def State.arrayRep (s : State) (c : CoreId) : Bool :=
  (s.settings.map ImageSettings.uniformLat).getD false || ArrayFix.used (s.arrayFix c)

/-- What the device shows core `c` in its control registers. -/
def State.csrEnv (s : State) (c : CoreId) : CsrEnv :=
  { lcore := c.val, deviceId := s.deviceId, pasid := (s.pasidOf c).toNat, rep := s.arrayRep c }

def State.crInstr (s : State) (c : CoreId) (o : CrOp) (rd ra : Reg) (csr : BitVec 12) : State :=
  s.coreInstr c 4 (fun k => k.crAccess (s.csrEnv c) o rd ra csr.toNat)

def execCrr (c : CoreId) (rd ra : Reg) (csr : BitVec 12) (s : State) : Res := .next (s.crInstr c .read rd ra csr)
def execCrw (c : CoreId) (rd ra : Reg) (csr : BitVec 12) (s : State) : Res := .next (s.crInstr c .write rd ra csr)
def execCrset (c : CoreId) (rd ra : Reg) (csr : BitVec 12) (s : State) : Res := .next (s.crInstr c .set rd ra csr)
def execCrclr (c : CoreId) (rd ra : Reg) (csr : BitVec 12) (s : State) : Res := .next (s.crInstr c .clear rd ra csr)

end Sys2Proof.Machine
end

