-- ==== Sys2Proof/Machine/Crypto.lean ====
section
/-! DEFINITION. The fixed functions that the device computes over bytes: CRC-32 of IEEE 802.3 (17:R716), SHA-384 (17:R722, 19:R768) and ECDSA over
P-384 (17:R722, 19:R763), by FIPS 180-4 and FIPS 186-5. -/

namespace Sys2Proof.Machine

/-- A number is evaluated once, before what uses it. -/
def withNat {α : Type} (n : Nat) (f : Nat → α) : α := match n with
  | 0 => f 0
  | m + 1 => f (m + 1)

/-- A number from its bytes, most significant first. -/
def beNat (l : List Nat) : Nat := l.foldl (fun a b => 256 * a + b) 0

/-- The bytes of a number, most significant first. -/
def beBytes (n v : Nat) : List Byte := (List.range n).map (fun i => BitVec.ofNat 8 (v >>> (8 * (n - 1 - i))))

/-! ## CRC-32 -/

/-- The remainders of the sixteen values of four bits. -/
def crcTable : List Nat :=
  [0x00000000, 0x1DB71064, 0x3B6E20C8, 0x26D930AC, 0x76DC4190, 0x6B6B51F4, 0x4DB26158, 0x5005713C,
   0xEDB88320, 0xF00F9344, 0xD6D6A3E8, 0xCB61B38C, 0x9B64C2B0, 0x86D3D2D4, 0xA00AE278, 0xBDBDF21C]

/-- CRC-32 over the low `n` groups of four bits of a number, lowest first. -/
def crcSteps : Nat → Nat → Nat → Nat
  | 0, _, c => c
  | n + 1, v, c => withNat (crcTable.getD ((c ^^^ v) % 16) 0 ^^^ (c >>> 4)) fun c => crcSteps n (v >>> 4) c

/-- CRC-32 of `w` bits, as bytes by rising significance. -/
def crcOfBits {w : Nat} (v : BitVec w) : BitVec 32 := BitVec.ofNat 32 (crcSteps (w / 4) v.toNat 0xFFFFFFFF ^^^ 0xFFFFFFFF)

/-! ## SHA-384 -/

def w64 : Nat := 2 ^ 64

def rotr (n x : Nat) : Nat := (x >>> n) ||| ((x <<< (64 - n)) % w64)

/-- The round constants. -/
def shaK : List Nat :=
  [0x428a2f98d728ae22, 0x7137449123ef65cd, 0xb5c0fbcfec4d3b2f, 0xe9b5dba58189dbbc, 0x3956c25bf348b538, 0x59f111f1b605d019, 0x923f82a4af194f9b, 0xab1c5ed5da6d8118] ++
  [0xd807aa98a3030242, 0x12835b0145706fbe, 0x243185be4ee4b28c, 0x550c7dc3d5ffb4e2, 0x72be5d74f27b896f, 0x80deb1fe3b1696b1, 0x9bdc06a725c71235, 0xc19bf174cf692694] ++
  [0xe49b69c19ef14ad2, 0xefbe4786384f25e3, 0x0fc19dc68b8cd5b5, 0x240ca1cc77ac9c65, 0x2de92c6f592b0275, 0x4a7484aa6ea6e483, 0x5cb0a9dcbd41fbd4, 0x76f988da831153b5] ++
  [0x983e5152ee66dfab, 0xa831c66d2db43210, 0xb00327c898fb213f, 0xbf597fc7beef0ee4, 0xc6e00bf33da88fc2, 0xd5a79147930aa725, 0x06ca6351e003826f, 0x142929670a0e6e70] ++
  [0x27b70a8546d22ffc, 0x2e1b21385c26c926, 0x4d2c6dfc5ac42aed, 0x53380d139d95b3df, 0x650a73548baf63de, 0x766a0abb3c77b2a8, 0x81c2c92e47edaee6, 0x92722c851482353b] ++
  [0xa2bfe8a14cf10364, 0xa81a664bbc423001, 0xc24b8b70d0f89791, 0xc76c51a30654be30, 0xd192e819d6ef5218, 0xd69906245565a910, 0xf40e35855771202a, 0x106aa07032bbd1b8] ++
  [0x19a4c116b8d2d0c8, 0x1e376c085141ab53, 0x2748774cdf8eeb99, 0x34b0bcb5e19b48a8, 0x391c0cb3c5c95a63, 0x4ed8aa4ae3418acb, 0x5b9cca4f7763e373, 0x682e6ff3d6b2b8a3] ++
  [0x748f82ee5defb2fc, 0x78a5636f43172f60, 0x84c87814a1f0ab72, 0x8cc702081a6439ec, 0x90befffa23631e28, 0xa4506cebde82bde9, 0xbef9a3f7b2c67915, 0xc67178f2e372532b] ++
  [0xca273eceea26619c, 0xd186b8c721c0c207, 0xeada7dd6cde0eb1e, 0xf57d4f7fee6ed178, 0x06f067aa72176fba, 0x0a637dc5a2c898a6, 0x113f9804bef90dae, 0x1b710b35131c471b] ++
  [0x28db77f523047d84, 0x32caab7b40c72493, 0x3c9ebe0a15c9bebc, 0x431d67c49c100d4c, 0x4cc5d4becb3e42b6, 0x597f299cfc657e2a, 0x5fcb6fab3ad6faec, 0x6c44198c4a475817]

/-- The initial hash value. -/
def shaInit : List Nat :=
  [0xcbbb9d5dc1059ed8, 0x629a292a367cd507, 0x9159015a3070dd17, 0x152fecd8f70e5939, 0x67332667ffc00b31, 0x8eb44a8768581511, 0xdb0c2e0d64f98fa7, 0x47b5481dbefa4fa4]

/-- The message with its padding: a one bit, zeros, and the length in bits over sixteen bytes. -/
def shaPad (m : List Nat) : List Nat :=
  m ++ [0x80] ++ List.replicate ((239 - m.length % 128) % 128) 0 ++ (List.range 16).map (fun i => (8 * m.length) >>> (8 * (15 - i)) % 256)

/-- The first `n` words of eight bytes. -/
def beWords : Nat → List Nat → List Nat
  | 0, _ => []
  | n + 1, l => withNat (beNat (l.take 8)) fun w => w :: beWords n (l.drop 8)

/-- `n` further words of the message schedule, newest first. -/
def shaSchedule : Nat → List Nat → List Nat
  | 0, w => w
  | n + 1, w =>
    let s0 (x : Nat) := (rotr 1 x ^^^ rotr 8 x) ^^^ (x >>> 7)
    let s1 (x : Nat) := (rotr 19 x ^^^ rotr 61 x) ^^^ (x >>> 6)
    withNat ((s1 (w.getD 1 0) + w.getD 6 0 + s0 (w.getD 14 0) + w.getD 15 0) % w64) fun x => shaSchedule n (x :: w)

def shaRounds : List (Nat × Nat) → Nat → Nat → Nat → Nat → Nat → Nat → Nat → Nat → List Nat
  | [], a, b, c, d, e, f, g, h => [a, b, c, d, e, f, g, h]
  | (k, w) :: l, a, b, c, d, e, f, g, h =>
    withNat (h + ((rotr 14 e ^^^ rotr 18 e) ^^^ rotr 41 e) + ((e &&& f) ^^^ ((w64 - 1 - e) &&& g)) + k + w) fun t =>
    withNat ((d + t) % w64) fun e' =>
    withNat ((t + ((rotr 28 a ^^^ rotr 34 a) ^^^ rotr 39 a) + (((a &&& b) ^^^ (a &&& c)) ^^^ (b &&& c))) % w64) fun a' =>
    shaRounds l a' a b c e' e f g

/-- One block of sixteen words. -/
def shaBlock (h w : List Nat) : List Nat :=
  let r := match h with
    | [a, b, c, d, e, f, g, h] => shaRounds (shaK.zip (shaSchedule 64 w.reverse).reverse) a b c d e f g h
    | _ => []
  (h.zip r).foldr (fun x l => withNat ((x.1 + x.2) % w64) fun y => y :: l) []

def shaBlocks : Nat → List Nat → List Nat → List Nat
  | 0, h, _ => h
  | n + 1, h, w => shaBlocks n (shaBlock h (w.take 16)) (w.drop 16)

/-- SHA-384 of a message, as a number with the first byte most significant. -/
def sha384 (m : List Byte) : BitVec 384 :=
  let p := shaPad (m.map BitVec.toNat)
  BitVec.ofNat 384 (((shaBlocks (p.length / 128) shaInit (beWords (p.length / 8) p)).take 6).foldl (fun a w => w64 * a + w) 0)

/-! ## ECDSA over P-384 -/

/-- The field's prime. -/
def p384 : Nat := 2 ^ 384 - 2 ^ 128 - 2 ^ 96 + 2 ^ 32 - 1

/-- The order of the base point. -/
def p384N : Nat := 0xffffffffffffffffffffffffffffffffffffffffffffffffc7634d81f4372ddf581a0db248b0a77aecec196accc52973

def p384B : Nat := 0xb3312fa7e23ee7e4988e056be3f82d19181d9c6efe8141120314088f5013875ac656398d8a2ed19d2a85c8edd3ec2aef

/-- A point in Jacobian coordinates; `z` is 0 at infinity. -/
structure Jac where
  x : Nat
  y : Nat
  z : Nat
  deriving DecidableEq, Repr

def p384G : Jac :=
  ⟨0xaa87ca22be8b05378eb1c71ef320ad746e1d3b628ba79b9859f741e082542a385502f25dbf55296c3a545e3872760ab7,
   0x3617de4a96262c6f5d9e98bf9292dc29f8f41dbd289a147ce9da3113b5f0b8c00a60b1ce1d7e819d7a431d7c90ea0e5f, 1⟩

def Jac.infinity : Jac := ⟨1, 1, 0⟩

/-- A point from numbers that are yet to be reduced. -/
def Jac.ofNats (x y z : Nat) : Jac := withNat (x % p384) fun x => withNat (y % p384) fun y => withNat (z % p384) fun z => ⟨x, y, z⟩

/-- 2 P. -/
def Jac.double (p : Jac) : Jac :=
  withNat (p.z * p.z % p384) fun d => withNat (p.y * p.y % p384) fun g => withNat (p.x * g % p384) fun b =>
  withNat (3 * (p.x + p384 - d) * (p.x + d) % p384) fun a => withNat ((a * a + 8 * (p384 - b)) % p384) fun x =>
  Jac.ofNats x (a * (4 * b + p384 - x) + 8 * (p384 - g * g % p384)) (2 * p.y * p.z)

/-- P + Q. -/
def Jac.add (p q : Jac) : Jac :=
  if p.z == 0 then q else if q.z == 0 then p else
  withNat (p.z * p.z % p384) fun z1 => withNat (q.z * q.z % p384) fun z2 =>
  withNat (p.x * z2 % p384) fun u1 => withNat (q.x * z1 % p384) fun u2 =>
  withNat (p.y * q.z * z2 % p384) fun s1 => withNat (q.y * p.z * z1 % p384) fun s2 =>
  withNat ((u2 + p384 - u1) % p384) fun h => withNat ((s2 + p384 - s1) % p384) fun r =>
  if h == 0 then (if r == 0 then p.double else Jac.infinity) else
  withNat (h * h % p384) fun h2 => withNat (h * h2 % p384) fun h3 => withNat (u1 * h2 % p384) fun v =>
  withNat ((r * r + (p384 - h3) + 2 * (p384 - v)) % p384) fun x =>
  Jac.ofNats x (r * (v + p384 - x) + (p384 - s1 * h3 % p384)) (p.z * q.z % p384 * h)

/-- The low bits of a number, most significant first. -/
def bitsOf : Nat → Nat → List Bool
  | 0, _ => []
  | n + 1, v => v.testBit n :: bitsOf n v

/-- `a` times a power of `b`, by the bits of the exponent. -/
def powMod (m b : Nat) : List Bool → Nat → Nat
  | [], a => a
  | t :: l, a => withNat (if t then a * a % m * b % m else a * a % m) fun a => powMod m b l a

/-- The inverse modulo a prime. -/
def invMod (m v : Nat) : Nat := powMod m v (bitsOf 384 (m - 2)) 1

/-- u P + v Q by the bits of u and v, with P + Q given. -/
def Jac.twice (p q pq : Jac) : List Bool → List Bool → Jac → Jac
  | s :: l, t :: k, a =>
    match a.double with
    | ⟨x, y, z⟩ =>
      let a : Jac := ⟨x, y, z⟩
      match (if s then (if t then a.add pq else a.add p) else if t then a.add q else a) with
      | ⟨x, y, z⟩ => Jac.twice p q pq l k ⟨x, y, z⟩
  | _, _, a => a

/-- u P + v Q. -/
def Jac.sum (u : Nat) (p : Jac) (v : Nat) (q : Jac) : Jac :=
  match p.add q with
  | ⟨x, y, z⟩ => Jac.twice p q ⟨x, y, z⟩ (bitsOf 384 u) (bitsOf 384 v) Jac.infinity

/-- A point's two coordinates. -/
def Jac.affine (p : Jac) : Nat × Nat :=
  withNat (invMod p384 p.z) fun i => withNat (i * i % p384) fun i2 => (p.x * i2 % p384, p.y * i2 % p384 * i % p384)

/-- A public key: X, then Y, each over 48 bytes. -/
abbrev PubKey := BitVec 768

def PubKey.ofPoint (p : Nat × Nat) : PubKey := BitVec.ofNat 768 (p.1 * 2 ^ 384 + p.2)

/-- The public key of a private scalar. -/
def publicKey (d : Nat) : PubKey := PubKey.ofPoint (Jac.sum d p384G 0 p384G).affine

/-- SHA-384 of a public key, X followed by Y. -/
def pubKeyHash (k : PubKey) : BitVec 384 := sha384 (beBytes 96 k.toNat)

/-- A signature: r, then s. -/
abbrev Signature := BitVec 768

/-- ECDSA verification of a signature over a digest. -/
def ecdsaOk (k : PubKey) (sig : Signature) (digest : BitVec 384) : Bool :=
  let x := k.toNat / 2 ^ 384
  let y := k.toNat % 2 ^ 384
  let r := sig.toNat / 2 ^ 384
  let s := sig.toNat % 2 ^ 384
  x < p384 && y < p384 && (y * y) % p384 == (x * x * x + 3 * (p384 - x) + p384B) % p384 && 0 < r && r < p384N && 0 < s && s < p384N &&
  (withNat (invMod p384N s) fun w => withNat (digest.toNat * w % p384N) fun u => withNat (r * w % p384N) fun v =>
    match Jac.sum u p384G v ⟨x, y, 1⟩ with
    | ⟨x, _, z⟩ => z != 0 && (r * (z * z) % p384 == x || (r + p384N < p384 && (r + p384N) * (z * z) % p384 == x)))

/-- An ECDSA signature by the scalar `d` with the number `k`. -/
def ecdsaSign (d k : Nat) (digest : BitVec 384) : Signature :=
  let r := (Jac.sum k p384G 0 p384G).affine.1 % p384N
  let s := invMod p384N k * (digest.toNat + r * d) % p384N
  BitVec.ofNat 768 (r * 2 ^ 384 + s)

end Sys2Proof.Machine
end

