-- ==== Sys2Proof/Machine/Approx.lean ====
section
/-! DEFINITION. The approximated functions of the device (05:R223 to R226, 07:R327, 08:R358): each true value to far more bits
than any format holds, the manual's bound around it, and inside the bound a value that the manual leaves open.
A fixed-point number stands for itself divided by 2^256. -/

namespace Sys2Proof.Machine

/-- Fraction bits of the fixed-point numbers here. -/
def fxP : Nat := 256

/-- ln 2, 1 / ln 2, π and √(2/π) in fixed point. -/
def fxLn2 : Int := 0xb17217f7d1cf79abc9e3b39803f2f6af40f343267298b62d8a0d175b8baafa2b
def fxInvLn2 : Int := 0x171547652b82fe1777d0ffda0d23a7d11d6aef551bad2b4b1164a2cd9a342648f
def fxPi : Int := 0x3243f6a8885a308d313198a2e03707344a4093822299f31d0082efa98ec4e6c89
def fxSqrt2Pi : Int := 0xcc42299ea1b284687e59e2805d5c717fa7053e60a24e0db1808e369004c73a5d

/-- A finite value in fixed point, rounded down. -/
def fxOf (neg : Bool) (m : Nat) (e : Int) : Int :=
  let k := e + fxP
  let v : Int := if 0 ≤ k then m * 2 ^ k.toNat else m / 2 ^ (-k).toNat
  if neg then -v else v

def fxMul (a b : Int) : Int := a * b / 2 ^ fxP

/-- Σ x^j / j! from the term `t = x^(j-1)/(j-1)!` on, `n` more terms. -/
def expSeries (x : Int) : Nat → Nat → Int → Int
  | 0, _, _ => 0
  | n + 1, j, t => t + expSeries x n (j + 1) (fxMul t x / j)

/-- e^r for r in [0, ln 2]. -/
def fxExp (r : Int) : Int := expSeries r 60 1 (2 ^ fxP)

/-- Σ z^(2j+1) / (2j+1), `n` terms from the power `p = z^(2j+1)`. -/
def atanhSeries (z2 : Int) : Nat → Nat → Int → Int
  | 0, _, _ => 0
  | n + 1, k, p => p / k + atanhSeries z2 n (k + 2) (fxMul p z2)

/-- ln m for m in [1, 2). -/
def fxLn1 (m : Int) : Int :=
  let z := (m - 2 ^ fxP) * 2 ^ fxP / (m + 2 ^ fxP)
  2 * atanhSeries (fxMul z z) 90 1 z

/-- Σ (−1)^j t^(2j+1) / (2j+1)!, `n` terms from the term `p`. -/
def sinSeries (t2 : Int) : Nat → Nat → Int → Int
  | 0, _, _ => 0
  | n + 1, k, p => p + sinSeries t2 n (k + 2) (-(fxMul p t2) / ((k + 1) * (k + 2)))

/-- sin(π s) for s in [0, 1/2]. -/
def fxSinPi (s : Int) : Int :=
  let t := fxMul fxPi s
  sinSeries (fxMul t t) 45 1 t

/-- A positive value m × 2^e with a wide mantissa. -/
abbrev Big := Nat × Int

def Big.num (neg : Bool) (b : Big) : Num := .fin neg b.1 b.2

/-- e^x of a fixed-point x, with relative precision. -/
def bigExp (x : Int) : Big :=
  let n := x * fxInvLn2 / 2 ^ (2 * fxP)
  let r := x - n * fxLn2
  ((fxExp r).toNat, n - fxP)

/-- 2^x of a fixed-point x. -/
def bigExp2 (x : Int) : Big :=
  let n := x / 2 ^ fxP
  ((fxExp (fxMul (x % 2 ^ fxP) fxLn2)).toNat, n - fxP)

/-- Whether a value is so large that only its sign matters here. -/
def huge (m : Nat) (e : Int) : Bool := decide ((20 : Int) < m.log2 + e)

/-- e^x and 2^x of a finite value; beyond 2^20 the exponent is far out of every format's range, and where x is not 0 but below every
fixed-point number, the value is the next one to 1 on its side of it. -/
def expNum (two neg : Bool) (m : Nat) (e : Int) : Big :=
  let x := fxOf neg m e
  if m != 0 && huge m e then (1, if neg then -4194304 else 4194304)
  else if m != 0 && x == 0 then (if neg then 2 ^ fxP - 1 else 2 ^ fxP + 1, -(fxP : Int))
  else if two then bigExp2 x else bigExp x

/-- ln x of a positive finite value, in fixed point. -/
def lnNum (m : Nat) (e : Int) : Int :=
  let l := m.log2
  let f : Int := if l ≤ fxP then m * 2 ^ (fxP - l) else m / 2 ^ (l - fxP)
  fxLn1 f + (e + l) * fxLn2

/-- A fixed-point value as a number. -/
def fxNum (x : Int) : Num := Num.ofInt x (-(fxP : Int)) false

/-- x × s for a fixed-point s in (0, 1]. -/
def bigScale (b : Big) (s : Int) : Big := (b.1 * s.toNat, b.2 - fxP)

/-- 1 / (1 + e^−x) with relative precision; below 1 for every x. -/
def sigmNum (neg : Bool) (m : Nat) (e : Int) : Big :=
  let one : Int := 2 ^ fxP
  let v := expNum false true m e
  let vf := fxOf false v.1 v.2
  let w := min (one * one / (one + vf)) (one - 1)
  if neg then bigScale v w else (w.toNat, -(fxP : Int))

/-- tanh of a positive finite value; below 1 for every x. -/
def tanhNum (m : Nat) (e : Int) : Num :=
  if (m.log2 : Int) + e < -30 then
    let big := m * 2 ^ 400
    let cut := if -600 < e then max 1 ((m * m * big) * 2 ^ 1200 / 2 ^ (1200 - 2 * e).toNat / 3) else 1
    .fin false (big - cut) (e - 400)
  else
    let one : Int := 2 ^ fxP
    let v := expNum false true (2 * m) e
    let vf := fxOf false v.1 v.2
    fxNum (min ((one - vf) * one / (one + vf)) (one - 1))

/-! ### Log-sum-exp (08:R358)

Its true value may lie as near 0 as the least FP64 number, so that it is found with many more fraction bits. -/

/-- Fraction bits of the numbers here. -/
def lseP : Nat := 1280

/-- Σ r^j / j!, as `expSeries`. -/
def lseExpSeries (r : Int) : Nat → Nat → Int → Int
  | 0, _, _ => 0
  | n + 1, j, t => t + lseExpSeries r n (j + 1) (t * r / 2 ^ lseP / j)

/-- Σ z^(2j+1) / (2j+1), as `atanhSeries`. -/
def lseAtanhSeries (z2 : Int) : Nat → Nat → Int → Int
  | 0, _, _ => 0
  | n + 1, k, p => p / k + lseAtanhSeries z2 n (k + 2) (p * z2 / 2 ^ lseP)

/-- 2 atanh z for z in [0, 1/3]. -/
def lseLn1 (z : Int) : Int := 2 * lseAtanhSeries (z * z / 2 ^ lseP) 440 1 z

/-- ln 2. -/
def lseLn2 : Int := lseLn1 (2 ^ lseP / 3)

/-- e^−x of a finite x ≥ 0; far below every number of a format it is 0. -/
def lseExp (m : Nat) (e : Int) : Int :=
  if m != 0 && (12 : Int) ≤ m.log2 + e then 0
  else
    let k := e + lseP
    let x : Int := if 0 ≤ k then m * 2 ^ k.toNat else m / 2 ^ (-k).toNat
    let n := x / lseLn2 + 1
    lseExpSeries (n * lseLn2 - x) 260 1 (2 ^ lseP) / 2 ^ n.toNat

/-- ln s of a number of at least 1. -/
def lseLn (s : Nat) : Int :=
  let l := s.log2
  let one : Int := 2 ^ lseP
  let f : Int := (s * 2 ^ lseP / 2 ^ l : Nat)
  lseLn1 ((f - one) * one / (f + one)) + ((l : Int) - lseP) * lseLn2

/-- m + ln Σ e^(x − m) of finite values x, the largest of them m. -/
def lseNum (m : Num) (xs : List Num) : Num :=
  let sum : Nat := (xs.map (fun x => match (Num.add false m x.neg).1 with
    | .fin _ 0 _ => 2 ^ lseP
    | .fin _ (a + 1) e => (lseExp (a + 1) e).toNat
    | _ => 0)).foldl (· + ·) 0
  (Num.add false m (Num.ofInt (lseLn sum) (-(lseP : Int)) false)).1

/-- x mod 2 of a finite value, in fixed point. -/
def fxMod2 (neg : Bool) (m : Nat) (e : Int) : Int :=
  let two : Int := 2 ^ (fxP + 1)
  let r : Int := if 1 ≤ e then 0 else fxOf false (m % 2 ^ (1 - e).toNat) e
  if neg then (two - r) % two else r

/-- sin(π x) of a fixed-point x in [0, 2). -/
def fxSinOf (r : Int) : Int :=
  let one : Int := 2 ^ fxP
  let q := r % one
  let s := fxSinPi (min q (one - q))
  if one ≤ r then -s else s

/-- sin(π x); below 2^−100 it is π x to far more bits than any format holds. -/
def sinPiNum (neg : Bool) (m : Nat) (e : Int) : Num :=
  if (m.log2 : Int) + e < -100 then .fin neg (m * fxPi.toNat) (e - fxP) else fxNum (fxSinOf (fxMod2 neg m e))

/-- The approximated operations, numbered as their OPC minus 0x20 (05:R221). -/
inductive Apx where
  | exp2 | log2 | exp | log | rcp | rsqrt | tanh | sigm | sinpi | cospi
  deriving DecidableEq, Repr

/-- The true value of an operation on a finite non-zero operand for which R223 gives a bound. -/
def Apx.value (o : Apx) (neg : Bool) (m : Nat) (e : Int) : Num :=
  match o with
  | .exp2 => (expNum true neg m e).num false
  | .exp => (expNum false neg m e).num false
  | .log2 => fxNum (fxMul (lnNum m e) fxInvLn2)
  | .log => fxNum (lnNum m e)
  | .rcp => (Num.div (.fin false 1 0) (.fin neg m e)).1
  | .rsqrt => (Num.sqrt (Num.div (.fin false 1 0) (.fin false m e)).1).1
  | .tanh => if neg then (tanhNum m e).neg else tanhNum m e
  | .sigm => (sigmNum neg m e).num false
  | .sinpi => sinPiNum neg m e
  | .cospi => fxNum (fxSinOf ((fxMod2 neg m e + 2 ^ (fxP - 1)) % 2 ^ (fxP + 1)))

/-- The spacing of a format at a value, as the exponent of a power of two. -/
def FFmt.ulpExp (f : FFmt) : Num → Int
  | .fin _ 0 _ => f.emin - f.mb
  | .fin _ m e => f.quantum m e
  | _ => 0

/-- A finite value `x` lies within `n × 2^k` of `t`. -/
def within (x t : Num) (n : Nat) (k : Int) : Bool :=
  match x with
  | .fin _ _ _ => Num.cmp (Num.add false x t.neg).1.abs (.fin false n k) != .gt
  | _ => false

/-- A bound: a number of ulps, and an absolute part as a power of two; the larger of the two holds. -/
structure Bound where
  ulps : Nat
  abs  : Option Int
  deriving DecidableEq, Repr

def Bound.holds (b : Bound) (f : FFmt) (x t : Num) : Bool :=
  within x t b.ulps (f.ulpExp t) || (match b.abs with
    | some k => within x t 1 k
    | none => false)

/-- A value inside the bound: the device's own where it is one (R223, R224), and the nearest to the true value where
the open value would break the bound.  A true value that rounds beyond the largest finite one is infinite. -/
def boundedCode (f : FFmt) (b : Bound) (t : Num) (cand : Nat) : Nat :=
  let n := (f.round .rne 0 t).1
  if (f.decode n).isInf then n
  else
    let c := cand % 2 ^ f.width
    if b.holds f (f.decode c) t then c else n

/-- The flags of an approximated result (R226). -/
def apxFlags (f : FFmt) (t : Num) : Flags :=
  match t with
  | .fin neg (m + 1) e =>
    if (f.decode (f.round .rne 0 t).1).isInf then fOF ||| fNX
    else fNX ||| flagIf (f.tiny .rne 0 neg (m + 1) e) fUF
  | _ => fNX

/-- The absolute bound 2^−24 or 2^−53 (R223). -/
def apxAbs (f : FFmt) : Int := if f.mb == 23 then -24 else -53

/-- The operand lies in [0.75, 1.5]. -/
def nearOne (x : Num) : Bool :=
  Num.cmp x (.fin false 3 (-2)) != .lt && Num.cmp x (.fin false 3 (-1)) != .gt

/-- R223: the bound of an operation at an operand. -/
def Apx.bound (o : Apx) (f : FFmt) (x : Num) : Bound :=
  match o with
  | .exp2 | .rcp | .rsqrt => ⟨1, none⟩
  | .exp | .tanh | .sigm => ⟨2, none⟩
  | .log2 => if nearOne x then ⟨0, some (apxAbs f)⟩ else ⟨1, none⟩
  | .log => if nearOne x then ⟨0, some (apxAbs f)⟩ else ⟨2, none⟩
  | .sinpi | .cospi => ⟨0, some (apxAbs f)⟩

/-- The power of two that a positive magnitude is, if it is one. -/
def pow2Of (m : Nat) (e : Int) : Option Int := if m == 2 ^ m.log2 then some (m.log2 + e) else none

/-- An integer value of a finite operand. -/
def intOf (neg : Bool) (m : Nat) (e : Int) : Option Int :=
  if exactAt m e 0 then some (Num.toInt .rtz 0 neg m e) else none

/-- A value that the format holds exactly. -/
def exactCode (f : FFmt) (x : Num) : Option Nat :=
  let (c, fl) := f.round .rne 0 x
  if fl == 0#10 then some c else none

def oneHalf : Num := .fin false 1 (-1)
def numOne (neg : Bool) : Num := .fin neg 1 0
def numZero (neg : Bool) : Num := .fin neg 0 0

/-- The exact cases of R223 for a finite operand, zeros included. -/
def Apx.exact (o : Apx) (neg : Bool) (m : Nat) (e : Int) : Option Num :=
  match o with
  | .exp2 => (intOf neg m e).bind (fun k => if k.natAbs < 4096 then some (.fin false 1 k) else none)
  | .exp => if m == 0 then some (numOne false) else none
  | .log2 => if neg || m == 0 then none else (pow2Of m e).map (fun k => Num.ofInt k 0 false)
  | .log => if !neg && m != 0 && pow2Of m e == some 0 then some (numZero false) else none
  | .rcp => if m == 0 then none else (pow2Of m e).map (fun k => .fin neg 1 (-k))
  | .rsqrt => if neg || m == 0 then none else (pow2Of m e).bind (fun k => if k % 2 == 0 then some (.fin false 1 (-k / 2)) else none)
  | .tanh => if m == 0 then some (numZero neg) else none
  | .sigm => if m == 0 then some oneHalf else none
  | .sinpi =>
    if m == 0 then some (numZero neg)
    else if exactAt m e 0 then some (numZero neg)
    else if exactAt m (e + 1) 0 then some (fxNum (fxSinOf (fxMod2 neg m e)) |> fun t => numOne t.negative)
    else none
  | .cospi =>
    if exactAt m e 0 then some (numOne (exactAt m e 0 && !exactAt m e 1))
    else if exactAt m (e + 1) 0 then some (numZero false)
    else none

/-- R225: the special operands. -/
def Apx.special (o : Apx) : Num → Option (Num × Flags)
  | .nan s => some (.nan false, flagIf s fNV)
  | .inf neg =>
    match o with
    | .exp2 | .exp => some (if neg then numZero false else .inf false, 0#10)
    | .log2 | .log => some (if neg then (.nan false, fNV) else (.inf false, 0#10))
    | .rcp => some (numZero neg, 0#10)
    | .rsqrt => some (if neg then (.nan false, fNV) else (numZero false, 0#10))
    | .tanh => some (numOne neg, 0#10)
    | .sigm => some (if neg then numZero false else numOne false, 0#10)
    | .sinpi | .cospi => some (.nan false, fNV)
  | .fin neg 0 _ =>
    match o with
    | .log2 | .log => some (.inf true, fDZ)
    | .rcp => some (.inf neg, fDZ)
    | .rsqrt => some (.inf neg, fDZ)
    | _ => none
  | .fin neg (_ + 1) _ =>
    match o with
    | .log2 | .log | .rsqrt => if neg then some (.nan false, fNV) else none
    | _ => none

def Apx.num : Apx → Nat
  | .exp2 => 0
  | .log2 => 1
  | .exp => 2
  | .log => 3
  | .rcp => 4
  | .rsqrt => 5
  | .tanh => 6
  | .sigm => 7
  | .sinpi => 8
  | .cospi => 9

/-- An approximated operation on a code of FP32 or FP64 (R223 to R226). -/
def Apx.run (o : Apx) (f : FFmt) (a : Nat) : Nat × Flags :=
  let x := f.decode a
  match o.special x, x with
  | some (v, fl), _ => ((f.round .rne 0 v).1, fl)
  | none, .fin neg m e =>
    match (o.exact neg m e).bind (exactCode f) with
    | some c => (c, 0#10)
    | none =>
      let t := match o.exact neg m e with
        | some v => v
        | none => o.value neg m e
      (boundedCode f (o.bound f x) t (Config.approx o.num f.mb a 0), apxFlags f t)
  | none, _ => (f.nanCode, 0#10)

/-! ## GELU and SiLU (07:R327) -/

/-- The true value of GELU (tanh form) or SiLU at a finite non-zero p. -/
def actValue (gelu neg : Bool) (m : Nat) (e : Int) : Num :=
  let s :=
    if !gelu then sigmNum neg m e
    else if huge m e then sigmNum neg m e
    else
      let p := fxOf false m e
      let y := fxMul (2 * fxSqrt2Pi) (p + fxMul (fxMul p p) p * 44715 / 1000000)
      sigmNum neg y.toNat (-(fxP : Int))
  .fin neg (m * s.1) (e + s.2)

/-- GELU or SiLU of a code of the evaluation precision `f`, before rounding to the output format. -/
def actRun (gelu : Bool) (f : FFmt) (a : Nat) : Nat × Flags :=
  match f.decode a with
  | .nan s => (f.nanCode, flagIf s fNV)
  | .inf neg => (if neg then f.signed true 0 else f.infCode, 0#10)
  | .fin _ 0 _ => (a, 0#10)
  | .fin neg (m + 1) e =>
    let t := actValue gelu neg (m + 1) e
    let k : Int := if f.mb == 23 then -32 else -64
    (boundedCode f ⟨2, some k⟩ t (Config.approx (if gelu then 16 else 17) f.mb a 0), fNX)

end Sys2Proof.Machine
end

