-- ==== Sys2Proof/Machine/Philox.lean ====
section
/-! DEFINITION. The random values of the device: Philox-4×32-10 keyed and countered by R594 of spec/14. -/

namespace Sys2Proof.Machine

/-- One round of Philox-4×32: multipliers 0xD251_1F53 and 0xCD9E_8D57. -/
def philoxRound (x : Nat × Nat × Nat × Nat) (k0 k1 : Nat) : Nat × Nat × Nat × Nat :=
  let (c0, c1, c2, c3) := x
  let p0 := 0xD2511F53 * c0
  let p1 := 0xCD9E8D57 * c2
  ((p1 / 2 ^ 32) ^^^ c1 ^^^ k0, p1 % 2 ^ 32, (p0 / 2 ^ 32) ^^^ c3 ^^^ k1, p0 % 2 ^ 32)

/-- `n` rounds, the key raised by the increments after each. -/
def philoxRounds : Nat → Nat × Nat × Nat × Nat → Nat → Nat → Nat × Nat × Nat × Nat
  | 0, x, _, _ => x
  | n + 1, x, k0, k1 =>
    philoxRounds n (philoxRound x k0 k1) ((k0 + 0x9E3779B9) % 2 ^ 32) ((k1 + 0xBB67AE85) % 2 ^ 32)

/-- R594: the call of logical core `lc`, stream `st`, element field `e`. -/
def Core.philox (k : Core) (lc st e : Nat) : Nat × Nat × Nat × Nat :=
  let ctr1 := (st * 2 ^ 24 + lc) ^^^ k.seed[2].toNat
  let ctr2 := (k.asc.toNat % 2 ^ 32) ^^^ k.seed[3].toNat
  philoxRounds 10 (e % 2 ^ 32, ctr1 % 2 ^ 32, ctr2, k.asc.toNat / 2 ^ 32) k.seed[0].toNat k.seed[1].toNat

/-- rnd24 of R594. -/
def Core.rnd24 (k : Core) (lc st e : Nat) : Nat := (k.philox lc st e).1 % 2 ^ 24

/-- draw64 of R594. -/
def Core.draw64 (k : Core) (lc st e : Nat) : Nat :=
  let (r0, r1, _, _) := k.philox lc st e
  r1 * 2 ^ 32 + r0

end Sys2Proof.Machine
end

