-- ==== Sys2Proof/Machine/Vector.lean ====
section
/-! DEFINITION. The vector engine (spec/04): operand checks of R170 to R175, masked element-wise execution, fixed point,
conversions, memory access with precise element faults, permutation, mask operations.  Each instruction's effect takes
the end `hi` of the elements it processes: none for the whole instruction, or the first element of the first strip not
started when an interrupt stops it (R205). -/

namespace Sys2Proof.Machine

/-! ## Checks (R169 to R175) -/

/-- The registers that an operand of width `w` occupies (R169). -/
def Core.vregsOf (k : Core) (w : Nat) : Nat := max 1 ((k.vl.toNat * w + 65535) / 65536)

/-- R170 for one operand width: whole strips, 6-bit widths excepted. -/
def Core.wholeStrips (k : Core) (w : Nat) : Bool := w == 6 || k.vl.toNat * w % 8192 == 0

/-- R170, R171 for one operand: whole strips, at most G registers, the first a multiple of their number, none past
v31. -/
def Core.operandOk (k : Core) (r : Reg) (w : Nat) : Bool :=
  k.wholeStrips w && k.vregsOf w ≤ k.group && r.toNat % k.vregsOf w == 0 && r.toNat + k.vregsOf w ≤ 32

/-- The third condition of R170. -/
def Core.maskLenOk (k : Core) (uses : Bool) : Bool := !uses || k.vl.toNat ≤ 65536

/-- Two register groups share no register. -/
def Core.disjoint (k : Core) (r : Reg) (w : Nat) (q : Reg) (v : Nat) : Bool :=
  r.toNat + k.vregsOf w ≤ q.toNat || q.toNat + k.vregsOf v ≤ r.toNat

/-- R172, same width: the source is the destination group or shares nothing with it. -/
def Core.sameOrDisjoint (k : Core) (d : Reg) (s : Reg) (w : Nat) : Bool := d == s || k.disjoint d w s w

/-- R173: MK must be 0 when M is 0. -/
def maskFieldOk (f : VFields) : Bool := f.m || f.mkr == 0#3

/-- A field that names a mask register holds 0 to 7 (R176). -/
def isMaskReg (r : Reg) : Bool := r.toNat < 8

def maskOf (r : Reg) : BitVec 3 := r.setWidth 3

/-- Element `i` is processed: from VCUR up to the end, and active (R173, R203). -/
def Core.isActive (k : Core) (f : VFields) (hi i : Nat) : Bool :=
  k.vcur.toNat ≤ i && i < hi && (!f.m || (k.mask f.mkr).getLsbD i)

/-- The end of the elements processed. -/
def Core.vend (k : Core) (hi : Option Nat) : Nat := match hi with
  | some h => min h k.vl.toNat
  | none => k.vl.toNat

/-- VCUR after the instruction: 0 when it completes, the first element not started when it is interrupted. -/
def Core.setCur (k : Core) (hi : Option Nat) : Core :=
  { k with vcur := match hi with
                   | some h => BitVec.ofNat 18 h
                   | none => 0#18 }

/-- There is element work: VL is not 0 and VCUR lies below it (R204, R210). -/
def Core.hasWork (k : Core) : Bool := k.vcur.toNat < k.vl.toNat

def illegal (k : Core) : Core × Ending := (k, .trap .illegal 0#64)

/-! ## Element-wise execution -/

/-- Each element in turn: an active one gets `g i d a b`, an inactive one keeps `d`. -/
def mapElems (act : Nat → Bool) (g : Nat → Nat → Nat → Nat → Nat × Flags) :
    Nat → List Nat → List Nat → List Nat → List Nat × Flags
  | i, d :: ds, a :: as, b :: bs =>
    let (r, fl) := if act i then g i d a b else (d, 0#10)
    let (rs, fls) := mapElems act g (i + 1) ds as bs
    (r :: rs, fl ||| fls)
  | _, _, _, _ => ([], 0#10)

/-- The element-wise operation of width `w` on vD, vA, vB. -/
def Core.vmap (k : Core) (f : VFields) (w : Nat) (hi : Option Nat) (g : Nat → Nat → Nat → Nat × Flags) :
    Core × Ending :=
  let n := k.vl.toNat
  let (rs, fl) := mapElems (k.isActive f (k.vend hi)) (fun _ => g) 0 (k.vget f.vd w n) (k.vget f.va w n) (k.vget f.vb w n)
  ((k.vput f.vd w rs).setCur hi, .retire fl)

/-- Bits as a number, lowest first. -/
def bitsNat : List Nat → Nat
  | [] => 0
  | b :: bs => b % 2 + 2 * bitsNat bs

/-- A mask with its low bits replaced. -/
def maskWith (m : BitVec 65536) (bits : List Nat) : BitVec 65536 :=
  let n := bits.length
  BitVec.ofNat 65536 (m.toNat / 2 ^ n * 2 ^ n + bitsNat bits)

/-- The low `n` bits of a mask as a list. -/
def maskBits (m : BitVec 65536) (n : Nat) : List Nat := unpackBits 1 n m.toNat

/-- The compare of width `w` that writes bits of mask VD. -/
def Core.vcompare (k : Core) (f : VFields) (w : Nat) (hi : Option Nat) (g : Nat → Nat → Bool × Flags) :
    Core × Ending :=
  let n := k.vl.toNat
  let md := maskOf f.vd
  let (rs, fl) := mapElems (k.isActive f (k.vend hi)) (fun _ _ a b => b2flags (g a b)) 0
    (maskBits (k.mask md) n) (k.vget f.va w n) (k.vget f.vb w n)
  ((k.setMask md (maskWith (k.mask md) rs)).setCur hi, .retire fl)

/-- The checks of a three-operand element-wise instruction of width `w`; `useB` false when VB must be 0. -/
def Core.elemOk (k : Core) (f : VFields) (w : Nat) (useB : Bool) : Bool :=
  maskFieldOk f && k.maskLenOk f.m && k.operandOk f.vd w && k.operandOk f.va w && k.sameOrDisjoint f.vd f.va w &&
  (if useB then k.operandOk f.vb w && k.sameOrDisjoint f.vd f.vb w else f.vb == 0#5)

/-- The checks of a compare. -/
def Core.cmpOk (k : Core) (f : VFields) (w : Nat) : Bool :=
  maskFieldOk f && k.maskLenOk true && isMaskReg f.vd && k.operandOk f.va w && k.operandOk f.vb w

/-! ## Floating point (R178 to R180) -/

/-- The format of EW 32 or 64. -/
def Core.ewFmt (k : Core) : Option FFmt :=
  if k.ewBits == 32 then some fp32 else if k.ewBits == 64 then some fp64 else none

/-- A sign-only operation (R137). -/
def signOp (w : Nat) (mag : Nat) (sign : Nat) : Nat × Flags := (mag % 2 ^ (w - 1) + sign % 2 * 2 ^ (w - 1), 0#10)

/-- R178: the arithmetic of FN on elements d, a, b, and whether it reads VB. -/
def fpElem (f : FFmt) (rm : RMode) (fn : Nat) : Option (Bool × (Nat → Nat → Nat → Nat × Flags)) :=
  let w := f.width
  match fn with
  | 0x00 => some (true, fun _ a b => f.add rm a b)
  | 0x01 => some (true, fun _ a b => f.sub rm a b)
  | 0x02 => some (true, fun _ a b => f.mul rm a b)
  | 0x03 => some (true, fun _ a b => f.div rm a b)
  | 0x04 => some (false, fun _ a _ => f.sqrt rm a)
  | 0x05 => some (true, fun d a b => f.fma rm a b d)
  | 0x06 => some (true, fun _ a b => f.minMax false a b)
  | 0x07 => some (true, fun _ a b => f.minMax true a b)
  | 0x08 => some (false, fun _ a _ => signOp w a (1 - a / 2 ^ (w - 1) % 2))
  | 0x09 => some (false, fun _ a _ => signOp w a 0)
  | 0x0A => some (true, fun _ a b => signOp w a (b / 2 ^ (w - 1)))
  | _ => none

def Core.vFpArith (k : Core) (f : VFields) (hi : Option Nat) : Core × Ending :=
  match k.ewFmt with
  | none => illegal k
  | some fm =>
    match fpElem fm k.rm f.fn.toNat with
    | none => illegal k
    | some (useB, g) => if k.elemOk f fm.width useB then k.vmap f fm.width hi g else illegal k

def Core.vFpCompare (k : Core) (f : VFields) (hi : Option Nat) : Core × Ending :=
  match k.ewFmt with
  | none => illegal k
  | some fm =>
    if 0x10 ≤ f.fn.toNat && f.fn.toNat ≤ 0x12 && k.cmpOk f fm.width then
      k.vcompare f fm.width hi (fun a b => fm.compareCode (f.fn.toNat - 0x10) a b)
    else illegal k

/-! ## Integers and fixed point (R181 to R184) -/

/-- EW 8, 16, 32 or 64. -/
def Core.intEw (k : Core) : Option Nat := if k.ewBits == 4 then none else some k.ewBits

/-- R181 on codes of width `w`. -/
def intElem (w fn : Nat) (a b : Nat) : Option Nat :=
  let sa := toSigned w a
  let sb := toSigned w b
  match fn with
  | 0x00 => some ((a + b) % 2 ^ w)
  | 0x01 => some (ofSigned w ((a : Int) - b))
  | 0x02 => some (a * b % 2 ^ w)
  | 0x03 => some (ofSigned w (sa * sb / 2 ^ w))
  | 0x04 => some (a * b / 2 ^ w)
  | 0x05 => some (a &&& b)
  | 0x06 => some (a ||| b)
  | 0x07 => some (a ^^^ b)
  | 0x08 => some (a * 2 ^ (b % w) % 2 ^ w)
  | 0x09 => some (a / 2 ^ (b % w))
  | 0x0A => some (ofSigned w (sa / 2 ^ (b % w)))
  | 0x0B => some (if sa < sb then a else b)
  | 0x0C => some (if sa < sb then b else a)
  | 0x0D => some (min a b)
  | 0x0E => some (max a b)
  | _ => none

def Core.vIntArith (k : Core) (f : VFields) (hi : Option Nat) : Core × Ending :=
  match k.intEw with
  | none => illegal k
  | some w =>
    if f.fn.toNat ≤ 0x0E && k.elemOk f w true then
      k.vmap f w hi (fun d a b => ((intElem w f.fn.toNat a b).getD d, 0#10))
    else illegal k

def Core.vIntCompare (k : Core) (f : VFields) (hi : Option Nat) : Core × Ending :=
  match k.intEw with
  | none => illegal k
  | some w =>
    if 0x10 ≤ f.fn.toNat && f.fn.toNat ≤ 0x12 && k.cmpOk f w then
      k.vcompare f w hi (fun a b =>
        (match f.fn.toNat with
         | 0x10 => a == b
         | 0x11 => decide (toSigned w a < toSigned w b)
         | _ => decide (a < b), 0#10))
    else illegal k

/-- A value saturated to a range, as a code (R182). -/
def satCode (w : Nat) (lo hi v : Int) : Nat × Flags :=
  let (r, fl) := clampInt lo hi v
  (ofSigned w r, fl)

/-- R183: `v / 2^s` rounded as the mode 0 to 4 names: nearest-even, half-up, toward zero, floor, ceiling. -/
def rshift (mode s : Nat) (v : Int) : Int :=
  let lo := v / 2 ^ s
  let rem := v % 2 ^ s
  match mode with
  | 0 => if 2 * rem > 2 ^ s || (2 * rem == 2 ^ s && lo % 2 == 1) then lo + 1 else lo
  | 1 => if 2 * rem ≥ 2 ^ s && s != 0 then lo + 1 else lo
  | 2 => if v < 0 && rem != 0 then lo + 1 else lo
  | 3 => lo
  | _ => if rem != 0 then lo + 1 else lo

/-- R182 to R184 on codes of width `w`; none where FN selects nothing at this width. -/
def fixElem (w fn : Nat) (d a b : Nat) : Option (Nat × Flags) :=
  let sa := toSigned w a
  let sb := toSigned w b
  let q := w == 16 || w == 32
  match fn with
  | 0x00 => some (satCode w (sMin w) (sMax w) (sa + sb))
  | 0x01 => some (satCode w 0 (uMax w) ((a : Int) + b))
  | 0x02 => some (satCode w (sMin w) (sMax w) (sa - sb))
  | 0x03 => some (satCode w 0 (uMax w) ((a : Int) - b))
  | 0x04 => if q then some (satCode w (sMin w) (sMax w) ((sa * sb + 2 ^ (w - 2)) / 2 ^ (w - 1))) else none
  | 0x05 => if q then some (satCode w (sMin w) (sMax w) (sa * sb / 2 ^ (w - 1))) else none
  | 0x08 | 0x09 | 0x0A | 0x0B | 0x0C => some (ofSigned w (rshift (fn - 0x08) (b % 256) sa), 0#10)
  | 0x10 | 0x11 | 0x12 | 0x13 | 0x14 => some (ofSigned w (rshift (fn - 0x10) (b % 256) a), 0#10)
  | 0x18 =>
    let sd := toSigned w d
    let r := min (max sa sb) sd
    some (ofSigned w r, flagIf (r != sa) fSAT)
  | 0x19 => let r := min (max a b) d; some (r, flagIf (r != a) fSAT)
  | _ => none

def Core.vFixed (k : Core) (f : VFields) (hi : Option Nat) : Core × Ending :=
  match k.intEw with
  | none => illegal k
  | some w =>
    if (fixElem w f.fn.toNat 0 0 0).isSome && k.elemOk f w true then
      k.vmap f w hi (fun d a b => (fixElem w f.fn.toNat d a b).getD (d, 0#10))
    else illegal k

/-! ## Conversions (R185 to R191, R831) -/

/-- The formats of R186. -/
inductive CFmt where
  | fp (f : FFmt)
  | int (w : Nat)
  | mxint8
  deriving DecidableEq, Repr

def cfmtOf (code : Nat) : Option CFmt :=
  match code with
  | 0x0 => some (.fp fp64)
  | 0x1 => some (.fp fp32)
  | 0x2 => some (.fp fp16)
  | 0x3 => some (.fp bf16)
  | 0x4 => some (.fp e5m2)
  | 0x5 => some (.fp e4m3)
  | 0x6 => some (.fp e3m2)
  | 0x7 => some (.fp e2m3)
  | 0x8 => some (.fp e2m1)
  | 0x9 => some (.int 8)
  | 0xA => some (.int 4)
  | 0xB => some (.int 16)
  | 0xC => some (.int 32)
  | 0xD => some (.int 64)
  | 0xE => some .mxint8
  | _ => none

def CFmt.width : CFmt → Nat
  | .fp f => f.width
  | .int w => w
  | .mxint8 => 8

/-- Codes 0x4 to 0x8 and 0xE have an MX meaning (R186). -/
def mxMeaning (code : Nat) : Bool := (0x4 ≤ code && code ≤ 0x8) || code == 0xE

def CFmt.mx : CFmt → MxFmt
  | .fp f => .fp f
  | _ => .int8

/-- The value of an element code. -/
def CFmt.value (f : CFmt) (c : Nat) : Num :=
  match f with
  | .fp g => g.decode c
  | .int w => Num.ofInt (toSigned w c) 0 false
  | .mxint8 => mxInt8 c

/-- A lone element converted (R156 to R160, R190). -/
def convertElem (src dst : CFmt) (x : Num) (rm : RMode) (r : Nat) : Nat × Flags :=
  match dst, src with
  | .fp g, _ => let (c, fl) := g.round rm r x; (c, fl ||| sigNv [x])
  | .int w, .fp _ => let (v, fl) := toIntRange (sMin w) (sMax w) rm r x; (ofSigned w v, fl)
  | .int w, .mxint8 => let (v, fl) := toIntRange (sMin w) (sMax w) rm r x; (ofSigned w v, fl)
  | .int w, .int _ =>
    match x with
    | .fin neg m _ => satCode w (sMin w) (sMax w) (if neg then -(m : Int) else m)
    | _ => (0, 0#10)
  | .mxint8, _ => (0, 0#10)

/-- R187 and the checks of R170 to R172 for VCVT. -/
def Core.vcvtOk (k : Core) (f : VFields) (s d : Nat) (sf df : CFmt) : Bool :=
  let mx := f.vb != 0#5
  let ws := sf.width
  let wd := df.width
  s != d && f.fn.toNat % 8 != 6 &&
  (if mx then mxMeaning s != mxMeaning d && (!mxMeaning d || s ≤ 0x3) else s != 0xE && d != 0xE) &&
  k.operandOk f.vd wd && k.operandOk f.va ws &&
  (if ws == wd then k.sameOrDisjoint f.vd f.va wd else k.disjoint f.vd wd f.va ws) &&
  (!mx || (k.disjoint f.vb 0 f.vd wd && k.disjoint f.vb 0 f.va ws))

/-- The rounding mode of a VCVT (R185). -/
def Core.cvtMode (k : Core) (f : VFields) : RMode :=
  let r := f.fn.toNat % 8
  RMode.ofCode (if r == 7 then k.fmode.rm.toNat else r)

/-- The elements of a list in blocks of 32, `n` blocks. -/
def blocks32 : Nat → List Num → List (List Num)
  | 0, _ => []
  | n + 1, xs => xs.take 32 :: blocks32 n (xs.drop 32)

/-- The scale codes of MX source elements, one byte a block of vB (R188). -/
def Core.scalesOf (k : Core) (r : Reg) (nb : Nat) : List Nat := k.vget r 8 nb

/-- One value repeated for the 32 elements of its block. -/
def spread32 (xs : List Nat) : List Nat := xs.flatMap (fun x => List.replicate 32 x)

/-- VCVT between formats with no MX destination. -/
def Core.vcvtLone (k : Core) (lc : Nat) (f : VFields) (sf df : CFmt) (mxSrc : Bool) (hi : Option Nat) : Core × Ending :=
  let n := k.vl.toNat
  let rm := k.cvtMode f
  let st := k.stoV.toNat * 2 ^ 18
  let scales := if mxSrc then spread32 (k.scalesOf f.vb ((n + 31) / 32)) else List.replicate n 127
  let g := fun i _ a sc =>
    let x := sf.value a
    convertElem sf df (if mxSrc then mxValue sc x else x) rm (if rm = .sto then k.rnd24 lc 1 (st + i) else 0)
  let (rs, fl) := mapElems (fun i => k.vcur.toNat ≤ i && i < k.vend hi) g 0 (k.vget f.vd df.width n)
    (k.vget f.va sf.width n) (scales.take n)
  (k.vput f.vd df.width rs, .retire fl)

/-- VCVT that produces MX blocks (R161, R188): each block's scale from all of its 32 source elements. -/
def Core.vcvtMx (k : Core) (lc : Nat) (f : VFields) (sf df : CFmt) (hi : Option Nat) : Core × Ending :=
  let n := k.vl.toNat
  let rm := k.cvtMode f
  let st := k.stoV.toNat * 2 ^ 18
  let lo := k.vcur.toNat
  let xs := (k.vget f.va sf.width n).map sf.value
  let bl := blocks32 (n / 32) xs
  let scales := bl.map df.mx.blockScale
  let zeros := bl.map (fun b => b2n (b.all Num.isZero))
  let zs := spread32 zeros
  let ss := spread32 scales
  let g := fun i _ z sc =>
    let x := xs.getD i (.fin false 0 0)
    let (c, fl) := df.mx.blockElement sc (z == 1) rm (if rm = .sto then k.rnd24 lc 1 (st + i) else 0) x
    (c, fl ||| sigNv [x])
  let (rs, fl) := mapElems (fun i => lo ≤ i && i < k.vend hi) g 0 (k.vget f.vd df.width n) zs ss
  let old := k.scalesOf f.vb (n / 32)
  let (sc, _) := mapElems (fun b => lo / 32 ≤ b && 32 * b < k.vend hi) (fun _ _ a _ => (a, 0#10)) 0 old scales scales
  ((k.vput f.vd df.width rs).vput f.vb 8 sc, .retire fl)

/-- VCVT (R185). -/
def Core.vcvt (k : Core) (lc : Nat) (f : VFields) (hi : Option Nat) : Core × Ending :=
  let s := 8 * b2n f.m + f.mkr.toNat
  let d := f.fn.toNat / 8
  match cfmtOf s, cfmtOf d with
  | some sf, some df =>
    if !k.vcvtOk f s d sf df then illegal k
    else
      let (k', e) :=
        if !k.hasWork then (k, .retire 0#10)
        else if f.vb != 0#5 && mxMeaning d then k.vcvtMx lc f sf df hi
        else k.vcvtLone lc f sf df (f.vb != 0#5) hi
      let k' := k'.setCur hi
      -- R191: a completed stochastic VCVT counts once
      (if hi.isNone && k.cvtMode f = .sto then { k' with stoV := k'.stoV + 1#14 } else k', e)
  | _, _ => illegal k

/-! ## Memory access (R192 to R198) -/

/-- The check of one element access (R194). -/
def Core.elemCheck (k : Core) (wr : Bool) (a n : Nat) : Option Cause :=
  if placeOf a = Place.alias_ then some (if k.level == .kernel then .privilege else .bounds)
  else k.accessCheck wr a n

/-- How an element access ends early: the element, the address and the cause. -/
structure ElemFault where
  elem : Nat
  addr : Word
  bad  : Option (MemKind × Nat)
  cause : Cause
  deriving DecidableEq, Repr

/-- The trap of R196: VCUR at the element, TRV the address. -/
def Core.elemTrap (k : Core) (x : ElemFault) : Core × Ending :=
  let k := { k with vcur := BitVec.ofNat 18 x.elem }
  match x.bad with
  | some (m, w) => (k, .memerr m w x.addr)
  | none => (k, .trap x.cause x.addr)

/-- Loads in index order until an element fails: the new element values, and the failure. `e` is the access size,
`pick` takes the element out of the bytes read. -/
def Core.loadElems (k : Core) (act : Nat → Bool) (addr : Nat → Nat → Word) (e : Nat) (pick : Nat → Nat → Nat) :
    Nat → List Nat → List Nat → List Nat × Option ElemFault
  | i, d :: ds, x :: xs =>
    if act i then
      let a := addr i x
      match k.elemCheck false a.toNat e with
      | some c => (d :: ds, some ⟨i, a, none, c⟩)
      | none =>
        match k.badWord a.toNat e with
        | some w => (d :: ds, some ⟨i, a, some (memKindAt a.toNat, w), .memErr⟩)
        | none =>
          let (rs, r) := Core.loadElems k act addr e pick (i + 1) ds xs
          (pick i (leNat (k.load a.toNat e)) :: rs, r)
    else
      let (rs, r) := Core.loadElems k act addr e pick (i + 1) ds xs
      (d :: rs, r)
  | _, _, _ => ([], none)

/-- Stores in index order until an element fails: the runs of bytes written, and the failure. -/
def Core.storeElems (k : Core) (act : Nat → Bool) (addr : Nat → Nat → Word) (e : Nat) :
    Nat → List Nat → List Nat → List (Nat × List Byte) × Option ElemFault
  | i, d :: ds, x :: xs =>
    if act i then
      let a := addr i x
      match k.elemCheck true a.toNat e with
      | some c => ([], some ⟨i, a, none, c⟩)
      | none =>
        let (rs, r) := Core.storeElems k act addr e (i + 1) ds xs
        ((a.toNat, leBytes e d) :: rs, r)
    else Core.storeElems k act addr e (i + 1) ds xs
  | _, _, _ => ([], none)

/-- Adjacent runs joined, in order. -/
def joinRuns : List (Nat × List Byte) → List (Nat × List Byte)
  | [] => []
  | (a, bs) :: rest =>
    match joinRuns rest with
    | (b, cs) :: more => if a + bs.length == b then (a, bs ++ cs) :: more else (a, bs) :: (b, cs) :: more
    | [] => [(a, bs)]

/-- Runs stored in order; a later run wins on a shared byte (R197). -/
def Core.storeRuns (k : Core) (rs : List (Nat × List Byte)) : Core :=
  (joinRuns rs).foldl (fun k r => k.store r.1 r.2) k

/-- Byte groups of a VST at EW 4 (R147): the byte of elements `i` and `i + 1`, an inactive half from memory. -/
def Core.storeNibbles (k : Core) (act : Nat → Bool) (base : Word) :
    Nat → List Nat → List (Nat × List Byte) × Option ElemFault
  | i, d :: d' :: ds =>
    let a := base + BitVec.ofNat 64 (i / 2)
    if act i || act (i + 1) then
      match k.elemCheck true a.toNat 1 with
      | some c => ([], some ⟨if act i then i else i + 1, a, none, c⟩)
      | none =>
        let old := leNat (k.load a.toNat 1)
        let lo := if act i then d % 16 else old % 16
        let hi := if act (i + 1) then d' % 16 else old / 16
        let (rs, r) := Core.storeNibbles k act base (i + 2) ds
        ((a.toNat, [BitVec.ofNat 8 (lo + 16 * hi)]) :: rs, r)
    else Core.storeNibbles k act base (i + 2) ds
  | _, _ => ([], none)

/-- The kinds of vector memory instruction, by FN. -/
inductive VMem where
  | vld | vlds | vst | vsts | vgath | vscat
  deriving DecidableEq, Repr

def VMem.fn : VMem → Nat
  | .vld => 0
  | .vlds => 1
  | .vst => 2
  | .vsts => 3
  | .vgath => 4
  | .vscat => 5

def VMem.strided (m : VMem) : Bool := m = .vlds || m = .vsts
def VMem.indexed (m : VMem) : Bool := m = .vgath || m = .vscat
def VMem.store (m : VMem) : Bool := m = .vst || m = .vsts || m = .vscat

/-- The encoding checks of a vector memory instruction (R170 to R173, R192, R193). -/
def Core.vmemOk (k : Core) (m : VMem) (f : VFields) : Bool :=
  let w := k.ewBits
  f.fn.toNat == m.fn && maskFieldOk f && k.maskLenOk f.m && k.operandOk f.vd w &&
  (if m.indexed then k.operandOk f.vb w && 16 ≤ w && (m.store || k.disjoint f.vd w f.vb w)
   else if m.strided then w != 4 else f.vb == 0#5)

/-- One vector memory instruction, the store buffer empty (02:R117). -/
def Core.vmem (k : Core) (m : VMem) (f : VFields) (hi : Option Nat) : Core × Ending :=
  if !k.vmemOk m f then illegal k
  else
    let k := k.drain
    let w := k.ewBits
    let e := if w == 4 then 1 else w / 8
    let base := k.reg f.va
    let stride := k.reg f.vb
    if !k.hasWork then (k.setCur hi, .retire 0#10)
    else if base.toNat % e != 0 then (k, .trap .align base)
    else if m.strided && stride.toNat % e != 0 then (k, .trap .align stride)
    else
      let n := k.vl.toNat
      let act := k.isActive f (k.vend hi)
      let idx := if m.indexed then k.vget f.vb w n else List.replicate n 0
      let addr := fun (i x : Nat) =>
        if m.indexed then base + BitVec.ofNat 64 (x * e)
        else if m.strided then base + BitVec.ofNat 64 i * stride
        else base + BitVec.ofNat 64 (i * w / 8)
      let data := k.vget f.vd w n
      if m.store then
        let (rs, r) := if w == 4 then k.storeNibbles act base 0 data else k.storeElems act addr e 0 data idx
        let k' := k.storeRuns rs
        match r with
        | some x => k'.elemTrap x
        | none => (k'.setCur hi, .retire 0#10)
      else
        let pick := fun (i v : Nat) => if w == 4 then v / 16 ^ (i % 2) % 16 else v
        let (rs, r) := k.loadElems act addr e pick 0 data idx
        let k' := k.vput f.vd w rs
        match r with
        | some x => k'.elemTrap x
        | none => (k'.setCur hi, .retire 0#10)

/-! ## Compress, expand, move (R199 to R201) -/

/-- The number of set bits of a mask below `n`. -/
def maskCount (m : BitVec 65536) (n : Nat) : Nat := popN n (m.toNat % 2 ^ n)

/-- Element `j` of a list replaced. -/
def setElem (xs : List Nat) (j v : Nat) : List Nat := xs.set j v

/-- The elements of `a` whose index from `i` is active. -/
def selectElems (act : Nat → Bool) : Nat → List Nat → List Nat
  | _, [] => []
  | i, a :: as => if act i then a :: selectElems act (i + 1) as else selectElems act (i + 1) as

/-- Consecutive elements of `src` placed into the active elements of `ds`. -/
def expandElems (act : Nat → Bool) : Nat → List Nat → List Nat → List Nat
  | i, d :: ds, src =>
    if act i then
      match src with
      | s :: rest => s :: expandElems act (i + 1) ds rest
      | [] => d :: expandElems act (i + 1) ds []
    else d :: expandElems act (i + 1) ds src
  | _, [], _ => []

/-- The checks of the permutations. -/
def Core.permOk (k : Core) (f : VFields) (fn : Nat) (needM : Bool) (bZero : Bool) : Bool :=
  let w := k.ewBits
  f.fn.toNat == fn && maskFieldOk f && (!needM || f.m) && (!bZero || f.vb == 0#5) && k.maskLenOk f.m &&
  k.operandOk f.vd w && k.operandOk f.va w &&
  (if needM then k.disjoint f.vd w f.va w else k.sameOrDisjoint f.vd f.va w)

def Core.vcmprs (k : Core) (f : VFields) (hi : Option Nat) : Core × Ending :=
  if !k.permOk f 0x00 true false then illegal k
  else
    let n := k.vl.toNat
    let w := k.ewBits
    let mk := k.mask f.mkr
    let j := maskCount mk (min k.vcur.toNat n)
    let sel := selectElems (k.isActive f (k.vend hi)) 0 (k.vget f.va w n)
    let old := k.vget f.vd w n
    let k' := k.vput f.vd w (old.take j ++ sel ++ old.drop (j + sel.length))
    let k' := k'.setCur hi
    (if hi.isNone then k'.setReg f.vb (BitVec.ofNat 64 (j + sel.length)) else k', .retire 0#10)

def Core.vxpand (k : Core) (f : VFields) (hi : Option Nat) : Core × Ending :=
  if !k.permOk f 0x01 true true then illegal k
  else
    let n := k.vl.toNat
    let w := k.ewBits
    let j := maskCount (k.mask f.mkr) (min k.vcur.toNat n)
    let rs := expandElems (k.isActive f (k.vend hi)) 0 (k.vget f.vd w n) ((k.vget f.va w n).drop j)
    ((k.vput f.vd w rs).setCur hi, .retire 0#10)

def Core.vmov (k : Core) (f : VFields) (hi : Option Nat) : Core × Ending :=
  if !k.permOk f 0x02 false true then illegal k
  else k.vmap { f with vb := f.va } k.ewBits hi (fun _ a _ => (a, 0#10))

/-! ## Mask operations (R202) -/

def Core.maskOpOk (k : Core) (f : VFields) : Bool := !f.m && f.mkr == 0#3 && k.vl.toNat ≤ 65536

/-- MAND, MOR, MXOR, MANDN on bits. -/
def maskBit (fn a b : Nat) : Nat :=
  match fn with
  | 0x00 => a * b
  | 0x01 => max a b
  | 0x02 => (a + b) % 2
  | _ => a * (1 - b)

/-- A mask destination written from VCUR to the end. -/
def Core.maskWrite (k : Core) (f : VFields) (hi : Option Nat) (a b : List Nat) (g : Nat → Nat → Nat) : Core × Ending :=
  let md := maskOf f.vd
  let n := k.vl.toNat
  let (rs, _) := mapElems (fun i => k.vcur.toNat ≤ i && i < k.vend hi) (fun _ _ x y => (g x y, 0#10)) 0
    (maskBits (k.mask md) n) a b
  ((k.setMask md (maskWith (k.mask md) rs)).setCur hi, .retire 0#10)

def Core.maskLogic (k : Core) (f : VFields) (hi : Option Nat) : Core × Ending :=
  if k.maskOpOk f && f.fn.toNat ≤ 0x03 && isMaskReg f.vd && isMaskReg f.va && isMaskReg f.vb then
    let n := k.vl.toNat
    k.maskWrite f hi (maskBits (k.mask (maskOf f.va)) n) (maskBits (k.mask (maskOf f.vb)) n) (maskBit f.fn.toNat)
  else illegal k

def Core.maskFill (k : Core) (f : VFields) (hi : Option Nat) : Core × Ending :=
  if k.maskOpOk f && (f.fn.toNat == 0x04 || f.fn.toNat == 0x05) && isMaskReg f.vd && f.va == 0#5 && f.vb == 0#5 then
    let z := List.replicate k.vl.toNat 0
    k.maskWrite f hi z z (fun _ _ => 5 - f.fn.toNat)
  else illegal k

/-- MPOPC and MFIRST take their result over every bit below VL, and write nothing when interrupted. -/
def Core.maskScan (k : Core) (f : VFields) (hi : Option Nat) (fn : Nat) (g : BitVec 65536 → Nat → Word) : Core × Ending :=
  if k.maskOpOk f && f.fn.toNat == fn && isMaskReg f.va && f.vb == 0#5 then
    if hi.isSome then (k.setCur hi, .retire 0#10)
    else ((k.setReg f.vd (g (k.mask (maskOf f.va)) k.vl.toNat)).setCur none, .retire 0#10)
  else illegal k

/-- The lowest index from `i` whose bit is set, among the bits of a list. -/
def firstSet : Nat → List Nat → Option Nat
  | _, [] => none
  | i, b :: bs => if b == 1 then some i else firstSet (i + 1) bs

def mpopcOf (m : BitVec 65536) (n : Nat) : Word := BitVec.ofNat 64 (maskCount m n)

def mfirstOf (m : BitVec 65536) (n : Nat) : Word :=
  match firstSet 0 (maskBits m n) with
  | some i => BitVec.ofNat 64 i
  | none => BitVec.allOnes 64

/-! ## The commands -/

/-- An instruction of the vector stage waits while an ARUN occupies it (02:R128). -/
def stageFree (g : Core → Core × Ending) (k : Core) : Core × Ending :=
  if k.arun.isSome then (k, .wait false) else g k

/-- One vector instruction of core `c`, run whole. -/
def State.vecInstr (s : State) (c : CoreId) (g : Core → Option Nat → Core × Ending) : State :=
  s.coreInstr c 4 (fun k => k.continued (stageFree (fun k => g k none) k))

def execVld (c : CoreId) (f : VFields) (s : State) : Res := .next (s.vecInstr c (fun k => k.vmem .vld f))
def execVlds (c : CoreId) (f : VFields) (s : State) : Res := .next (s.vecInstr c (fun k => k.vmem .vlds f))
def execVst (c : CoreId) (f : VFields) (s : State) : Res := .next (s.vecInstr c (fun k => k.vmem .vst f))
def execVsts (c : CoreId) (f : VFields) (s : State) : Res := .next (s.vecInstr c (fun k => k.vmem .vsts f))
def execVgath (c : CoreId) (f : VFields) (s : State) : Res := .next (s.vecInstr c (fun k => k.vmem .vgath f))
def execVscat (c : CoreId) (f : VFields) (s : State) : Res := .next (s.vecInstr c (fun k => k.vmem .vscat f))

def execVectorFpArithmetic (c : CoreId) (f : VFields) (s : State) : Res := .next (s.vecInstr c (fun k => k.vFpArith f))
def execVectorFpCompare (c : CoreId) (f : VFields) (s : State) : Res := .next (s.vecInstr c (fun k => k.vFpCompare f))
def execVectorIntegerArithmetic (c : CoreId) (f : VFields) (s : State) : Res :=
  .next (s.vecInstr c (fun k => k.vIntArith f))
def execVectorIntegerCompare (c : CoreId) (f : VFields) (s : State) : Res :=
  .next (s.vecInstr c (fun k => k.vIntCompare f))
def execVectorFixedPoint (c : CoreId) (f : VFields) (s : State) : Res := .next (s.vecInstr c (fun k => k.vFixed f))
def execVcmprs (c : CoreId) (f : VFields) (s : State) : Res := .next (s.vecInstr c (fun k => k.vcmprs f))
def execVxpand (c : CoreId) (f : VFields) (s : State) : Res := .next (s.vecInstr c (fun k => k.vxpand f))
def execVmov (c : CoreId) (f : VFields) (s : State) : Res := .next (s.vecInstr c (fun k => k.vmov f))
def execVcvt (c : CoreId) (f : VFields) (s : State) : Res := .next (s.vecInstr c (fun k => k.vcvt c.val f))
def execMaskLogic (c : CoreId) (f : VFields) (s : State) : Res := .next (s.vecInstr c (fun k => k.maskLogic f))
def execMsetMclr (c : CoreId) (f : VFields) (s : State) : Res := .next (s.vecInstr c (fun k => k.maskFill f))
def execMpopc (c : CoreId) (f : VFields) (s : State) : Res :=
  .next (s.vecInstr c (fun k hi => k.maskScan f hi 0x08 mpopcOf))
def execMfirst (c : CoreId) (f : VFields) (s : State) : Res :=
  .next (s.vecInstr c (fun k hi => k.maskScan f hi 0x09 mfirstOf))

end Sys2Proof.Machine
end

