-- ==== Sys2Proof/Machine/Accord.lean ====
section
/-! DEFINITION. Accord per-element programs (spec/05): validating an image (R215 to R222, R228, R229), the binding word (R231,
R232), running a program over the active elements (R233 to R237) and completing it (R239). -/

namespace Sys2Proof.Machine

/-! ## Operation words (R219 to R221) -/

/-- The operand fields an operation uses: how many of A, B, C, and whether IMM (R221); none when OPC is unassigned. -/
def opArity (opc : Nat) : Option (Nat × Bool) :=
  match opc with
  | 0x01 | 0x02 | 0x03 | 0x06 | 0x07 | 0x0A | 0x0B => some (2, false)
  | 0x04 | 0x05 | 0x0D | 0x0E => some (3, false)
  | 0x08 | 0x09 | 0x0C | 0x0F => some (1, false)
  | 0x10 | 0x11 => some (1, true)
  | 0x20 | 0x21 | 0x22 | 0x23 | 0x24 | 0x25 | 0x26 | 0x27 | 0x28 | 0x29 => some (1, false)
  | _ => none

/-- The fields of an operation word. -/
def opOfWord (w : Nat) : AccordOp :=
  { opc := BitVec.ofNat 6 (bitsN w 26 6), d := BitVec.ofNat 5 (bitsN w 21 5), a := BitVec.ofNat 5 (bitsN w 16 5),
    b := BitVec.ofNat 5 (bitsN w 11 5), c := BitVec.ofNat 5 (bitsN w 6 5), imm := BitVec.ofNat 6 (w % 64) }

/-- R220: an operand code that may be read. -/
def readable (nconst : Nat) (x : BitVec 5) : Bool :=
  let n := x.toNat
  n ≤ 0x13 || n == 0x16 || n == 0x17 || (0x18 ≤ n && n < 0x18 + nconst)

/-- R220: an operand code that may be written. -/
def writable (x : BitVec 5) : Bool := x.toNat ≤ 0x0F || x.toNat == 0x14 || x.toNat == 0x15

/-- R222 for one operation word. -/
def opOk (nconst : Nat) (o : AccordOp) : Bool :=
  match opArity o.opc.toNat with
  | none => false
  | some (n, imm) =>
    writable o.d && readable nconst o.a &&
    (if 2 ≤ n then readable nconst o.b else o.b == 0#5) &&
    (if 3 ≤ n then readable nconst o.c else o.c == 0#5) &&
    (if imm then (o.opc.toNat != 0x10 || (1 ≤ o.imm.toNat && o.imm.toNat ≤ 5)) else o.imm == 0#6)

/-- The operation reads operand code `x`. -/
def AccordOp.reads (o : AccordOp) (x : Nat) : Bool :=
  match opArity o.opc.toNat with
  | none => false
  | some (n, _) => o.a.toNat == x || (2 ≤ n && o.b.toNat == x) || (3 ≤ n && o.c.toNat == x)

/-- Source `j` is used by some operation. -/
def usesSource (ops : List AccordOp) (j : Nat) : Bool := ops.any (fun o => o.reads (0x10 + j))

/-- Destination `j` is used by some operation. -/
def usesDest (ops : List AccordOp) (j : Nat) : Bool := ops.any (fun o => o.d.toNat == 0x14 + j)

/-! ## ALOAD (R227 to R230) -/

/-- A source format is FP64, FP32, FP16 or BF16; that of an unused source is 0 (R217). -/
def sfmtOk (used : Bool) (c : Nat) : Bool := if used then c ≤ 3 else c == 0

/-- A destination format is FP64, FP32, FP16, BF16, E5M2, E4M3 or INT8; that of an unused one is 0. -/
def dfmtOk (used : Bool) (c : Nat) : Bool := if used then c ≤ 5 || c == 9 else c == 0

/-- The first check of an image that fails: the trap it raises. -/
inductive ImageFail where
  | illegal (addr : Nat)
  | bounds (addr : Nat)
  | memerr (addr : Nat)
  deriving DecidableEq, Repr

/-- The first of a list of checks that gives a failure. -/
def firstFail {α : Type} : List (Option α) → Option α
  | [] => none
  | some x :: _ => some x
  | none :: l => firstFail l

/-- A word of the image that holds an uncorrectable error (R228). -/
def Core.imageBad (k : Core) (a n : Nat) : Option ImageFail := (firstMark k.badDmem a n).map .memerr

def failIf (b : Bool) (f : ImageFail) : Option ImageFail := if b then some f else none

/-- The header fields of low word `lo` and high word `hi` as far as no operation bears on them: whether a format may be one at all, not
yet whether it is used (R216, R217, R222). -/
def headerLowOk (lo : Nat) : Bool :=
  1 ≤ lo % 64 && lo % 64 ≤ 32 && bitsN lo 6 2 == 0 && bitsN lo 9 3 != 6 && bitsN lo 12 4 == 0 &&
  (List.range 4).all (fun j => sfmtOk true (bitsN lo (16 + 4 * j) 4))

def headerHighOk (hi : Nat) : Bool :=
  (List.range 2).all (fun j => dfmtOk true (bitsN hi (4 * j) 4)) && bitsN hi 8 4 ≤ 8 && bitsN hi 12 20 == 0

/-- The constants and operation words of an image at `a`. -/
def Core.imageOps (k : Core) (a ncst nops : Nat) : List AccordOp :=
  (List.range nops).map (fun j => opOfWord (k.dmem.getLe (a + 8 + 8 * ncst + 4 * j) 4))

/-- The image at DMEM address `a`: the program, or the first check that fails, word by word from the header on (R228, R229). DESIGN CHOICE:
where the operation words lie beyond the image's bounds or their place is not known (NCST above 8), whether a source's format is of one that some
operation uses is not checked, and the other checks of the header come before the bounds fault. -/
def Core.readImage (k : Core) (a : Nat) : Except ImageFail AccordProg :=
  match firstFail [failIf (0x3FC00 < a + 8) (.bounds (max a 0x3FC00)), k.imageBad a 8] with
  | some x => .error x
  | none =>
    let lo := k.dmem.getLe a 4
    let hi := k.dmem.getLe (a + 4) 4
    let nops := lo % 64
    let ncst := bitsN hi 8 4
    let size := 8 + 8 * ncst + 4 * nops
    let p64 := bitN lo 8
    let ops := k.imageOps a ncst nops
    let sf := (List.range 4).map (fun j => bitsN lo (16 + 4 * j) 4)
    let sOk := (List.range 4).all (fun j => sfmtOk (usesSource ops j) (sf.getD j 0))
    match firstFail [failIf (!headerLowOk lo) (.illegal a), failIf (ncst ≤ 8 && a + size ≤ 0x3FC00 && !sOk) (.illegal a),
        failIf (!headerHighOk hi) (.illegal (a + 4)), failIf (0x3FC00 < a + size) (.bounds 0x3FC00)] with
    | some x => .error x
    | none =>
      let df := (List.range 2).map (fun j => bitsN hi (4 * j) 4)
      let dOk := (List.range 2).all (fun j => dfmtOk (usesDest ops j) (df.getD j 0))
      let consts := (List.range ncst).map (fun j => k.dmem.getLe (a + 8 + 8 * j) 8)
      let cfail := (List.range ncst).map (fun j =>
        firstFail [k.imageBad (a + 8 + 8 * j) 8,
          failIf (!p64 && 2 ^ 32 ≤ consts.getD j 0) (.illegal (a + 8 + 8 * j))])
      let oBase := a + 8 + 8 * ncst
      let ofail := (List.range nops).map (fun j =>
        firstFail [k.imageBad (oBase + 4 * j) 4,
          failIf (!opOk ncst (opOfWord (k.dmem.getLe (oBase + 4 * j) 4))) (.illegal (oBase + 4 * j))])
      match firstFail ([failIf (!dOk) (.illegal (a + 4))] ++ cfail ++ ofail) with
      | some x => .error x
      | none =>
        .ok { prec64 := p64, rnd := BitVec.ofNat 3 (bitsN lo 9 3), sfmt := sf, dfmt := df,
              consts := consts.map (BitVec.ofNat 64), ops := ops }

/-- A program slot by number. -/
def Core.slot (k : Core) (i : BitVec 3) : Option AccordProg := k.slots[i.toNat]'(by have := i.isLt; omega)

def Core.setSlot (k : Core) (i : BitVec 3) (p : AccordProg) : Core :=
  { k with slots := k.slots.set i.toNat (some p) (by have := i.isLt; omega) }

/-- The slot of an ALOAD or ARUN word: VD[2:0], with VD[4:3] zero. -/
def slotOf (f : VFields) : BitVec 3 := f.vd.setWidth 3

def Core.aload (k : Core) (f : VFields) : Core × Ending :=
  if 8 ≤ f.vd.toNat || f.vb != 0#5 || f.m || f.mkr != 0#3 || f.fn != 0#7 then illegal k
  else if (k.arun.map ArunFlight.slot) == some (slotOf f) then (k, .wait false)
  else
    let k := k.drain
    let a := k.reg f.va
    if a.toNat % 8 != 0 then (k, .trap .align a)
    else match k.readImage a.toNat with
      | .ok p => (k.setSlot (slotOf f) p, .retire 0#10)
      | .error (.illegal x) => (k, .trap .illegal (BitVec.ofNat 64 x))
      | .error (.bounds x) => (k, .trap .bounds (BitVec.ofNat 64 x))
      | .error (.memerr w) => (k, .memerr .dmem w (BitVec.ofNat 64 w))

/-! ## The binding word (R231, R232) -/

/-- One binding byte. -/
structure Binding where
  use  : Bool
  rel  : Bool
  bank : Bool
  num  : BitVec 5
  deriving DecidableEq, Repr

def bindingOf (w : Word) (i : Nat) : Binding :=
  let b := w.toNat / 256 ^ i % 256
  { use := bitN b 7, rel := bitN b 6, bank := bitN b 5, num := BitVec.ofNat 5 (b % 32) }

def Binding.isZero (b : Binding) : Bool := !b.use && !b.rel && !b.bank && b.num == 0#5

/-- R231 for a source or destination that the program uses, or does not use. -/
def Binding.ok (b : Binding) (used dest : Bool) : Bool :=
  if !used then b.isZero
  else b.use && (if b.bank then !dest && b.num.toNat ≤ 3 else !b.rel)

/-- The width of a format code of R186. -/
def fmtWidth (c : Nat) : Nat := match cfmtOf c with
  | some f => f.width
  | none => 0

/-- The checks of R232 on a program and a binding word. -/
def Core.arunOk (k : Core) (direct : Bool) (p : AccordProg) (w : Word) : Bool :=
  let src := (List.range 4).map (bindingOf w)
  let dst := (List.range 2).map (fun j => bindingOf w (4 + j))
  let sUsed := fun j => usesSource p.ops j
  let dUsed := fun j => usesDest p.ops j
  let sb := fun j => src.getD j ⟨false, false, false, 0#5⟩
  let db := fun j => dst.getD j ⟨false, false, false, 0#5⟩
  let sw := fun j => fmtWidth (p.sfmt.getD j 0)
  let dw := fun j => fmtWidth (p.dfmt.getD j 0)
  let vsrc := fun j => sUsed j && !(sb j).bank
  w.toNat / 2 ^ 48 == 0 &&
  (List.range 4).all (fun j => (sb j).ok (sUsed j) false) &&
  (List.range 2).all (fun j => (db j).ok (dUsed j) true) &&
  (List.range 4).all (fun j => !(sUsed j && (sb j).bank) || (direct && (k.vl == 0#18 || k.vl == 1024#18))) &&
  (List.range 4).all (fun j => !vsrc j || k.operandOk (sb j).num (sw j)) &&
  (List.range 2).all (fun j => !dUsed j || k.operandOk (db j).num (dw j)) &&
  (List.range 2).all (fun d => !dUsed d || (List.range 4).all (fun j => !vsrc j ||
    (if sw j == dw d then k.sameOrDisjoint (db d).num (sb j).num (dw d)
     else k.disjoint (db d).num (dw d) (sb j).num (sw j)))) &&
  (!(dUsed 0 && dUsed 1) || k.disjoint (db 0).num (dw 0) (db 1).num (dw 1))

/-! ## One element (R221, R233) -/

/-- The state of a program on one element: temporaries and destinations as codes of the program precision. -/
structure ElemState where
  temps : List Nat
  dests : List (Option Nat)
  flags : Flags
  deriving DecidableEq, Repr

/-- R220: the code of an operand that is read. -/
def ElemState.read (e : ElemState) (f : FFmt) (srcs consts : List Nat) (x : BitVec 5) : Nat :=
  let n := x.toNat
  if n ≤ 0x0F then e.temps.getD n 0
  else if n ≤ 0x13 then srcs.getD (n - 0x10) 0
  else if n == 0x17 then (f.round .rne 0 (numOne false)).1
  else if 0x18 ≤ n then consts.getD (n - 0x18) 0
  else 0

def ElemState.write (e : ElemState) (x : BitVec 5) (v : Nat) (fl : Flags) : ElemState :=
  let n := x.toNat
  let e := { e with flags := e.flags ||| fl }
  if n ≤ 0x0F then { e with temps := e.temps.set n v } else { e with dests := e.dests.set (n - 0x14) (some v) }

/-- The widened value of a code of a format R186 names 1 to 5. -/
def narrowFmt (c : Nat) : FFmt :=
  match c with
  | 1 => fp32
  | 2 => fp16
  | 3 => bf16
  | 4 => e5m2
  | _ => e4m3

/-- RNDF: rounded to a narrow format and widened back (R221). -/
def rndf (f : FFmt) (c a : Nat) : Nat × Flags :=
  let g := narrowFmt c
  let (n, fl) := f.convert g .rne 0 a
  ((f.round .rne 0 (g.decode n)).1, fl)

/-- The approximated operation of an OPC from 0x20. -/
def apxOf (opc : Nat) : Apx :=
  match opc with
  | 0x20 => .exp2
  | 0x21 => .log2
  | 0x22 => .exp
  | 0x23 => .log
  | 0x24 => .rcp
  | 0x25 => .rsqrt
  | 0x26 => .tanh
  | 0x27 => .sigm
  | 0x28 => .sinpi
  | _ => .cospi

/-- The result of an operation on codes a, b, c of the program precision (R221). -/
def accordOp (f : FFmt) (opc imm a b c : Nat) : Nat × Flags :=
  let w := f.width
  match opc with
  | 0x01 => f.add .rne a b
  | 0x02 => f.sub .rne a b
  | 0x03 => f.mul .rne a b
  | 0x04 => f.fma .rne a b c
  | 0x05 => f.finish .rne (Num.fma false (f.decode a) (f.decode b) (f.decode c).neg)
  | 0x06 => f.minMax false a b
  | 0x07 => f.minMax true a b
  | 0x08 => signOp w a (1 - a / 2 ^ (w - 1) % 2)
  | 0x09 => signOp w a 0
  | 0x0A => signOp w a (b / 2 ^ (w - 1))
  | 0x0B => f.div .rne a b
  | 0x0C => f.sqrt .rne a
  | 0x0D =>
    let x := f.decode a
    (if !x.isNan && Num.cmp x (numZero false) == .gt then b else c, 0#10)
  | 0x0E =>
    let (m, g) := f.minMax true a b
    let (r, h) := f.minMax false m c
    (r, g ||| h)
  | 0x0F => (a, 0#10)
  | 0x10 => rndf f imm a
  | 0x11 =>
    let x := f.decode a
    f.finish .rne (if x.isNan then .nan false else x.scale (toSigned 6 imm), sigNv [x])
  | _ => (apxOf opc).run f a

/-- The operation words in image order. -/
def runOps (f : FFmt) (srcs consts : List Nat) : List AccordOp → ElemState → ElemState
  | [], e => e
  | o :: os, e =>
    let (v, fl) := accordOp f o.opc.toNat o.imm.toNat (e.read f srcs consts o.a) (e.read f srcs consts o.b)
      (e.read f srcs consts o.c)
    runOps f srcs consts os (e.write o.d v fl)

/-- A source code converted to the program precision; one of that precision already is moved as it is (R137). -/
def readSource (f : FFmt) (c : Nat) (a : Nat) : Nat × Flags :=
  match cfmtOf c with
  | some (.fp g) => if g = f then (a, 0#10) else g.convert f .rne 0 a
  | _ => (a, 0#10)

/-- A destination code converted from the program precision. -/
def writeDest (f : FFmt) (c : Nat) (rm : RMode) (r a : Nat) : Nat × Flags :=
  match cfmtOf c with
  | some (.fp g) => if g = f then (a, 0#10) else f.convert g rm r a
  | some df => convertElem (.fp f) df (f.decode a) rm r
  | none => (0, 0#10)

/-! ## Bank sources (R237; 07:R324, R330) -/

/-- The value V of an output under its bank's tag (07:R324). -/
def Bank.value (b : Bank) (i : Nat) : Num :=
  match b.tag with
  | none => .fin false 0 0
  | some (mode, base) =>
    let o := b.out i
    if b.poison then .nan false
    else match mode with
      | .exact =>
        match o.spc.toNat with
        | 0 => Num.ofInt o.total.toInt base.toInt false
        | 1 => .inf false
        | 2 => .inf true
        | _ => .nan false
      | _ => fp64.decode (o.total.toNat % 2 ^ 64)

/-- INEXACT and RANGE of an output that is read (07:R330); an empty or poisoned bank shows none. -/
def Bank.outFlags (b : Bank) (i : Nat) : Flags :=
  match b.tag with
  | some (.exact, _) =>
    if b.poison then 0#10 else flagIf (b.out i).inx fINEXACT ||| flagIf (b.out i).rng fRANGE
  | _ => 0#10

/-- Output `i` of a bank as a source element: rounded once to the program precision. -/
def Bank.source (b : Bank) (f : FFmt) (i : Nat) : Nat × Flags :=
  let (c, fl) := f.round .rne 0 (b.value i)
  (c, fl ||| b.outFlags i)

/-! ## ARUN (R233 to R241) -/

/-- The rounding mode of destination conversions. -/
def Core.accordMode (k : Core) (p : AccordProg) : RMode :=
  RMode.ofCode (if p.rnd == 7#3 then k.fmode.rm.toNat else p.rnd.toNat)

/-- The two destination elements of one active element, with the flags. -/
def Core.arunElem (k : Core) (lc : Nat) (p : AccordProg) (src : List (Option (Bank) × List Nat)) (rm : RMode) (i : Nat) :
    List (Option Nat) × Flags :=
  let f := if p.prec64 then fp64 else fp32
  let reads := (List.range 4).map (fun j =>
    match src.getD j (none, []) with
    | (some b, _) => b.source f i
    | (none, xs) => if usesSource p.ops j then readSource f (p.sfmt.getD j 0) (xs.getD i 0) else (0, 0#10))
  let fl := reads.foldl (fun g r => g ||| r.2) 0#10
  let e := runOps f (reads.map Prod.fst) (p.consts.map BitVec.toNat) p.ops ⟨List.replicate 16 0, [none, none], fl⟩
  let st := k.stoA.toNat * 2 ^ 18
  let outs := (List.range 2).map (fun d =>
    match e.dests.getD d none with
    | none => (none, 0#10)
    | some v =>
      let r := if rm = .sto then k.rnd24 lc 2 (st + d * 2 ^ 17 + i) else 0
      let (c, g) := writeDest f (p.dfmt.getD d 0) rm r v
      (some c, g))
  (outs.map Prod.fst, outs.foldl (fun g o => g ||| o.2) e.flags)

/-- Every element in turn: the results of the active ones. -/
def arunElems (act : Nat → Bool) (g : Nat → List (Option Nat) × Flags) : Nat → Nat → List (List (Option Nat)) × Flags
  | 0, _ => ([], 0#10)
  | n + 1, i =>
    let (r, fl) := if act i then g i else ([none, none], 0#10)
    let (rs, fls) := arunElems act g n (i + 1)
    (r :: rs, fl ||| fls)

/-- Old elements with the new ones where there are any. -/
def mergeElems (d : Nat) : List Nat → List (List (Option Nat)) → List Nat
  | x :: xs, r :: rs => ((r.getD d none).getD x) :: mergeElems d xs rs
  | _, _ => []

/-- The banks a binding word reads, and those it releases. -/
def boundBanks (p : AccordProg) (w : Word) (relOnly : Bool) : List (BitVec 2) :=
  (List.range 4).filterMap (fun j =>
    let b := bindingOf w j
    if usesSource p.ops j && b.bank && (!relOnly || b.rel) then some (b.num.setWidth 2) else none)

/-- A matrix instruction in flight writes one of the banks. -/
def Core.bankBusy (k : Core) (bs : List (BitVec 2)) : Bool :=
  k.mxq.any (fun x => bs.contains x.bank) || k.drains.any (fun x => bs.contains x.bank)

/-- The element block of R240. -/
def AccordProg.block (p : AccordProg) : Nat := if p.prec64 then 128 else 256

/-- ARUN.  Its elements are done when it issues; a bank bound with REL is released when it completes.  With an end `hi`
it is interrupted at a block boundary and stays to be resumed. -/
def Core.arunRun (k : Core) (lc : Nat) (direct : Bool) (f : VFields) (hi : Option Nat) : Core × Ending :=
  if 8 ≤ f.vd.toNat || f.vb != 0#5 || f.fn != 0#7 || !maskFieldOk f then illegal k
  else match k.slot (slotOf f) with
    | none => illegal k
    | some p =>
      let w := k.reg f.va
      if !k.arunOk direct p w || !k.maskLenOk f.m then illegal k
      else
        let reads := boundBanks p w false
        if k.bankBusy reads then (k, .wait false)
        else
          let n := k.vl.toNat
          let rm := k.accordMode p
          let src := (List.range 4).map (fun j =>
            let b := bindingOf w j
            if usesSource p.ops j then
              if b.bank then (some (k.abank (b.num.setWidth 2)), []) else (none, k.vget b.num (fmtWidth (p.sfmt.getD j 0)) n)
            else (none, []))
          let (rs, fl) := arunElems (k.isActive f (k.vend hi)) (k.arunElem lc p src rm) n 0
          let put := fun (k' : Core) (d : Nat) =>
            if usesDest p.ops d then
              let r := (bindingOf w (4 + d)).num
              let wd := fmtWidth (p.dfmt.getD d 0)
              k'.vput r wd (mergeElems d (k.vget r wd n) rs)
            else k'
          let k' := (put (put k 0) 1).setCur hi
          let rel := if n == 0 then [] else boundBanks p w true
          (if hi.isNone then { k' with arun := some ⟨slotOf f, reads, rel, rm = .sto⟩ } else k', .retire fl)

/-- The coupling of the loadable resident on a core is DIRECT (05:R232). -/
def State.direct (s : State) (c : CoreId) : Bool := ((s.ctxOf c).map Context.direct).getD false

def execAload (c : CoreId) (f : VFields) (s : State) : Res := .next (s.coreInstr c 4 (fun k => k.aload f))

def execArun (c : CoreId) (f : VFields) (s : State) : Res :=
  .next (s.vecInstr c (fun k => k.arunRun c.val (s.direct c) f))

/-- An ARUN in flight completes (R239). -/
def execArunComplete (c : CoreId) (s : State) : Res := .next (s.setCore c (s.core c).arunDone)

end Sys2Proof.Machine
end

