-- ==== Sys2Proof/Machine/Wide.lean ====
section
/-! DEFINITION. The wide record (07:R304, R305), the wide add (07:R306) and VWADD (07:R309, R310). -/

namespace Sys2Proof.Machine

/-- A wide record's fields below bit 248. -/
structure Wide where
  total : BitVec 192
  base  : BitVec 12
  spc   : BitVec 2
  inx   : Bool
  rng   : Bool
  mg    : BitVec 40
  deriving DecidableEq, Repr

def Wide.ofNat (v : Nat) : Wide :=
  { total := BitVec.ofNat 192 v, base := BitVec.ofNat 12 (bitsN v 192 12), spc := BitVec.ofNat 2 (bitsN v 204 2),
    inx := bitN v 206, rng := bitN v 207, mg := BitVec.ofNat 40 (bitsN v 208 40) }

def Wide.toNat (r : Wide) : Nat :=
  r.total.toNat + 2 ^ 192 * r.base.toNat + 2 ^ 204 * r.spc.toNat + 2 ^ 206 * b2n r.inx + 2 ^ 207 * b2n r.rng +
    2 ^ 208 * r.mg.toNat

/-- Magnitude guards added, saturating (R301, R306). -/
def mgAdd (a b : BitVec 40) : BitVec 40 := BitVec.ofNat 40 (min (a.toNat + b.toNat) (2 ^ 40 - 1))

/-- SPC of two totals combined, and whether NV is set by +∞ with −∞. -/
def spcAdd (a b : BitVec 2) : BitVec 2 × Bool :=
  if a == 3#2 || b == 3#2 then (3#2, false)
  else if a == 0#2 then (b, false)
  else if b == 0#2 || a == b then (a, false)
  else (3#2, true)

/-- R306: the wide add of two records, and the NV it sets. -/
def wadd (a b : Wide) : Wide × Flags :=
  let mg := mgAdd a.mg b.mg
  let (spc, nv) := spcAdd a.spc b.spc
  let mismatch := a.base != b.base
  let r : Wide := { total := 0#192, base := 0#12, spc := 3#2, inx := a.inx || b.inx,
                    rng := a.rng || b.rng || 2 ^ 39 ≤ mg.toNat, mg := mg }
  if spc == 3#2 || mismatch then
    (r, flagIf (a.spc != 3#2 && b.spc != 3#2 && (nv || mismatch)) fNV)
  else if spc != 0#2 then ({ r with spc := spc, base := a.base }, 0#10)
  else ({ r with spc := 0#2, base := a.base, total := a.total + b.total }, 0#10)

/-- The wide add of two 32-byte records held as numbers. -/
def waddNat (a b : Nat) : Nat × Flags :=
  let (r, f) := wadd (Wide.ofNat a) (Wide.ofNat b)
  (r.toNat, f)

/-- R309, R310: VWADD over 256-bit elements. -/
def Core.vwadd (k : Core) (f : VFields) (hi : Option Nat) : Core × Ending :=
  if f.fn.toNat == 0x18 && k.elemOk f 256 true then
    k.vmap f 256 hi (fun _ a b =>
      let (r, fl) := wadd (Wide.ofNat a) (Wide.ofNat b)
      (r.toNat, fl ||| flagIf r.inx fINEXACT ||| flagIf r.rng fRANGE))
  else illegal k

def execVwadd (c : CoreId) (f : VFields) (s : State) : Res := .next (s.vecInstr c (fun k => k.vwadd f))

end Sys2Proof.Machine
end

