-- ==== Sys2Proof/Machine/Hbm.lean ====
section
/-! DEFINITION. HBM and the shared caches: line requests (10:R422 to R430, R436 to R449; 19:R776, R777) and atomic operations
(10:R441 to R446). -/

namespace Sys2Proof.Machine

/-! ## Statuses and flags of a completion (11:R478, R479) -/

def stOk : BitVec 8 := 0x00#8
def stRefused : BitVec 8 := 0x01#8
def stAddress : BitVec 8 := 0x02#8
def stOwnership : BitVec 8 := 0x03#8
def stAlignment : BitVec 8 := 0x04#8
def stMemory : BitVec 8 := 0x05#8
def stCacheDisabled : BitVec 8 := 0x06#8
def stInTest : BitVec 8 := 0x07#8
def stTranslation : BitVec 8 := 0x08#8
def stHost : BitVec 8 := 0x09#8
def stRemote : BitVec 8 := 0x0A#8
def stAborted : BitVec 8 := 0x0B#8

/-- FLAGS of a completion record from raised conditions (11:R478). -/
def dmaFlags (f : Flags) : BitVec 7 :=
  let b (x : Flags) := f &&& x != 0#10
  BitVec.ofNat 7 (bitList [b fNX, b fUF, b fOF, b fNV, b fSAT, b fINEXACT, b fRANGE])

/-! ## Addresses (10:R423, R447) -/

def hbmBytes : Nat := 0xC000000000

def stackBytes : Nat := 0x1800000000

/-- The die whose shared cache serves an HBM address (01:R36, R37). -/
def hbmDie (a : Nat) : DieId := if a / stackBytes < 4 then 0 else 1

def lineSet (a : Nat) : Nat := bitsN a 8 15 ^^^ bitsN a 23 15

def lineTag (a : Nat) : Nat := bitsN a 23 17

/-- The device channel of an HBM address and its granule (R447). -/
def hbmChannel (a : Nat) : Fin 256 :=
  let o := a % stackBytes
  Fin.ofNat 256 (32 * (a / stackBytes) + (bitsN o 8 5 ^^^ bitsN o 13 5))

def hbmGranule (a : Nat) : Nat := bitsN (a % stackBytes) 13 24

/-- The base of the line that holds an address. -/
def lineBase (a : Nat) : Nat := a / 256 * 256

/-- The address of a set and tag: the line held there. -/
def lineAddr (set_ tag : Nat) : Nat := tag * 2 ^ 23 + (set_ ^^^ bitsN (tag * 2 ^ 23) 23 15) * 256

/-! ## HBM behind the cache (10:R448, R449; 19:R776, R777) -/

/-- The key of an HBM address: the owning context's, or DEV_HBM. -/
def State.keyAt (s : State) (a : Nat) : Nat :=
  match s.ctxs.find? (fun x => x.hbm.any (fun g => g.base ≤ a && a < g.base + g.size)) with
  | some x => x.hbmKey
  | none => s.sec.devHbm

/-- The key under which a granule was last written. -/
def State.writtenKey (s : State) (a : Nat) : Option Nat :=
  (s.hbmKeys.find? (fun p => p.1 == a / 256)).map Prod.snd

/-- The plaintext of a granule; what another key left there reads as bytes that follow no pattern. -/
def State.granule (s : State) (a : Nat) : State × List Byte :=
  let b := lineBase a
  if s.writtenKey a == some (s.keyAt a) then (s, s.hbm.getN b 256)
  else
    let (s, n) := s.draw
    (s, (List.range 256).map (fun i => Config.freeByte n i))

/-- A number's entry in a rising list of pairs. -/
def putKey : List (Nat × Nat) → Nat → Nat → List (Nat × Nat)
  | [], g, k => [(g, k)]
  | (h, x) :: l, g, k => if g < h then (g, k) :: (h, x) :: l else if g == h then (g, k) :: l else (h, x) :: putKey l g k

/-- The codewords of 64 bytes that a range touches and that are marked uncorrectable, by their first byte. -/
def State.badWords (s : State) (a n : Nat) : List Nat := s.hbmBad.filter (fun w => n != 0 && a < w + 64 && w < a + n)

/-- A write that reaches HBM: the granule is written whole under the key of its address; SC_STAT.WWD is set while the
cache is disabled (10:R434). -/
def State.hbmWrite (s : State) (a : Nat) (bs : List Byte) : State :=
  let d := hbmDie a
  let c := s.caches[d]
  let s := if c.en then s else { s with caches := s.caches.set d { c with wwd := true } }
  let (s, g) := s.granule a
  let o := a % 256
  let g := g.take o ++ bs ++ g.drop (o + bs.length)
  { s with hbm := s.hbm.put (lineBase a) g, hbmKeys := putKey s.hbmKeys (a / 256) (s.keyAt a),
           hbmBad := s.hbmBad.filter (fun w => !(a ≤ w && w + 64 ≤ a + bs.length)) }

/-- A line stored back: when poisoned, every codeword of it is marked (R440). -/
def State.writeBack (s : State) (l : Line) : State :=
  let a := lineAddr l.set_ l.tag
  let s := s.hbmWrite a l.data
  if l.poison then { s with hbmBad := [a, a + 64, a + 128, a + 192].foldl addMark s.hbmBad } else s

/-! ## The lines of a cache -/

def State.cache (s : State) (d : DieId) : Cache := s.caches[d]

def State.setCache (s : State) (d : DieId) (c : Cache) : State := { s with caches := s.caches.set d c }

/-- A line inserted by rising set and way, in place of the one that stood there. -/
def putLine : List Line → Line → List Line
  | [], x => [x]
  | y :: l, x =>
    if x.set_ < y.set_ || (x.set_ == y.set_ && x.way < y.way) then x :: y :: l
    else if x.set_ == y.set_ && x.way == y.way then x :: l
    else y :: putLine l x

def Cache.put (c : Cache) (l : Line) : Cache := { c with lines := putLine c.lines l }

/-- The line that holds an address. -/
def Cache.find (c : Cache) (a : Nat) : Option Line :=
  c.lines.find? (fun l => l.set_ == lineSet a && l.tag == lineTag a)

/-- The class register of a request (R427). -/
def Cache.cls (c : Cache) (k : BitVec 3) : ScClass := c.classes[k.toNat]'(by have := k.isLt; omega)

/-- The ways in service of a set that a mask names, lowest first (18:R746). -/
def Cache.ways (c : Cache) (set_ : Nat) (mask : BitVec 16) : List Nat :=
  (List.range 16).filter (fun w => mask.getLsbD w && !c.retired.contains (set_, w))

/-- The line in a way of a set. -/
def Cache.at_ (c : Cache) (set_ w : Nat) : Option Line := c.lines.find? (fun l => l.set_ == set_ && l.way == w)

/-- The ways of a set age until one of them reaches 3 (R430): at most three rounds. -/
def Cache.ageRounds (c : Cache) (set_ : Nat) (ws : List Nat) : Nat → Cache
  | 0 => c
  | n + 1 =>
    if ws.any (fun w => (c.at_ set_ w).any (fun l => l.age == 3)) then c
    else
      { c with lines := c.lines.map (fun (l : Line) =>
          if l.set_ == set_ && ws.contains l.way then { l with age := min 3 (l.age + 1) } else l) }.ageRounds set_ ws n

/-- The victim among the ways of a class (R430). -/
def Cache.victim (c : Cache) (set_ : Nat) (ws : List Nat) : Cache × Option Nat :=
  match ws.find? (fun w => (c.at_ set_ w).isNone) with
  | some w => (c, some w)
  | none =>
    let c := c.ageRounds set_ ws 3
    (c, ws.find? (fun w => (c.at_ set_ w).any (fun l => l.age == 3)))

/-- A line takes the victim way of `ws`; a dirty victim is written back first. -/
def State.allocate (s : State) (a : Nat) (ws : List Nat) (age : Nat) (data : List Byte) (dirty poison : Bool) : State :=
  let d := hbmDie a
  let (c, v) := (s.cache d).victim (lineSet a) ws
  let s := s.setCache d c
  match v with
  | none => s
  | some w =>
    let s := match c.at_ (lineSet a) w with
      | some l => if l.dirty then s.writeBack l else s
      | none => s
    s.setCache d ((s.cache d).put ⟨lineSet a, w, lineTag a, dirty, age, poison, data⟩)

/-- The ways into which a class allocates for reads and writes: none for a class that does not allocate (R429). -/
def Cache.allocWays (c : Cache) (k : BitVec 3) (a : Nat) : List Nat :=
  let r := c.cls k
  if r.policy == 2#2 then [] else c.ways (lineSet a) r.mask

/-- The age at which a class fills a line. -/
def ScClass.fillAge (k : ScClass) : Nat := if k.policy == 1#2 then 3 else 1

/-- A hit of a class with the normal policy sets the line's age to 0 (R430). -/
def ScClass.touch (k : ScClass) (l : Line) : Line := if k.policy == 0#2 then { l with age := 0 } else l

/-- The channel of an address is under test (R455). -/
def State.inTest (s : State) (a : Nat) : Bool := s.htg[hbmChannel a].running

/-! ## Read and write line requests -/

/-- The outcome of a line request: its status, the conditions it raised, and the bytes of a read. -/
structure LineRes where
  status : BitVec 8
  flags  : Flags
  bytes  : List Byte
  deriving DecidableEq, Repr

def LineRes.fail (st : BitVec 8) : LineRes := ⟨st, 0#10, []⟩

/-- An uncorrectable codeword that HBM delivered is counted (18:R744). -/
def State.hbmUnc (s : State) (a : Nat) (bad : Bool) : State := if bad then s.countUnc .hbm a else s

/-- A codeword of HBM found uncorrectable keeps its mark until a write covers it whole (18:R744). -/
def State.markHbm (s : State) (a : Nat) (bad : Bool) : State := if bad then { s with hbmBad := addMark s.hbmBad (a / 64 * 64) } else s

/-- The `n` bytes at `a`, within one line, read with class `k`. `unc`: HBM finds an uncorrectable error in what this
request reads, in the codeword of its first byte (log 179). -/
def State.lineRead (s : State) (k : BitVec 3) (a n : Nat) (unc : Bool) : State × LineRes :=
  let c := s.cache (hbmDie a)
  let part (g : List Byte) : List Byte := (g.drop (a % 256)).take n
  if s.inTest a then (s, LineRes.fail stInTest)
  else match (if c.en then c.find a else none) with
    | some l =>
      let s := s.setCache (hbmDie a) (c.put ((c.cls k).touch l))
      (s, if l.poison then LineRes.fail stMemory else ⟨stOk, 0#10, part l.data⟩)
    | none =>
      let (s, g) := (s.markHbm a unc).granule a
      let ws := if c.en then c.allocWays k a else []
      if ws.isEmpty then
        let bad := unc || !(s.badWords a n).isEmpty
        (s.hbmUnc a bad, if bad then LineRes.fail stMemory else ⟨stOk, 0#10, part g⟩)
      else
        let bad := unc || !(s.badWords (lineBase a) 256).isEmpty
        let s := (s.allocate a ws (c.cls k).fillAge g false bad).hbmUnc a bad
        (s, if bad then LineRes.fail stMemory else ⟨stOk, 0#10, part g⟩)

/-- A line with bytes of it replaced. -/
def Line.write (l : Line) (o : Nat) (bs : List Byte) : Line :=
  { l with data := l.data.take o ++ bs ++ l.data.drop (o + bs.length), dirty := true }

/-- A write that goes to HBM: a codeword marked uncorrectable that it covers in part keeps its bytes, and the request fails
(R429, R449). -/
def State.writeThrough (s : State) (a : Nat) (bs : List Byte) : State × LineRes :=
  if (s.badWords a bs.length).any (fun w => !(a ≤ w && w + 64 ≤ a + bs.length)) then
    (s.countUnc .hbm a, LineRes.fail stMemory)
  else (s.hbmWrite a bs, ⟨stOk, 0#10, []⟩)

/-- Bytes written at `a`, within one line, with class `k` (R425, R426, R429, R430, R439). -/
def State.lineWrite (s : State) (k : BitVec 3) (a : Nat) (bs : List Byte) : State × LineRes :=
  let c := s.cache (hbmDie a)
  let whole := bs.length == 256
  if s.inTest a then (s, LineRes.fail stInTest)
  else match (if c.en then c.find a else none) with
    | some l =>
      if l.poison && !whole then (s, LineRes.fail stMemory)
      else
        let l := (c.cls k).touch (l.write (a % 256) bs)
        (s.setCache (hbmDie a) (c.put { l with poison := false }), ⟨stOk, 0#10, []⟩)
    | none =>
      let ws := if c.en then c.allocWays k a else []
      if ws.isEmpty then s.writeThrough a bs
      else if whole then
        let s := s.allocate a ws (c.cls k).fillAge bs true false
        (s, ⟨stOk, 0#10, []⟩)
      else
        let (s, g) := s.granule a
        let bad := !(s.badWords (lineBase a) 256).isEmpty
        if bad then ((s.allocate a ws (c.cls k).fillAge g false true).hbmUnc a true, LineRes.fail stMemory)
        else
          let o := a % 256
          (s.allocate a ws (c.cls k).fillAge (g.take o ++ bs ++ g.drop (o + bs.length)) true false, ⟨stOk, 0#10, []⟩)

/-! ## Atomic operations -/

def atomicBytes : AtomicOp → Nat
  | .fadd32 | .iadd32 => 4
  | .fadd64 | .iadd64 => 8
  | .wadd => 32

/-- The new value of an element (R441, R442). -/
def atomicElem (op : AtomicOp) (old v : Nat) : Nat × Flags :=
  match op with
  | .fadd32 => fp32.add .rne old v
  | .fadd64 => fp64.add .rne old v
  | .iadd32 => ((old + v) % 2 ^ 32, 0#10)
  | .iadd64 => ((old + v) % 2 ^ 64, 0#10)
  | .wadd =>
    let (r, f) := wadd (Wide.ofNat old) (Wide.ofNat v)
    (r.toNat, f ||| flagIf r.inx fINEXACT ||| flagIf r.rng fRANGE)

/-- The elements of a run of bytes updated in order. -/
def atomicRun (op : AtomicOp) : List Nat → List Nat → List Nat × Flags
  | o :: os, v :: vs =>
    let (r, f) := atomicElem op o v
    let (rs, fs) := atomicRun op os vs
    (r :: rs, f ||| fs)
  | _, _ => ([], 0#10)

/-- The atomic's new bytes in place of the old, and its flags. -/
def atomicBytesAt (op : AtomicOp) (old vs : List Byte) : List Byte × Flags :=
  let e := atomicBytes op
  let n := vs.length / e
  let (rs, f) := atomicRun op (unpackBytes e n old) (unpackBytes e n vs)
  (rs.flatMap (leBytes e), f)

/-- The ways into which an atomic allocates, and at what age (R444). -/
def Cache.atomicWays (c : Cache) (k : BitVec 3) (a : Nat) : List Nat × Nat :=
  let ws := c.allocWays k a
  if ws.isEmpty then (c.ways (lineSet a) 0xFFFF#16, 3) else (ws, (c.cls k).fillAge)

/-- An atomic line request: operand values for the elements at `a`, within one line (R443 to R446). -/
def State.atomicLine (s : State) (k : BitVec 3) (op : AtomicOp) (a : Nat) (vs : List Byte) : State × LineRes :=
  let d := hbmDie a
  let c := s.cache d
  let e := atomicBytes op
  let upd (l : Line) : Line × Flags :=
    let (bs, f) := atomicBytesAt op ((l.data.drop (a % 256)).take vs.length) vs
    (l.write (a % 256) bs, f)
  if a % e != 0 || vs.length % e != 0 then (s, LineRes.fail stAlignment)
  else if !c.en then (s, LineRes.fail stCacheDisabled)
  else match c.find a with
    | some l =>
      if l.poison then (s, LineRes.fail stMemory)
      else if s.inTest a then (s, LineRes.fail stInTest)
      else
        let (l, f) := upd l
        (s.setCache d (c.put ((c.cls k).touch l)), ⟨stOk, f, []⟩)
    | none =>
      let (ws, age) := c.atomicWays k a
      if ws.isEmpty then (s, LineRes.fail stMemory)
      else if s.inTest a then (s, LineRes.fail stInTest)
      else
        let (s, g) := s.granule a
        let bad := !(s.badWords (lineBase a) 256).isEmpty
        if bad then ((s.allocate a ws age g false true).hbmUnc a true, LineRes.fail stMemory)
        else
          let (l, f) := upd ⟨lineSet a, 0, lineTag a, true, age, false, g⟩
          (s.allocate a ws age l.data true false, ⟨stOk, f, []⟩)

/-! ## Faulty lines (18:R746) -/

/-- A faulty way of a set is retired, a dirty line written back first; past 1,024 retirements on the die it stays. While EN is 0 no line is
written back or invalidated but by INV or FLUSH (10:R436): a way that holds a line stays in service until patrol finds it again (log 152). -/
def State.retireWay (s : State) (d : DieId) (set_ w : Nat) : State :=
  let c := s.cache d
  if c.retired.contains (set_, w) then s
  else if !c.en && (c.at_ set_ w).isSome then s
  else if 1024 ≤ c.retired.length then ({ s with rep := { s.rep with lineLost := true } }).recompute
  else
    let s := match c.at_ set_ w with
      | some l => if l.dirty then s.writeBack l else s
      | none => s
    let c := s.cache d
    (s.setCache d { c with retired := c.retired ++ [(set_, w)],
                           lines := c.lines.filter (fun l => !(l.set_ == set_ && l.way == w)) }).recompute

/-- A word of a line that its SECDED code cannot correct: the line is poisoned (10:R439), counted and faulty. -/
def State.lineFails (s : State) (d : DieId) (set_ w : Nat) : State :=
  let c := s.cache d
  let s := match c.at_ set_ w with
    | some l => s.setCache d (c.put { l with poison := true })
    | none => s
  (s.countUnc .scache (match c.at_ set_ w with
    | some l => lineAddr l.set_ l.tag
    | none => 0)).retireWay d set_ w

/-- A line request meets the word that makes the line it hits faulty (18:R746). -/
def State.meetLine (s : State) (a : Nat) (sramBad : Bool) : State :=
  let c := s.cache (hbmDie a)
  match (if c.en && sramBad && !s.inTest a then c.find a else none) with
  | some l => s.lineFails (hbmDie a) l.set_ l.way
  | none => s

/-! ## The commands -/

/-- The commands of the data plane act while it runs; an idle one serves them by waking its path (16:R707). -/
def State.dataPlane (s : State) : Bool := s.pstate == .run || s.pstate == .idle

/-- Every HBM stack is in self-refresh, and nothing reads or writes it (R451; 16:R697). -/
def State.selfRefresh (s : State) : Bool := s.pstate == .retention || s.pstate == .heartOnly || s.pstate == .quench

/-- A line request lies within one line of HBM (R424). -/
def lineOk (a n : Nat) : Bool := 0 < n && a % 256 + n ≤ 256 && a + n ≤ hbmBytes

/-- The completion of a line request leaves the device's caches. -/
def State.reply (r : State × LineRes) : State := r.1.emit (.lineReply r.2.status (dmaFlags r.2.flags) r.2.bytes)

/-- A read line request; one that hits a line whose own SRAM fails finds it faulty (18:R746). -/
def execLineRequestRead (cls : BitVec 3) (addr n : Nat) (hbmBad sramBad : Bool) (s : State) : Res :=
  .next (if s.dataPlane && lineOk addr n then
    let c := s.cache (hbmDie addr)
    match (if c.en && sramBad && !s.inTest addr then c.find addr else none) with
    | some l => State.reply (s.lineFails (hbmDie addr) l.set_ l.way, LineRes.fail stMemory)
    | none => State.reply (s.lineRead cls addr n hbmBad)
  else s)

/-- A write line request: made after the line it hits has turned out faulty, where it has. -/
def execLineRequestWrite (cls : BitVec 3) (addr : Nat) (d : LineData) (s : State) : Res :=
  .next (if s.dataPlane && lineOk addr d.bytes.length then State.reply ((s.meetLine addr d.sramBad).lineWrite cls addr d.bytes) else s)

/-- An atomic line request, likewise. -/
def execAtomicLineRequest (cls : BitVec 3) (op : AtomicOp) (addr : Nat) (d : LineData) (s : State) : Res :=
  .next (if s.dataPlane && lineOk addr d.bytes.length then State.reply ((s.meetLine addr d.sramBad).atomicLine cls op addr d.bytes) else s)

end Sys2Proof.Machine
end

