-- ==== Sys2Proof/Machine/Memory.lean ====
section
/-! DEFINITION. Control of the shared caches (10:R431 to R437), patrol (10:R421; 18:R742 to R746), HBM temperature (10:R450), and the
traffic generators (10:R452 to R455). -/

namespace Sys2Proof.Machine

/-! ## SC_CTRL -/

/-- Every dirty line is written back and stays, clean (R431, R440). -/
def State.flushLines (s : State) (d : DieId) : State :=
  let s := ((s.cache d).lines.filter Line.dirty).foldl State.writeBack s
  let c := s.cache d
  s.setCache d { c with lines := c.lines.map (fun l => { l with dirty := false }) }

/-- EN takes a value (R434): DWD and STALE record how. -/
def Cache.setEn (c : Cache) (v : Bool) : Cache :=
  if v == c.en then c
  else if v then { c with en := true, stale := c.stale || (c.wwd && !c.lines.isEmpty) }
  else { c with en := false, dwd := c.dwd || c.dirtyCount != 0 }

/-- The waiting change of EN, once no walk is left (R433). -/
def Cache.endWalks (c : Cache) : Cache :=
  if c.flush || c.inv then c
  else match c.enNext with
    | some v => { c.setEn v with enNext := none }
    | none => c

/-- A write of SC_CTRL (R432, R433): the walk of FLUSH acts first; that of INV when no FLUSH is left. -/
def State.scCtrl (s : State) (d : DieId) (v : Word) : State :=
  let c := s.cache d
  if !s.ctxs.isEmpty || c.flush || c.inv then s.setCache d { c with wrej := true }
  else
    let fl := v.getLsbD 6
    let iv := v.getLsbD 7
    let s := if fl then s.flushLines d else s
    let c := s.cache d
    let c := { c with flush := fl, inv := iv, enNext := some (v.getLsbD 0) }
    let c := if iv && !fl then { c with lines := [] } else c
    s.setCache d c.endWalks

def execScCtrlFlush (d : DieId) (v : Word) (s : State) : Res := .next (s.scCtrl d (v ||| 0x40#64))
def execScCtrlInv (d : DieId) (v : Word) (s : State) : Res := .next (s.scCtrl d (v ||| 0x80#64))
def execScCtrlEnable (d : DieId) (v : Word) (s : State) : Res := .next (s.scCtrl d v)

/-- The walk in progress ends (R435). -/
def Cache.walkEnds (c : Cache) : Cache :=
  if c.flush then
    let c := { c with flush := false, dwd := c.dwd && c.dirtyCount != 0 }
    (if c.inv then { c with lines := [] } else c).endWalks
  else if c.inv then { c with inv := false, dwd := false, wwd := false, stale := false }.endWalks
  else c

def execScWalkComplete (d : DieId) (s : State) : Res := .next (s.setCache d (s.cache d).walkEnds)

/-! ## Patrol -/

/-- Patrol visits a place of a memory: a place below the last one begins the next pass. -/
def Patrol.visit (p : Patrol) (at_ : Nat) : Patrol :=
  if at_ < p.last then { last := at_, cur := [], prev := p.cur } else { p with last := at_ }

/-- A unit in which patrol corrected errors: it was also noted in the pass before, or is noted now. -/
def Patrol.note (p : Patrol) (u : Nat) : Patrol × Bool :=
  if p.prev.contains u then (p, true) else ({ p with cur := addMark p.cur u }, false)

/-- A row in which patrol corrected errors in two passes begins anew once it has been spared. -/
def Patrol.noteRow (p : Patrol) (u : Nat) : Patrol × Bool :=
  let (q, twice) := p.note u
  (if twice then { q with prev := q.prev.filter (· != u) } else q, twice)

/-- A core's own memory found uncorrectable at a word: the word is marked. -/
def Core.markWord (k : Core) (m : MemKind) (off : Nat) : Core :=
  let w := off / 8 * 8
  match m with
  | .scratchpad => { k with badSpad := addMark k.badSpad w }
  | .imem => { k with badImem := addMark k.badImem w }
  | .dmem => { k with badDmem := addMark k.badDmem w }
  | _ => k

def Core.isMarked (k : Core) (m : MemKind) (off : Nat) : Bool :=
  (match m with
    | .scratchpad => k.badSpad
    | .imem => k.badImem
    | _ => k.badDmem).contains (off / 8 * 8)

/-- A word of scratchpad is found uncorrectable: one that had no mark is new to its row. -/
def State.foundBad (s : State) (c : CoreId) (off : Nat) : State :=
  let w := off / 8 * 8
  let s := if (s.core c).isMarked .scratchpad off then s
    else { s with rep := { s.rep with movedMarks := s.rep.movedMarks.set c (s.rep.movedMarks[c].filter (· != w)) } }
  s.updCore c (·.markWord .scratchpad off)

/-- R421, R742, R745: scratchpad patrol of one word. -/
def State.patrolSpad (s : State) (c : CoreId) (off : Nat) (found : ErrKind) : State :=
  let p := s.rep.patrolS[c].visit off
  let s := { s with rep := { s.rep with patrolS := s.rep.patrolS.set c p } }
  match found with
  | .clean => s
  | .corrected =>
    if (s.core c).isMarked .scratchpad off then s
    else
      let (p, twice) := p.noteRow (off / 4096)
      let s := { s with rep := { s.rep with patrolS := s.rep.patrolS.set c p } }
      let s := s.countCorr .scratchpad (devAddr .scratchpad c off)
      if twice then s.spareRow c (off / 4096) else s
  | .uncorrectable => (s.foundBad c off).noteRead c .scratchpad off

/-- Patrol of DMEM or IMEM (R742, R743). -/
def State.patrolCore (s : State) (m : MemKind) (c : CoreId) (off : Nat) (found : ErrKind) : State :=
  match found with
  | .clean => s
  | .corrected => if (s.core c).isMarked m off then s else s.countCorr m (devAddr m c off)
  | .uncorrectable => (s.updCore c (·.markWord m off)).countUnc m (devAddr m c off)

/-- Patrol of a shared cache: `at_` is 16 × set + way. -/
def State.patrolCache (s : State) (d : DieId) (at_ : Nat) (found : ErrKind) : State :=
  let p := s.rep.patrolC[d].visit at_
  let s := { s with rep := { s.rep with patrolC := s.rep.patrolC.set d p } }
  let addr := match (s.cache d).at_ (at_ / 16) (at_ % 16) with
    | some l => lineAddr l.set_ l.tag
    | none => 0
  match found with
  | .clean => s
  | .corrected =>
    let (p, twice) := p.note at_
    let s := { s with rep := { s.rep with patrolC := s.rep.patrolC.set d p } }
    let s := s.countCorr .scache addr
    if twice then s.retireWay d (at_ / 16) (at_ % 16) else s
  | .uncorrectable => s.lineFails d (at_ / 16) (at_ % 16)

/-- HBM patrol of one codeword. -/
def State.patrolHbm (s : State) (a : Nat) (found : ErrKind) : State :=
  match found with
  | .clean => s
  | .corrected => s.countCorr .hbm a
  | .uncorrectable => ({ s with hbmBad := addMark s.hbmBad (a / 64 * 64) }).countUnc .hbm a

def execScratchpadPatrolScrub (c : CoreId) (offset : Nat) (found : ErrKind) (s : State) : Res :=
  .next (if s.dataPlane && offset < spadBytes then s.patrolSpad c offset found else s)

/-- Patrol of the other memories: a core's DMEM or IMEM by byte offset, a die's cache by 16 × set + way, HBM by address. -/
def execMemoryPatrol (k : MemKind) (unit addr : Nat) (found : ErrKind) (s : State) : Res :=
  .next (if !s.dataPlane then s
    else match k with
    | .dmem => if addr < 0x40000 && unit < 32 then s.patrolCore .dmem (Fin.ofNat 32 unit) addr found else s
    | .imem => if addr < 0x100000 && unit < 32 then s.patrolCore .imem (Fin.ofNat 32 unit) addr found else s
    | .scache => if addr < 524288 && unit < 2 then s.patrolCache (Fin.ofNat 2 unit) addr found else s
    | .hbm => if addr < hbmBytes then s.patrolHbm addr found else s
    | .scratchpad => if addr < spadBytes && unit < 32 then s.patrolSpad (Fin.ofNat 32 unit) addr found else s)

/-! ## HBM temperature -/

/-- A whole tick has passed since a time: 488.28125 µs (00:R10). -/
def tickSince (now : Nat) (since : Option Nat) : Bool := match since with
  | some t => 1953125 ≤ 4 * (now - t)
  | none => false

/-- Since when a place has read at least 3 °C below its threshold. -/
def coolFrom (now : Nat) (cool : Bool) (since : Option Nat) : Option Nat :=
  if cool then (match since with
    | some t => some t
    | none => some now)
  else none

/-- R450: a sample of one stack. -/
def StackTemp.sample (k : StackTemp) (now : Nat) (t : Int) : StackTemp :=
  let dc := coolFrom now (t ≤ 82) k.dblCool
  let hc := coolFrom now (t ≤ 92) k.halfCool
  { temp := t, dblCool := dc, halfCool := hc,
    dbl := if 85 < t then true else k.dbl && !tickSince now dc,
    half := if 95 < t then true else k.half && !tickSince now hc }

/-- Every stack sampled, in order; hbmTemps past the list keep their sample. -/
def sampleStacks (now : Nat) : Nat → List Int → Vector StackTemp 8 → Vector StackTemp 8
  | _, [], v => v
  | i, t :: ts, v => sampleStacks now (i + 1) ts (if h : i < 8 then v.set i (v[i].sample now t) else v)

def execHbmTemperatureSample (temps : List Int) (s : State) : Res :=
  .next (if s.dataPlane then { s with hbmTemps := sampleStacks s.xtal 0 temps s.hbmTemps } else s)

/-! ## Traffic generators -/

def State.setHtg (s : State) (n : Fin 256) (h : Htg) : State := { s with htg := s.htg.set n h }

/-- The fields that a write of HTG_CTRL sets (R452). -/
def Htg.writeCtrl (h : Htg) (v : Word) : Htg :=
  { h with pattern := (v >>> 12).setWidth 4, mode := (v >>> 8).setWidth 2, raw := v.getLsbD 4 }

/-- The die of a device channel. -/
def htgDie (n : Fin 256) : DieId := if n.val < 128 then 0 else 1

/-- R453: a START is refused. -/
def State.htgRefused (s : State) (n : Fin 256) (h : Htg) : Bool :=
  !s.ctxs.isEmpty || (s.cache (htgDie n)).en || 4 ≤ h.pattern.toNat || h.mode == 3#2 ||
    !(h.begin_.toNat < h.end_.toNat) || 0xC00000 < h.end_.toNat

/-- A run writes the granules it covers. -/
def Htg.writes (h : Htg) : Bool := h.mode != 1#2

/-- A write of a generator reaches the die's HBM: WWD is set while EN is 0 (R434). -/
def State.htgWwd (s : State) (n : Fin 256) : State :=
  let c := s.cache (htgDie n)
  if c.en then s else s.setCache (htgDie n) { c with wwd := true }

/-- The start of a run (R454), and of its writes. -/
def State.htgStart (s : State) (n : Fin 256) (h : Htg) : State :=
  (if h.writes then s.htgWwd n else s).setHtg n { h with running := true, stop := false, errors := 0#32, ue := false, bytes := 0#64, word := 0#5, granule := 0#32 }

/-- A write of HTG_CTRL: while a run is in progress only STOP acts (R452, R453). -/
def State.htgCtrl (s : State) (n : Fin 256) (v : Word) : State :=
  let h := s.htg[n]
  if h.running then s.setHtg n { h with stop := h.stop || v.getLsbD 1 }
  else
    let h := h.writeCtrl v
    if !v.getLsbD 0 then s.setHtg n h
    else if s.htgRefused n h then s.setHtg n { h with rej := true }
    else
      let s := s.htgStart n h
      s.setHtg n { s.htg[n] with stop := v.getLsbD 1 }

def execHtgStart (chn : Fin 256) (v : Word) (s : State) : Res := .next (s.htgCtrl chn (v ||| 1#64))
def execHtgStop (chn : Fin 256) (v : Word) (s : State) : Res := .next (s.htgCtrl chn (v ||| 2#64))

/-- A run's granule: on the channel, at its place (R447). -/
def htgCovers (n : Fin 256) (lo hi : Nat) (line : Nat) : Bool :=
  hbmChannel (line * 256) == n && lo ≤ hbmGranule (line * 256) && hbmGranule (line * 256) < hi

/-- The `i`-th 8-byte word of a granule of a pattern (R452); how PRBS31 and the walking ones run, the manual leaves open. -/
def htgWord (pattern : BitVec 4) (seed : Word) (g i : Nat) : Word :=
  if pattern == 3#4 then seed else if pattern == 2#4 then natW g else Config.htgWord pattern.toNat seed g i

/-- The line of a channel's granule (R447). -/
def htgLine (n : Fin 256) (g : Nat) : Nat :=
  (n.val / 32 * stackBytes + g * 8192) / 256 + (n.val % 32 ^^^ g % 32)

/-- What a generator left in a granule: the words of its latest run there, when nothing has been written to it since. -/
def State.htgHolds (s : State) (n : Fin 256) (g : Nat) : Option HtgRun :=
  (s.htg[n].wrote.find? (fun r => r.lo ≤ g && g < r.hi)).filter (fun _ => (s.writtenKey (htgLine n g * 256)).isNone)

/-- The first word of a granule, as a generator left it, that is not what a check of another pattern or seed expects. -/
def State.htgDiffers (s : State) (n : Fin 256) (h : Htg) (g : Nat) : Option Nat :=
  (s.htgHolds n g).bind (fun r =>
    if r.pattern == h.pattern && r.seed == h.seed then none
    else (List.range 32).find? (fun i => htgWord r.pattern r.seed g i != htgWord h.pattern h.seed g i))

/-- The granules of a check-only run that hold something else, with the first word of each that differs. -/
def State.htgWrong (s : State) (n : Fin 256) (h : Htg) (g : Nat) : List (Nat × Nat) :=
  if h.mode != 1#2 || s.htg[n].wrote.isEmpty then []
  else (List.range g).filterMap (fun i => (s.htgDiffers n h (h.begin_.toNat + i)).map (fun w => (i, w)))

/-- The first `g` granules of a run written: their contents destroyed (R454: what an address's key makes of a pattern follows none,
19:R776), their codewords good, and SC_STAT.WWD set (R434). -/
def State.htgWrites (s : State) (n : Fin 256) (h : Htg) (g : Nat) : State :=
  if !h.writes || g == 0 then s
  else
    let gone (line : Nat) : Bool := htgCovers n h.begin_.toNat (h.begin_.toNat + g) line
    let s := (s.htgWwd n).setHtg n { s.htg[n] with wrote := ⟨h.pattern, h.seed, h.begin_.toNat, h.begin_.toNat + g⟩ :: s.htg[n].wrote }
    { s with hbmKeys := s.hbmKeys.filter (fun p => !gone p.1), hbmBad := s.hbmBad.filter (fun w => !gone (w / 256)) }

/-- A run that reads meets an uncorrectable codeword: the channel says so, or the run did not write and one is marked. -/
def State.htgMeets (s : State) (n : Fin 256) (h : Htg) (g : Nat) (unc : Bool) : Bool :=
  h.mode != 0#2 && (unc || (h.mode == 1#2 && s.hbmBad.any (fun w => htgCovers n h.begin_.toNat (h.begin_.toNat + g) (w / 256))))

/-- A run ends after `granules` granules, all of its range unless it was stopped: its results, and the contents it destroyed (R452, R454).
`errors` granules failed the check, the first of them the `first`-th of the run; those that hold what another pattern or seed wrote are among them. A
run of MODE 0b00 checks nothing. The effects of a run are taken at its end (log 153). -/
def State.htgDone (s : State) (n : Fin 256) (granules errors first firstWord : Nat) (unc : Bool) : State :=
  let h := s.htg[n]
  let total := h.end_.toNat - h.begin_.toNat
  let g := if h.stop then min granules total else total
  let wrong := s.htgWrong n h g
  let e := if h.mode == 0#2 then 0 else max wrong.length (min errors g)
  let at_ := min first (g - e)
  let own := wrong.head?.filter (fun p => p.1 ≤ at_)
  let passes := if h.mode == 2#2 then 2 else 1
  let h' := { h with
    running := false, stop := false, done := true, errors := BitVec.ofNat 32 e,
    ue := s.htgMeets n h g unc && !h.raw, bytes := BitVec.ofNat 64 (256 * g * passes),
    granule := if e == 0 then 0#32 else BitVec.ofNat 32 (h.begin_.toNat + (own.map Prod.fst).getD at_),
    word := if e == 0 then 0#5 else BitVec.ofNat 5 ((own.map Prod.snd).getD firstWord) }
  let s := s.htgWrites n h g
  s.setHtg n { h' with wrote := s.htg[n].wrote }

/-- A run that a reset ends has written its first granules; how many, the manual leaves open (R454). -/
def State.htgCut (s : State) (n : Fin 256) : State :=
  let h := s.htg[n]
  if !h.running then s
  else
    let (s, v) := s.draw
    s.htgWrites n h (Config.free v % (h.end_.toNat - h.begin_.toNat + 1))

def execHtgRunComplete (chn : Fin 256) (granules errors first firstWord : Nat) (unc : Bool) (s : State) : Res :=
  .next (if (s.htg[chn]).running && s.dataPlane then s.htgDone chn granules errors first firstWord unc else s)

end Sys2Proof.Machine
end

