-- ==== Sys2Proof/Machine/Walk.lean ====
section
/-! DEFINITION. Descriptors (11:R463, R464), their refusal reasons and start checks (11:R466 to R476, R481), the device address space
(01:R51 to R53), and the accesses of a walk (11:R466 to R471, R493). -/

namespace Sys2Proof.Machine

/-! ## The device address space (01:R51) -/

/-- What a device address is. -/
inductive DevPlace where
  | hbm
  | mem (m : MemKind) (c : CoreId) (off : Nat)
  | window (w : Nat) (off : Nat)
  | none
  deriving DecidableEq, Repr

def windowBase : Nat := 0x100000000000
def windowBytes : Nat := 0x4000000000

def devPlace (a : Nat) : DevPlace :=
  if a < hbmBytes then .hbm
  else if 0x10000000000 ≤ a && a < 0x10100000000 then
    let o := a - 0x10000000000
    if o % 0x8000000 < spadBytes then .mem .scratchpad (Fin.ofNat 32 (o / 0x8000000)) (o % 0x8000000) else .none
  else if 0x10100000000 ≤ a && a < 0x10104000000 then
    let o := a - 0x10100000000
    let r := o % 0x200000
    if r < 0x100000 then .mem .imem (Fin.ofNat 32 (o / 0x200000)) r
    else if r < 0x140000 then .mem .dmem (Fin.ofNat 32 (o / 0x200000)) (r - 0x100000)
    else .none
  else if windowBase ≤ a && a < windowBase + 64 * windowBytes then
    .window ((a - windowBase) / windowBytes) ((a - windowBase) % windowBytes)
  else .none

/-- The first address after the range that holds `a`. -/
def rangeEnd (a : Nat) : Nat :=
  match devPlace a with
  | .hbm => hbmBytes
  | .mem .scratchpad _ off => a - off + spadBytes
  | .mem .imem _ off => a - off + 0x100000
  | .mem _ _ off => a - off + 0x40000
  | .window _ off => a - off + windowBytes
  | .none => a

/-- The parts of the bytes from `a` on that lie in one range each; a part outside every range ends the list. -/
def rangeParts : Nat → Nat → Nat → List (Nat × Nat)
  | 0, a, n => [(a, n)]
  | f + 1, a, n =>
    if n == 0 then []
    else
      let e := rangeEnd a
      if a + n ≤ e || e == a then [(a, n)] else (a, e - a) :: rangeParts f e (n - (e - a))

/-- Every byte lies in a range of R51. -/
def inRanges (a n : Nat) : Bool := (rangeParts 66 a n).all (fun p => devPlace p.1 != .none && p.1 + p.2 ≤ rangeEnd p.1)

/-- R53, R71, R473, R536: the context may make the access to bytes of one range. -/
def Context.mayReach (x : Context) (wr : Bool) (a n : Nat) : Bool :=
  match devPlace a with
  | .hbm => spansGrant x.hbm wr a n
  | .mem .imem c off => x.mask.getLsbD c.val && !(wr && 0xF0000 < off + n)
  | .mem _ c _ => x.mask.getLsbD c.val
  | .window w _ => x.outs.any (fun o => o.win.toNat == w)
  | .none => false

def Context.owns (x : Context) (wr : Bool) (a n : Nat) : Bool := (rangeParts 66 a n).all (fun p => x.mayReach wr p.1 p.2)

/-! ## The descriptor's fields -/

/-- A descriptor's words decoded. -/
structure Tile where
  opn : Nat
  dims : Nat
  esz : Nat
  xpose : Bool
  cvt : Bool
  sfmt : Nat
  dfmt : Nat
  rnd : Nat
  cls : BitVec 3
  shost : Bool
  dhost : Bool
  chost : Bool
  rsv : Nat
  src : Nat
  dst : Nat
  n2 : Nat
  n1 : Nat
  len0 : Nat
  sstr2 : Int
  sstr1 : Int
  dstr2 : Int
  dstr1 : Int
  cpl : Nat
  tag : Word
  deriving DecidableEq, Repr

def tileOf (w : Vector Word 8) : Tile :=
  let f (i : Fin 8) (lo n : Nat) : Nat := bitsN (w[i]).toNat lo n
  { opn := f 0 60 4, dims := f 0 57 3, esz := f 0 54 3, xpose := f 0 53 1 == 1, cvt := f 0 52 1 == 1, sfmt := f 0 48 4,
    dfmt := f 0 44 4, rnd := f 0 41 3, cls := BitVec.ofNat 3 (f 0 38 3), shost := f 0 37 1 == 1, dhost := f 0 36 1 == 1,
    chost := f 0 35 1 == 1, rsv := f 0 0 35, src := w[1].toNat, dst := w[2].toNat, n2 := f 3 48 16, n1 := f 3 32 16,
    len0 := f 3 0 32, sstr2 := toSigned 32 (f 4 32 32), sstr1 := toSigned 32 (f 4 0 32), dstr2 := toSigned 32 (f 5 32 32),
    dstr1 := toSigned 32 (f 5 0 32), cpl := w[6].toNat, tag := w[7] }

/-- Source and destination element widths in bits (R467). -/
def Tile.sw (t : Tile) : Nat := match t.esz with
  | 0 => 8
  | 1 => 16
  | 2 => 32
  | 3 => 64
  | _ => 4

def Tile.dw (t : Tile) : Nat := if t.cvt then ((cfmtOf t.dfmt).map CFmt.width).getD 8 else t.sw

def Tile.rows (t : Tile) : Nat := if t.dims == 1 then 1 else t.n1
def Tile.planes (t : Tile) : Nat := if t.dims == 3 then t.n2 else 1
def Tile.atomic (t : Tile) : Bool := 1 ≤ t.opn && t.opn ≤ 5
def Tile.empty (t : Tile) : Bool := t.len0 == 0 || t.rows == 0 || t.planes == 0

/-- Elements of a source row. -/
def Tile.elems (t : Tile) : Nat := t.len0 * 8 / t.sw

/-- An address moved by a signed offset, modulo 2^64. -/
def addOff (a : Nat) (o : Int) : Nat := (((a : Int) + o) % 2 ^ 64).toNat

def Tile.srcRow (t : Tile) (p r : Nat) : Nat := addOff t.src (p * t.sstr2 + r * t.sstr1)

/-- A destination row: of `rows` rows, or with XPOSE of one row for each source element. -/
def Tile.dstRow (t : Tile) (p j : Nat) : Nat := addOff t.dst (p * t.dstr2 + j * t.dstr1)

def Tile.dstRows (t : Tile) : Nat := if t.xpose then t.elems else t.rows

/-- The bits of a destination row. -/
def Tile.dstBits (t : Tile) : Nat := (if t.xpose then t.n1 else t.elems) * t.dw

/-! ## Refusals (R481) -/

/-- The pairs of formats that DMA converts (03:R163). -/
def dmaPair (s d : Nat) : Bool :=
  let flt (x : Nat) : Bool := 1 ≤ x && x ≤ 5
  (flt s && flt d && s != d) || (s == 0xA && d == 0x9) || (s == 0x9 && d == 0xA) || (s == 0x1 && d == 0x9)

def inWindow (a : Nat) : Bool := match devPlace a with
  | .window _ _ => true
  | _ => false

/-- Every row of one side, as (address, bytes). -/
def Tile.sideRows (t : Tile) (dest : Bool) : List (Nat × Nat) :=
  (List.range t.planes).flatMap (fun p =>
    if dest then (List.range t.dstRows).map (fun j => (t.dstRow p j, t.dstBits / 8))
    else (List.range t.rows).map (fun r => (t.srcRow p r, t.len0)))

/-- Some row of a side begins in a window range, or every row of the destination lies in HBM. Where a tile's rows lie apart, R471 and R472
are read of every row (log 154). -/
def Tile.inWindows (t : Tile) (dest : Bool) : Bool :=
  !(if dest then t.dhost else t.shost) && ((inWindow (if dest then t.dst else t.src)) || (t.sideRows dest).any (fun r => inWindow r.1))

def Tile.atomicPlace (t : Tile) : Bool :=
  (t.dst < hbmBytes || (t.opn == 5 && inWindow t.dst)) &&
    (t.sideRows true).all (fun r => r.1 + r.2 ≤ hbmBytes || (t.opn == 5 && inWindow r.1) || devPlace r.1 == .none)

def Tile.refusals (t : Tile) (fromCtx : Bool) : List (Nat × Bool) :=
  let noZ (b : Bool) (v : Int) : Bool := !b && v != 0
  [(1, t.rsv != 0),
   (2, 6 ≤ t.opn || t.dims == 0 || 4 ≤ t.dims || 5 ≤ t.esz ||
       noZ (t.dims == 3) t.n2 || noZ (t.dims != 1) t.n1 || noZ (t.dims == 3) t.sstr2 || noZ (t.dims == 3) t.dstr2 ||
       noZ (t.dims != 1) t.sstr1 || noZ (t.dims != 1) t.dstr1),
   (3, if t.cvt then !dmaPair t.sfmt t.dfmt || 2 ≤ t.rnd || ((cfmtOf t.sfmt).map CFmt.width).getD 0 != t.sw
       else t.sfmt != 0 || t.dfmt != 0 || t.rnd != 0),
   (4, t.xpose && (t.dims == 1 || (t.cvt && (t.sfmt == 6 || t.sfmt == 7 || t.dfmt == 6 || t.dfmt == 7)) || t.n1 * t.dw % 8 != 0)),
   (5, (t.shost && t.dhost) || (t.inWindows false && t.inWindows true)),
   (6, t.atomic && (t.cvt || t.xpose || (if t.opn == 1 || t.opn == 3 then t.esz != 2 else t.esz != 3) || t.dhost || !t.atomicPlace)),
   (7, fromCtx && t.cls == 7#3),
   (8, !t.xpose && t.len0 * t.dw % t.sw != 0)]

/-- The lowest reason that applies. -/
def Tile.refusal (t : Tile) (fromCtx : Bool) : Option Nat := ((t.refusals fromCtx).find? Prod.snd).map Prod.fst

/-- R470, R471: the alignment rules. -/
def Tile.aligned (t : Tile) : Bool :=
  let se := if t.opn == 5 then 32 else max 1 (t.sw / 8)
  let de := if t.opn == 5 then 32 else max 1 (t.dw / 8)
  let ok (e : Nat) (v : Int) : Bool := v % e == 0
  ok se t.src && ok se t.sstr1 && ok se t.sstr2 && ok de t.dst && ok de t.dstr1 && ok de t.dstr2 && t.len0 % se == 0

/-- The device-address rows with the access each makes. -/
def Tile.devRows (t : Tile) : List (Bool × (Nat × Nat)) :=
  (if t.shost then [] else (t.sideRows false).map (fun r => (false, r))) ++
    (if t.dhost then [] else (t.sideRows true).map (fun r => (true, r)))

/-- R476: the first check that fails, with its status and reason; none when the walk begins. `fromCtx`: a core or a DMA command of a context
queued it; when that context has left, it owns nothing. Any other descriptor is a device transfer. -/
def Tile.check (t : Tile) (x : Option Context) (fromCtx : Bool) : Option (BitVec 8 × Nat) :=
  match t.refusal fromCtx with
  | some r => some (stRefused, r)
  | none =>
    if t.empty then some (stOk, 0)
    else if !t.aligned then some (stAlignment, 0)
    else if !(t.devRows.all (fun r => inRanges r.2.1 r.2.2)) then some (stAddress, 0)
    else match x with
      | none => if fromCtx then some (stOwnership, 0) else none
      | some x => if t.devRows.all (fun r => x.owns r.1 r.2.1 r.2.2) then none else some (stOwnership, 0)

/-! ## Accesses (R493) -/

/-- Source bytes that are moved together: an element, a byte of two 4-bit elements, or a wide record. -/
def Tile.unit (t : Tile) : Nat := if t.opn == 5 then 32 else max 1 (t.sw / 8)

/-- Two source bytes share each destination byte (03:R163: INT8 to INT4). -/
def Tile.pairsElems (t : Tile) : Bool := t.sw == 8 && t.dw == 4 && !t.xpose

/-- Transposed 4-bit destinations: two rows share each destination byte. -/
def Tile.pairsRows (t : Tile) : Bool := t.xpose && t.dw == 4

/-- The destination runs (address, bytes) of the unit at byte `b` of row `r`: a byte that two units or rows share is that of both. -/
def Tile.unitDst (t : Tile) (p r b : Nat) : List (Nat × Nat) :=
  let k := b * 8 / t.sw
  let n := max 1 (t.unit * 8 / t.sw)
  if t.xpose then (List.range n).map (fun i => (t.dstRow p (k + i) + r * t.dw / 8, max 1 (t.dw / 8)))
  else [(t.dstRow p r + k * t.dw / 8, max 1 (n * t.dw / 8))]

/-- All bytes of the runs lie in the 256-byte block `blk`. -/
def inBlock (blk : Nat) (rs : List (Nat × Nat)) : Bool := rs.all (fun r => r.1 / 256 == blk && (r.1 + r.2 - 1) / 256 == blk)

/-- The bytes, beyond a first unit, that the access at `b` takes in. -/
def Tile.runMore (t : Tile) (p r sb db : Nat) : Nat → Nat → Nat
  | 0, _ => 0
  | f + 1, b =>
    if b < t.len0 && (t.srcRow p r + b) / 256 == sb && inBlock db (t.unitDst p r b) then t.unit + t.runMore p r sb db f (b + t.unit)
    else 0

/-- The length of the access at walk position (p, r, b): at least one unit, and as many as share the blocks of both sides. -/
def Tile.accessLen (t : Tile) (p r b : Nat) : Nat :=
  let d := t.unitDst p r b
  let sb := (t.srcRow p r + b) / 256
  let db := (d.head?.map (fun x => x.1 / 256)).getD 0
  let one := t.unit
  min (t.len0 - b) (if inBlock db d then one + t.runMore p r sb db 256 (b + one) else one)

/-- The source run that an access of `n` bytes reads, within one block. -/
def Tile.reads (t : Tile) (p r b n : Nat) : Nat × Nat := (t.srcRow p r + b, n)

/-- One element moved or converted. -/
def Tile.elem (t : Tile) (v : Nat) : Nat × Flags :=
  if !t.cvt then (v, 0#10)
  else match cfmtOf t.sfmt, cfmtOf t.dfmt with
    | some sf, some df => convertElem sf df (sf.value v) (RMode.ofCode t.rnd) 0
    | _, _ => (v, 0#10)

def Tile.elemsOf (t : Tile) (bs : List Byte) : List Nat × Flags :=
  let rs := (unpack t.sw (bs.length * 8 / t.sw) bs).map t.elem
  (rs.map Prod.fst, rs.foldl (fun f x => f ||| x.2) 0#10)

/-- The source bytes whose destination bytes the access writes: not a last one that shares its byte with the next. -/
def Tile.whole (t : Tile) (bs : List Byte) : List Byte := if t.pairsElems && bs.length % 2 == 1 then bs.dropLast else bs

/-- The bytes that an access leaves for the next: one that shares its destination byte with the next, or those of the first of two rows that share
theirs. `carry` is what the access before left. -/
def Tile.carryOn (t : Tile) (r b : Nat) (carry bs : List Byte) : List Byte :=
  if t.pairsElems then
    let l := (if b == 0 then [] else carry) ++ bs
    if l.length % 2 == 1 then l.drop (l.length - 1) else []
  else if t.pairsRows then (if r % 2 == 0 then (if b == 0 then [] else carry) ++ bs else carry)
  else []

/-- The destination runs of an access, from the bytes carried to it and the bytes read, with the conditions raised. -/
def Tile.writes (t : Tile) (p r b n : Nat) (carry bs : List Byte) : List (Nat × List Byte) × Flags :=
  let got := if t.pairsElems && b != 0 then carry ++ bs else bs
  let k := (b + bs.length - got.length) * 8 / t.sw
  if t.atomic then ([(t.dstRow p r + b, bs)], 0#10)
  else if t.pairsRows then
    if r % 2 == 0 then ([], (t.elemsOf bs).2)
    else
      let (lo, f) := t.elemsOf ((carry.drop b).take n)
      let (hi, g) := t.elemsOf bs
      let put (i : Nat) (x : Nat × Nat) : Nat × List Byte := (t.dstRow p (k + i) + r / 2, [BitVec.ofNat 8 (x.1 + 16 * x.2)])
      (((lo.zip hi).zipIdx).map (fun x => put x.2 x.1), f ||| g)
  else
    let (es, f) := t.elemsOf (t.whole got)
    if es.isEmpty then ([], f)
    else if t.xpose then
      ((es.zipIdx).map (fun x => (t.dstRow p (k + x.2) + r * t.dw / 8, leBytes (t.dw / 8) x.1)), f)
    else ([(t.dstRow p r + k * t.dw / 8, pack t.dw es)], f)

/-- Runs cut at the boundaries of aligned 256-byte blocks. -/
def cutRead : Nat → Nat × Nat → List (Nat × Nat)
  | 0, r => [r]
  | f + 1, (a, n) =>
    let m := 256 - a % 256
    if n ≤ m then [(a, n)] else (a, m) :: cutRead f (a + m, n - m)

def cutWrite : Nat → Nat × List Byte → List (Nat × List Byte)
  | 0, r => [r]
  | f + 1, (a, bs) =>
    let m := 256 - a % 256
    if bs.length ≤ m then [(a, bs)] else (a, bs.take m) :: cutWrite f (a + m, bs.drop m)

/-- The walk position after an access of `n` bytes; none at the end of the walk. -/
def Tile.after (t : Tile) (p r b n : Nat) : Option (Nat × Nat × Nat) :=
  if b + n < t.len0 then some (p, r, b + n)
  else if r + 1 < t.rows then some (p, r + 1, 0)
  else if p + 1 < t.planes then some (p + 1, 0, 0)
  else none

/-- BYTES_DONE at a walk position (R478). -/
def Tile.bytesAt (t : Tile) (p r b : Nat) : Nat := (p * t.rows + r) * t.len0 + b

/-- The cursor of a failing access (R493): back at the earlier element that shares a destination byte, in the row or in the partner row.
DEDUCED (log 155): in the first of two such rows nothing is written yet, and every position before the cursor must have been: the cursor goes
back to the row's start. -/
def Tile.cursor (t : Tile) (p r b : Nat) : Nat × Nat × Nat :=
  if t.pairsRows then (if r % 2 == 1 then (p, r - 1, b) else (p, r, 0))
  else if t.pairsElems && b % 2 == 1 then (p, r, b - 1)
  else (p, r, b)

end Sys2Proof.Machine
end

