-- ==== Sys2Proof/Machine/Send.lean ====
section
/-! DEFINITION. Sending on the fabric: virtual channels and credits (12:R515, R522), routes (12:R529 to R533), redirects (18:R756), and
the requests of a stream (12:R521, R523 to R526). -/

namespace Sys2Proof.Machine

/-- Message classes (12:R521). -/
def clsWrite : BitVec 4 := 0x0#4
def clsRead : BitVec 4 := 0x1#4
def clsWadd : BitVec 4 := 0x2#4
def clsSignal : BitVec 4 := 0x3#4
def clsTime : BitVec 4 := 0x4#4
def clsMgmt : BitVec 4 := 0x5#4

/-- Kinds of the MGMT messages that the manual gives no layout for (log 73). -/
def mgmtRedirect : Nat := 1
def mgmtStandby : Nat := 2
def mgmtTaken : Nat := 3
def mgmtSpdm : Nat := 4
def mgmtKeyUpdate : Nat := 5
def mgmtEnquiry : Nat := 6

/-- SPDM request codes (DSP0274 1.3), as kinds of requests and answers. -/
def spdmCertificate : Nat := 0x82
def spdmKeyExchange : Nat := 0xE4
def spdmFinish : Nat := 0xE5
def spdmKeyUpdate : Nat := 0xE9

/-- The virtual channel of a message (R522). -/
def vcOf (m : Msg) : Fin 8 :=
  if m.rsp then 3
  else match m.cls.toNat with
    | 1 => 1
    | 3 => 2
    | 4 => 4
    | 5 => 5
    | _ => 0

/-- A message's slots: its header and its data. -/
def slotsOf (m : Msg) : Nat := 1 + (m.data.length + 15) / 16

/-- The flits that carry so many slots, 14 each (R513). -/
def flitsOf (slots : Nat) : Nat := (slots + 13) / 14

/-- The 128 bits of a header slot (R521); LEN holds the status of a response. -/
def headerOf (m : Msg) : Nat :=
  fields [(0, 16, m.dest.toNat), (16, 16, m.src.toNat), (32, 4, m.cls.toNat), (36, 1, b2n m.rsp), (37, 4, m.hops.toNat), (41, 6, m.rwin.toNat),
    (48, 16, m.seq.toNat), (64, 16, m.epoch.toNat), (80, 38, m.offset.toNat), (118, 8, m.len.toNat)]

/-- The message that a header slot and its data spell. -/
def msgOf (h : Nat) (data : List Byte) : Msg :=
  { dest := BitVec.ofNat 16 (bitsN h 0 16), src := BitVec.ofNat 16 (bitsN h 16 16), cls := BitVec.ofNat 4 (bitsN h 32 4), rsp := bitN h 36,
    hops := BitVec.ofNat 4 (bitsN h 37 4), rwin := BitVec.ofNat 6 (bitsN h 41 6), seq := BitVec.ofNat 16 (bitsN h 48 16),
    epoch := BitVec.ofNat 16 (bitsN h 64 16), offset := BitVec.ofNat 38 (bitsN h 80 38), len := BitVec.ofNat 8 (bitsN h 118 8), data := data }

/-- The bytes of a message's slots: its header and its data, the last slot filled with zeros. -/
def bytesOf (m : Msg) : List Byte :=
  leBytes 16 (headerOf m) ++ m.data ++ List.replicate ((16 - m.data.length % 16) % 16) 0#8

/-- A filler slot: class NOP (R521). -/
def nopSlot : List Byte := leBytes 16 (fields [(32, 4, 0xF)])

/-- Slot bytes cut into flits of 14 slots, the last filled with NOP slots. -/
def flitSlots : Nat → List Byte → List (List Byte)
  | 0, _ => []
  | n + 1, bs =>
    let part := bs.take 224
    (part ++ (List.replicate ((224 - part.length) / 16) nopSlot).flatten) :: flitSlots n (bs.drop 224)

/-! ## The flit on the lanes (R513) -/

/-- CRC-32 of IEEE 802.3 over bytes. -/
def crc32 (bs : List Byte) : Nat := crcSteps (2 * bs.length) (leNat bs) 0xFFFFFFFF ^^^ 0xFFFFFFFF

/-- Bytes 0 to 11, which travel in clear. -/
def FlitOut.clear (f : FlitOut) : List Byte :=
  leBytes 2 f.lseq.toNat ++ leBytes 2 f.lack.toNat ++ [BitVec.ofNat 8 (b2n f.nak + 2 * b2n f.key + 4 * b2n f.idle), f.cvc.setWidth 8] ++
    leBytes 2 f.cred.toNat ++ List.replicate 4 0#8

/-- The 256 bytes of a flit: the clear bytes, the sealed slots with their tag, and the CRC over both. Before the keys stand nothing is sealed:
the tag is zero (log 157). -/
def FlitOut.bytes (f : FlitOut) : List Byte :=
  let body := f.clear ++ (match f.keyNo with
    | some k => leBytes 240 (Config.flitSeal k f.nonce f.clear f.slots)
    | none => f.slots ++ List.replicate 16 0#8)
  body ++ leBytes 4 (crc32 body)

/-- The flits of the retry buffer (R514). -/
def retryFlits (l : LinkId) : Nat := if l.val < 32 then 1024 else 256

def State.link (s : State) (l : LinkId) : Link := s.links[l]

def State.setLink (s : State) (l : LinkId) (x : Link) : State := { s with links := s.links.set l x }

/-- A message between the ends of a link: the only kind that crosses in ATTEST (R508, R516). -/
def Msg.ofLink (m : Msg) : Bool := m.cls == clsMgmt && m.dest == 0xFFFF#16

/-- The link may start a message: it is UP, or in ATTEST for one between its ends, holds the credits, and its retry buffer has room (R514,
R515). -/
def Link.canSend (k : Link) (l : LinkId) (m : Msg) : Bool :=
  (k.st == .up || (k.st == .attest && Msg.ofLink m)) && slotsOf m ≤ (k.credits[vcOf m]).toNat && k.unacked.length + flitsOf (slotsOf m) ≤ retryFlits l

/-- The slots of credit that a flit returns: those of the first virtual channel that has some (R515). -/
def Link.returns (k : Link) : BitVec 3 × BitVec 16 :=
  match (List.finRange 8).find? (fun v => 0 < k.freed[v]) with
  | some v => (BitVec.ofNat 3 v.val, BitVec.ofNat 16 (min k.freed[v] 0xFFFF))
  | none => (0#3, 0#16)

/-- The flit that a link sends now (R513, R518). -/
def Link.flit (k : Link) (nak idle : Bool) (lseq : BitVec 16) (slots : List Byte) : FlitOut :=
  { lseq := lseq, lack := k.rxSeq, nak := nak, key := k.txKey, idle := idle, cvc := k.returns.1, cred := k.returns.2, slots := slots,
    keyNo := if k.keyed then some k.txKeyNo else none,
    nonce := Config.keySalt k.txKeyNo ++ BitVec.ofNat 64 k.txSlot }

/-- A link that has sent a flit: its slot counter has advanced, and the credit is returned. -/
def Link.sent (k : Link) : Link :=
  let (v, c) := k.returns
  { k with txSlot := k.txSlot + 1, sentUs := k.sentUs + 1,
           freed := k.freed.set v.toNat (k.freed[v.toNat]'(by have := v.isLt; omega) - c.toNat) (by have := v.isLt; omega) }

/-- A flit goes out on a link. -/
def State.sendFlit (s : State) (l : LinkId) (nak idle : Bool) (lseq : BitVec 16) (slots : List Byte) : State :=
  let k := s.link l
  (s.setLink l k.sent).emit (.flit l (k.flit nak idle lseq slots))

/-- An idle flit, which carries the last LSEQ sent, LACK and credit. -/
def State.sendIdle (s : State) (l : LinkId) (nak : Bool) : State :=
  s.sendFlit l nak true (s.link l).txSeq (List.replicate 224 0#8)

/-- Idle flits acknowledge what has arrived and return the credit that it freed: one at least, `n` at most. -/
def State.ackFlits (s : State) (l : LinkId) : Nat → State
  | 0 => s
  | n + 1 =>
    let s := s.sendIdle l false
    if (s.link l).freed.any (fun c => 0 < c) then s.ackFlits l n else s

/-- A flit of message slots joins the retry buffer and goes out (R514). -/
def State.sendSlots (s : State) (l : LinkId) (slots : List Byte) : State :=
  let k := s.link l
  let q := k.txSeq + 1#16
  (s.setLink l { k with txSeq := q, unacked := k.unacked ++ [q], buf := k.buf ++ [slots] }).sendFlit l false false q slots

/-- A message goes out in flits of its own. -/
def State.sendFlits (s : State) (l : LinkId) (m : Msg) : State :=
  (flitSlots (flitsOf (slotsOf m)) (bytesOf m)).foldl (fun s c => s.sendSlots l c) (s.emit (.message (some l) m))

/-- The device's direction takes its new key: the flit after KEY_UPDATE inverts CTL.KEY (R519). -/
def Link.switchKey (k : Link) : Link := match k.txNext with
  | some n => { k with txKey := !k.txKey, txSlot := 0, txKeyNo := n, txNext := none }
  | none => k

/-- A message starts on a link: it takes its credit, and goes out; its virtual channel is not without credit. -/
def State.startMsg (s : State) (l : LinkId) (m : Msg) : State :=
  let k := s.link l
  let v := vcOf m
  let s := (s.setLink l { k with credits := k.credits.set v (k.credits[v] - BitVec.ofNat 16 (slotsOf m)), starved := k.starved.set v none }).sendFlits l m
  if Msg.ofLink m && m.data.take 8 == leBytes 8 mgmtKeyUpdate then s.setLink l (s.link l).switchKey else s

/-- The messages queued on a link start as far as credits and the buffer allow; a virtual channel keeps its order. -/
def State.startQueued (s : State) (l : LinkId) : List Msg → State
  | [] => s
  | m :: ms =>
    let k := s.link l
    if k.canSend l m && !(k.queue.any (fun x => vcOf x == vcOf m)) then
      (State.startQueued (s.startMsg l m) l ms)
    else State.startQueued (s.setLink l { k with queue := k.queue ++ [m] }) l ms

/-- Since when each virtual channel has had a message waiting that its credit does not cover (R509). -/
def Link.starve (k : Link) (now : Nat) : Link :=
  { k with starved := Vector.ofFn (fun (v : Fin 8) =>
      if (k.queue.find? (fun m => vcOf m == v)).any (fun m => (k.credits[v]).toNat < slotsOf m) then some (k.starved[v].getD now) else none) }

def State.noteStarved (s : State) (l : LinkId) : State := s.setLink l ((s.link l).starve s.xtal)

/-- What waits on a link starts as far as it may. -/
def State.drainLink (s : State) (l : LinkId) : State :=
  let k := s.link l
  ((s.setLink l { k with queue := [] }).startQueued l k.queue).noteStarved l

/-- A message is put on a link. -/
def State.push (s : State) (l : LinkId) (m : Msg) : State := (s.startQueued l [m]).noteStarved l

/-! ## Routes -/

/-- The links of a destination, primary first (R531). -/
def State.routeLinks (s : State) (dest : BitVec 16) : List LinkId :=
  match s.settings with
  | some g => match g.routes.find? (fun r => r.dest == dest) with
    | some r => r.links
    | none => []
  | none => []

/-- The first link of the destination's entry that is UP (R532). A draining feed's links take no new messages (13:R574). -/
def State.takesMessages (s : State) (l : LinkId) : Bool :=
  (s.link l).st == .up && !(l.val < 32 && (s.feeds[Fin.ofNat 4 (l.val / 8)]).st == .draining)

def State.route (s : State) (dest : BitVec 16) : Option LinkId := (s.routeLinks dest).find? s.takesMessages

/-- A message is sent towards its destination: to the device itself it is delivered locally (R532); with no link UP it is lost. -/
def State.sendMsg (s : State) (m : Msg) : State :=
  if m.dest == s.deviceId then { s with fab := { s.fab with loop := s.fab.loop ++ [m] } }
  else match s.route m.dest with
    | some l => s.push l m
    | none => s

/-- The device that traffic for a window's destination goes to now (18:R756). -/
def State.redirected (s : State) (dest : BitVec 16) : BitVec 16 :=
  match s.rep.redirects.find? (fun r => r.1 == dest) with
  | some r => r.2
  | none => dest

/-! ## Streams -/

def State.stream (s : State) (p : Pasid) (w : BitVec 6) : Option Stream :=
  s.fab.streams.find? (fun x => x.pasid == p && x.win == w)

def State.setStream (s : State) (x : Stream) : State :=
  let l := s.fab.streams
  let l := if l.any (fun y => y.pasid == x.pasid && y.win == x.win)
    then l.map (fun y => if y.pasid == x.pasid && y.win == x.win then x else y) else l ++ [x]
  { s with fab := { s.fab with streams := l } }

/-- The destination of a stream is unreachable: no link of its route is UP (R526). -/
def State.unreachable (s : State) (dest : BitVec 16) : Bool :=
  dest != s.deviceId && !(s.routeLinks dest).any (fun l => (s.link l).st == .up)

/-- A stream has room for `n` more requests: 4,096 may be unacknowledged (R525). -/
def State.roomFor (s : State) (p : Pasid) (w : BitVec 6) (n : Nat) : Bool := match s.stream p w with
  | some x => x.unacked.length + n ≤ 4096
  | none => true

/-- A stream as it is, or begun: each that begins has an EPOCH that no stream of the device had before it (R527; 18:R757). -/
def State.openStream (s : State) (p : Pasid) (w : BitVec 6) : State × Stream := match s.stream p w with
  | some x => (s, x)
  | none => ({ s with fab := { s.fab with epoch := s.fab.epoch + 1#16 } }, ⟨p, w, s.fab.epoch, 0#16, [], 0, s.xtal⟩)

/-- A request joins its stream and is sent. -/
def State.request (s : State) (p : Pasid) (o : OutWin) (cls : BitVec 4) (offset : BitVec 38) (len : BitVec 8)
    (data : List Byte) (by_ : Sender) : State :=
  let (s, x) := s.openStream p o.win
  let m : Msg :=
    { dest := s.redirected o.dest, src := s.deviceId, cls := cls, rsp := false, hops := 0#4, rwin := o.rwin, seq := x.seq,
      epoch := x.epoch, offset := offset, len := len, data := data }
  let s := s.setStream { x with seq := x.seq + 1#16, unacked := x.unacked ++ [(m, by_)], advAt := if x.unacked.isEmpty then s.xtal else x.advAt }
  s.sendMsg m

/-! ## Management messages (R516, R522, R549; 18:R754, R756) -/

/-- A MGMT message: its kind and its words as data (log 73). -/
def State.mgmtMsg (s : State) (dest : BitVec 16) (kind : Nat) (body : List Word) : Msg :=
  { dest := dest, src := s.deviceId, cls := clsMgmt, rsp := false, hops := 0#4, rwin := 0#6, seq := 0#16, epoch := 0#16, offset := 0#38,
    len := BitVec.ofNat 8 (8 * body.length + 7), data := leBytes 8 kind ++ wordsBytes body }

/-- A management message goes on its route, and waits for one that is UP. -/
def State.sendMgmt (s : State) (m : Msg) : State :=
  if m.dest == s.deviceId || (s.route m.dest).isSome then s.sendMsg m else { s with fab := { s.fab with untold := s.fab.untold ++ [m] } }

/-- A link has come UP: what has waited for a route goes. -/
def State.tell (s : State) : State :=
  s.fab.untold.foldl (fun s m => s.sendMgmt m) { s with fab := { s.fab with untold := [] } }

/-- The offset field of a SIGNAL (R521): counter index and increment. -/
def signalOffset (idx : BitVec 8) (inc : BitVec 30) : BitVec 38 := inc ++ idx

end Sys2Proof.Machine
end

