-- ==== Sys2Proof/Machine/Dma.lean ====
section
/-! DEFINITION. DMA channels (11:R456 to R462, R476 to R504): DQUEUE and DWAIT, the start, accesses and completion of descriptors,
translation, translation faults, the fault ring's registers, and replayed descriptors (14:R606, R832). -/

namespace Sys2Proof.Machine

/-! ## DQUEUE and DWAIT -/

def chanOf (w : Word) : ChanId := Fin.ofNat 128 (w.toNat % 128)

/-- The channel is owned by the core's context (R460, R461). -/
def State.ownsChan (s : State) (c : CoreId) (ch : ChanId) : Bool :=
  match s.ctxOf c, (s.chan ch).owner with
  | some x, some p => x.pasid == p
  | _, _ => false

/-- The eight words of a 64-byte descriptor. -/
def descWords (bs : List Byte) : Vector Word 8 := Vector.ofFn (fun i => natW (leNat ((bs.drop (8 * i.val)).take 8)))

/-- A descriptor joins a channel's queue and takes the next ticket (R459). -/
def State.enqueue (s : State) (ch : ChanId) (w : Vector Word 8) (core : Option CoreId) (q : Option QueueId) (p : Pasid)
    (redo : Option LogD) : State :=
  s.updChan ch (fun x =>
    { x with ticket := x.ticket + 1#32,
             queue := x.queue ++ [⟨w, x.ticket + 1#32, core, q, p, redo, false, none⟩] })

/-- The next entry of the effect log that a replayed DQUEUE corresponds to (14:R606), if it completed or was ended. -/
def Core.takeRedo (k : Core) : Core × Option LogD :=
  match k.replayD with
  | [] => (k, none)
  | l :: rest => ({ k with replayD := rest }, if l.record.isSome || l.cursor.isSome then some l else none)

/-- DQUEUE's own effect, after its checks: the descriptor is copied, logged and queued. -/
def State.dqueue (s : State) (c : CoreId) (rd : Reg) (a : Nat) (ch : ChanId) : State :=
  let k := s.core c
  let t := (s.chan ch).ticket + 1#32
  let w := descWords (k.load a 64)
  let (k, redo) := k.takeRedo
  let k := { k with elogD := k.elogD ++ [(⟨ch, t, redo.bind LogD.record, redo.bind LogD.cursor⟩ : LogD)] }
  let s := { s with cores := s.cores.map (fun (x : Core) => { x with foreign := if x.foreign.contains ch then x.foreign else ch :: x.foreign }) }
  let s := s.setCore c (k.setReg rd (t.setWidth 64))
  s.enqueue ch w (some c) none (s.pasidOf c) redo

/-- DQUEUE. It is a sync point only where it finds 16 descriptors queued, and makes the check of 09:R400 only then (R462). -/
def execDqueue (c : CoreId) (rd ra rb : Reg) (s : State) : Res :=
  .next (s.instr c 4 (fun s =>
    let k := (s.core c).drain
    let s := s.setCore c k
    let a := k.reg ra
    let b := k.reg rb
    if a.toNat % 64 != 0 then (s, .trap .align a)
    else if dfsaBase < a.toNat + 64 then (s, .trap .bounds a)
    else if 128 ≤ b.toNat || !s.ownsChan c (chanOf b) then (s, .trap .illegal b)
    else if 16 ≤ (s.chan (chanOf b)).queue.length then (s, k.arithCheck.getD (.wait true))
    else match firstMark k.badDmem a.toNat 64 with
      | some w => (s, .memerr .dmem w (natW w))
      | none => (s.dqueue c rd a.toNat (chanOf b), .retire 0#10)))

/-- R461: the ticket lies ahead of the newest. -/
def ticketAhead (t newest : BitVec 32) : Bool := (t - newest) != 0#32 && (t - newest).toNat < 2 ^ 31

def execDwait (c : CoreId) (rd ra rb : Reg) (s : State) : Res :=
  .next (s.instr c 4 (fun s =>
    let k := (s.core c).drain
    let s := s.setCore c k
    match k.arithCheck with
    | some e => (s, e)
    | none =>
      let a := k.reg ra
      let b := k.reg rb
      let x := s.chan (chanOf a)
      let t : BitVec 32 := b.setWidth 32
      if 128 ≤ a.toNat || !s.ownsChan c (chanOf a) then (s, .trap .illegal a)
      else if 2 ^ 32 ≤ b.toNat || ticketAhead t x.ticket then (s, .trap .illegal b)
      else if (x.done - t).toNat < 2 ^ 31 then
        (s.setCore c (k.setReg rd (x.errs ++ x.done)), .retire 0#10)
      else (s, .wait true)))

/-! ## Ends of descriptors -/

def Chan.head (x : Chan) : Option Desc := x.queue.head?

/-- A core or a DMA command of a context queued the descriptor. -/
def Desc.fromCtx (d : Desc) : Bool := d.core.isSome || d.queue.isSome

/-- The head gets its completion; what the channel waited for is over. -/
def Chan.finish (x : Chan) (f : Fin_) : Chan :=
  match x.queue with
  | [] => x
  | d :: ds => { x with queue := { d with fin := some f } :: ds, wait := .none, got := [], xlat := [], carry := [], carryNext := [] }

/-- The completion of the head at the cursor. -/
def Chan.finAt (x : Chan) (t : Tile) (st : BitVec 8) : Fin_ :=
  let (p, r, b) := t.cursor x.plane x.row x.col
  ⟨st, 0#8, t.bytesAt p r b, p, r, b⟩

/-- A descriptor all of whose accesses are done (R479). -/
def Tile.finOk (t : Tile) : Fin_ := ⟨stOk, 0#8, t.bytesAt t.planes 0 0, 0, 0, 0⟩

/-- The ring entry of an event of a channel's head (R501). -/
def Chan.entry (x : Chan) (ch : ChanId) (kind detail : Nat) (wr : Bool) (addr time : Nat) : RingEntry :=
  match x.head with
  | none => ⟨some ch, ringWords kind detail ch.val 0#20 wr addr 0 0 0 0 0 time⟩
  | some d =>
    let f := d.fin.getD (x.finAt (tileOf d.words) 0#8)
    ⟨some ch, ringWords kind detail ch.val d.pasid wr addr d.ticket.toNat f.row f.plane f.col f.bytes time⟩

/-- The head ends at its cursor with an entry in the fault ring; when the entry is held, the channel waits for it (R497,
R502). -/
def State.endWith (s : State) (ch : ChanId) (t : Tile) (st : BitVec 8) (kind detail : Nat) (wr : Bool) (addr : Nat) : State :=
  let x := s.chan ch
  let (s, written) := s.ringPost (x.entry ch kind detail wr addr s.time)
  s.setChan ch (if written then x.finish (x.finAt t st) else { x.finish (x.finAt t st) with wait := .ringEnd })

/-- The head ends at its cursor with no entry. -/
def State.endAt (s : State) (ch : ChanId) (t : Tile) (st : BitVec 8) : State :=
  s.updChan ch (fun x => x.finish (x.finAt t st))

/-- A channel ready for its next head. -/
def Chan.next (x : Chan) : Chan :=
  { x with started := false, plane := 0, row := 0, col := 0, flags := 0#7, wait := .none, parks := [], got := [], xlat := [], carry := [], carryNext := [] }

/-- The answer that the head waits for is owed to a descriptor that ends: it is discarded when it comes (R496, R498). -/
def Chan.owe (x : Chan) : Chan :=
  match x.wait with
  | .ats _ => { x with owedAts := x.owedAts + 1 }
  | .prg _ => { x with owedPrg := x.owedPrg + 1 }
  | _ => x

/-- How an abort or reset ends the head: at the cursor of its completion, when its accesses are done, with the status of a failure that it has met; after the access in progress, when its
requests to a window are on their way, since the stream delivers them once (12:R524, R525, log 178); else the cursor itself. -/
def Chan.endCursor (x : Chan) (d : Desc) : Fin_ := match d.fin with
  | some f => if f.status == stOk then { f with status := stAborted } else f
  | none =>
    let t := tileOf d.words
    if x.wait == .remote && (t.shost || !inWindow (t.srcRow x.plane x.row + x.col)) then
      match t.after x.plane x.row x.col (t.accessLen x.plane x.row x.col) with
      | some (p, r, b) => { x with plane := p, row := r, col := b }.finAt t stAborted
      | none => { t.finOk with status := stAborted }
    else x.finAt t stAborted

/-- R498: a descriptor that is ended by an abort or reset: the head at its cursor, a queued one with nothing done. -/
def Chan.endDescs (x : Chan) (which : Desc → Bool) : Chan :=
  let ended (d : Desc) : Desc :=
    if which d && d.fin.isNone then { d with fin := some ⟨stAborted, 0#8, 0, 0, 0, 0⟩ } else d
  match x.queue with
  | [] => x
  | d :: ds =>
    let x := { x with queue := d :: ds.map ended }
    -- a record on its way through a window ends it
    if which d && !(d.fin.isSome && x.wait == .remote) then x.owe.finish (x.endCursor d) else x

/-- The logged cursor of a core's descriptor that R498 ends (14:R604). -/
def Core.logCursor (k : Core) (ch : ChanId) (ticket : BitVec 32) (bytes : Nat) : Core :=
  { k with elogD := k.elogD.map (fun l =>
      if l.ch == ch && l.ticket == ticket && l.record.isNone then
        { l with cursor := some (max bytes (l.cursor.getD 0)) } else l) }

/-- The access in progress on a channel was begun under a translation that an invalidation has removed (R490). -/
def Chan.under (x : Chan) (p : Pasid) (va n : Nat) : Bool :=
  x.wait == .remote && x.xlat.any (fun e => e.pasid == p && e.va < va + n && va < e.va + 2 ^ e.log2)

/-- The Invalidation Completions that wait for no access any more are sent (R490). -/
def State.settle (s : State) : State :=
  let (wait, go) := s.invals.partition (fun i => s.chans.any (fun x => x.under i.1 i.2.1 i.2.2))
  go.foldl (fun s i => s.emit (.invalDone i.1 i.2.1 i.2.2)) { s with invals := wait }

/-- A held ring entry of a head that has ended stays to be written, and releases nothing then (R502). -/
def Ring.orphan (r : Ring) (ch : ChanId) : Ring :=
  { r with held := r.held.map (fun (e : RingEntry) => if e.chan == some ch then { e with chan := none } else e) }

/-- R498 over every channel, with the cursor of each started head of a core in that core's effect log. -/
def State.endDescs (s : State) (which : Desc → Bool) : State :=
  State.settle <| (List.range 128).foldl (fun s i =>
    let ch : ChanId := Fin.ofNat 128 i
    let x := s.chan ch
    let s := if x.head.any which then { s with ring := s.ring.orphan ch } else s
    let s := match x.head with
      | some d =>
        if which d && x.started && !d.old then
          match d.core with
          | some c => s.updCore c (·.logCursor ch d.ticket (x.endCursor d).bytes)
          | none => s
        else s
      | none => s
    s.setChan ch (x.endDescs which)) s

/-! ## Start -/

/-- The memory of a core that a replay restores holds a byte of a destination row (14:R606): its DMEM or its replay
set. -/
def State.replayed (s : State) (c : CoreId) (a n : Nat) : Bool :=
  (rangeParts 66 a n).any (fun p => match devPlace p.1 with
    | .mem .dmem l _ => l == c
    | .mem .scratchpad l off => l == c && (match s.ctxOf c with
      | some x => x.replay.any (fun y => y.1 == c && off < y.2.base + y.2.size && y.2.base < off + p.2)
      | none => false)
    | _ => false)

/-- Some destination byte lies in the memory that a replay restores. -/
def State.redoes (s : State) (c : CoreId) (t : Tile) : Bool :=
  !t.dhost && (t.sideRows true).any (fun r => s.replayed c r.1 r.2)

/-- The completion that a log entry's record gives. -/
def finOfRecord (w : List Word) : Fin_ × BitVec 7 :=
  let w0 := (w.getD 0 0#64).toNat
  let w2 := (w.getD 2 0#64).toNat
  (⟨BitVec.ofNat 8 (bitsN w0 56 8), BitVec.ofNat 8 (bitsN w0 40 8), (w.getD 1 0#64).toNat, bitsN w2 48 16, bitsN w2 32 16,
    bitsN w2 0 32⟩, BitVec.ofNat 7 (bitsN w0 48 7))

/-- A replayed descriptor that completed and has no destination byte to make again completes at once (14:R606). -/
def State.startRedo (s : State) (ch : ChanId) (d : Desc) (t : Tile) : Option State :=
  match d.redo.bind LogD.record, d.core with
  | some w, some c =>
    if s.redoes c t then none
    else
      let (f, fl) := finOfRecord w
      some (s.updChan ch (fun x => { x.finish f with flags := fl }))
  | _, _ => none

/-- R476: the head of a channel's queue is checked, and its walk begins. -/
def State.descStart (s : State) (ch : ChanId) : State :=
  let x := s.chan ch
  match x.head with
  | none => s
  | some d =>
    if x.started || d.fin.isSome then s
    else
      let t := tileOf d.words
      let x := { x with started := true, plane := 0, row := 0, col := 0, flags := 0#7 }
      let s := s.setChan ch x
      match s.startRedo ch d t with
      | some s => s
      | none =>
        match t.check (s.ctx d.pasid) d.fromCtx with
        | none => s
        | some (st, r) => s.setChan ch (x.finish ⟨st, BitVec.ofNat 8 r, 0, 0, 0, 0⟩)

def execDescriptorStart (ch : ChanId) (s : State) : Res := .next (if s.dataPlane then s.descStart ch else s)

/-! ## Translation -/

def clusterOf (ch : ChanId) : Fin 16 := Fin.ofNat 16 (ch.val / 8)

def TlbEntry.covers (e : TlbEntry) (p : Pasid) (a : Nat) (wr : Bool) : Bool :=
  e.pasid == p && e.va ≤ a && a < e.va + 2 ^ e.log2 && (if wr then e.w else e.r)

def State.tlbHit (s : State) (ch : ChanId) (p : Pasid) (a : Nat) (wr : Bool) : Option TlbEntry :=
  s.tlbs[clusterOf ch].find? (fun e => e.covers p a wr)

/-- The first entry that is not pinned leaves. -/
def dropOldest : List TlbEntry → List TlbEntry
  | [] => []
  | e :: l => if e.pinned then e :: dropOldest l else l

/-- R484: an entry joins, in place of the oldest unpinned one when all 4,096 are held. -/
def tlbFill (l : List TlbEntry) (e : TlbEntry) : List TlbEntry :=
  (if 4096 ≤ l.length then dropOldest l else l) ++ [e]

/-- R483: the entries that a granted translation of a page gives, in rising order: the pages of the largest supported size that make it up,
and above 1 GiB the one page that was asked for. `bus` is the bus address of the whole translation, in 4 KiB units. -/
def tlbEntriesOf (p : Pasid) (page bus log2size : Nat) (r w pinned : Bool) : List TlbEntry :=
  let l := if 30 ≤ log2size then 30 else if 21 ≤ log2size then 21 else 12
  let base := page * 4096 / 2 ^ log2size * 2 ^ log2size
  let vas := if 30 ≤ log2size then [page * 4096 / 2 ^ 30 * 2 ^ 30]
    else (List.range (2 ^ (log2size - l))).map (fun i => base + i * 2 ^ l)
  vas.map (fun va => { pasid := p, va := va, log2 := l, bus := bus * 4096 + (va - base), r := r, w := w, pinned := pinned })

/-- What an access of `n` host bytes at `a` needs, page by page. -/
def needsOf (a n : Nat) (wr cpl : Bool) : List Need :=
  if n == 0 then []
  else (List.range ((a + n + 4095) / 4096 - a / 4096)).map (fun i =>
    let g := i + a / 4096
    ⟨g, wr, cpl, max a (g * 4096)⟩)

/-- The first host page of an access that has no translation (R488); none when untranslated requests are sent (R489). -/
def State.missing (s : State) (ch : ChanId) (p : Pasid) (needs : List Need) : Option Need :=
  if !s.ats then none else needs.find? (fun n => (s.tlbHit ch p (n.page * 4096) n.wr).isNone)

/-- An ATS Translation Request is sent, and the channel awaits it. -/
def State.askAts (s : State) (ch : ChanId) (p : Pasid) (n : Need) : State :=
  (s.updChan ch (fun x => { x with wait := .ats n })).emit (.atsRequest ch p n.page n.wr)

/-- The translation of an address for a channel's access: one under which the access was begun, else the TLB's. -/
def State.xlatOf (s : State) (ch : ChanId) (p : Pasid) (a : Nat) (wr : Bool) : Option TlbEntry :=
  if !s.ats then none
  else match (s.chan ch).xlat.find? (fun e => e.covers p a wr) with
    | some e => some e
    | none => s.tlbHit ch p a wr

/-- A read of host memory is requested, translated when the TLB is used (R488, R489). -/
def State.hostRead (s : State) (ch : ChanId) (p : Pasid) (a n : Nat) : State :=
  match s.xlatOf ch p a false with
  | some e => s.emit (.hostRead (some p) true (e.bus + (a - e.va)) n)
  | none => s.emit (.hostRead (some p) false a n)

/-- A write to host memory, translated when the TLB is used. -/
def State.hostWrite (s : State) (ch : ChanId) (p : Pasid) (a : Nat) (bs : List Byte) : State :=
  match s.xlatOf ch p a true with
  | some e => s.emit (.hostWrite (some p) true (e.bus + (a - e.va)) bs)
  | none => s.emit (.hostWrite (some p) false a bs)

/-- Host requests wait while IDE is required and no stream is Secure (19:R779). -/
def State.hostOpen (s : State) : Bool := !s.requireIde || s.ideSecure

/-! ## Memory as DMA reaches it -/

/-- Bytes of a core's memory read by DMA: a marked word delivers none (10:R420). -/
def State.memRead (s : State) (m : MemKind) (c : CoreId) (off n : Nat) : State × Option (List Byte) :=
  let k := s.core c
  let (mem, bad) := match m with
    | .scratchpad => (k.spad, k.badSpad)
    | .imem => (k.imem, k.badImem)
    | _ => (k.dmem, k.badDmem)
  match firstMark bad off n with
  | some w => (s.noteRead c m w, none)
  | none => (s, some (mem.getN off n))

/-- Bytes written to a core's memory by DMA: part of a marked word is not written (10:R420). -/
def State.memWrite (s : State) (m : MemKind) (c : CoreId) (off : Nat) (bs : List Byte) : State × Bool :=
  let k := s.core c
  let partly (bad : List Nat) : Bool := bad.any (fun w => w < off + bs.length && off < w + 8 && !(off ≤ w && w + 8 ≤ off + bs.length))
  let put (mem : Mem) (bad : List Nat) : Mem × List Nat := (mem.put off bs, clearMarks bad off bs.length)
  match m with
  | .scratchpad =>
    let (a, b) := put k.spad k.badSpad
    if partly k.badSpad then (s.countUnc m (devAddr m c off), false) else (s.setCore c { k with spad := a, badSpad := b }, true)
  | .imem =>
    let (a, b) := put k.imem k.badImem
    if partly k.badImem then (s.countUnc m (devAddr m c off), false) else (s.setCore c { k with imem := a, badImem := b }, true)
  | _ =>
    let (a, b) := put k.dmem k.badDmem
    if partly k.badDmem then (s.countUnc m (devAddr m c off), false) else (s.setCore c { k with dmem := a, badDmem := b }, true)

/-- One run of device bytes read, within one 256-byte block: its status and bytes. -/
def State.devRead (s : State) (k : BitVec 3) (a n : Nat) : State × BitVec 8 × List Byte :=
  match devPlace a with
  | .hbm => let (s, r) := s.lineRead k a n false; (s, r.status, r.bytes)
  | .mem m c off => match s.memRead m c off n with
    | (s, some bs) => (s, stOk, bs)
    | (s, none) => (s, stMemory, [])
  | _ => (s, stAddress, [])

/-- Runs of device bytes read, up to the first that fails. -/
def State.devReads (s : State) (k : BitVec 3) : List (Nat × Nat) → State × BitVec 8 × List Byte × Nat
  | [] => (s, stOk, [], 0)
  | (a, n) :: rs =>
    let (s, st, bs) := s.devRead k a n
    if st != stOk then (s, st, [], a)
    else
      let (s, st, more, at_) := s.devReads k rs
      (s, st, bs ++ more, at_)

/-- One run of device bytes written or added, within one 256-byte block. -/
def State.devWrite (s : State) (k : BitVec 3) (op : Option AtomicOp) (a : Nat) (bs : List Byte) : State × BitVec 8 × Flags :=
  match devPlace a with
  | .hbm =>
    let (s, r) := match op with
      | some o => s.atomicLine k o a bs
      | none => s.lineWrite k a bs
    (s, r.status, r.flags)
  | .mem m c off => match s.memWrite m c off bs with
    | (s, true) => (s, stOk, 0#10)
    | (s, false) => (s, stMemory, 0#10)
  | _ => (s, stAddress, 0#10)

/-- Runs of device bytes written in order, up to the first that fails; that run comes back with the status. -/
def State.devRuns (s : State) (k : BitVec 3) (op : Option AtomicOp) :
    List (Nat × List Byte) → State × Flags × Option (Nat × List Byte)
  | [] => (s, 0#10, none)
  | (a, bs) :: rs =>
    let (s, st, f) := s.devWrite k op a bs
    if st != stOk then (s, f, some (a, bs))
    else
      let (s, g, bad) := s.devRuns k op rs
      (s, f ||| g, bad)

/-- The runs of one access written: all of them, or none when one fails (R493). -/
def State.devWrites (s : State) (k : BitVec 3) (op : Option AtomicOp) (ws : List (Nat × List Byte)) : State × BitVec 8 × Flags × Nat :=
  match s.devRuns k op ws with
  | (s, f, none) => (s, stOk, f, 0)
  | (_, _, some (a, bs)) =>
    let (s, st, _) := s.devWrite k op a bs
    (s, st, 0#10, a)

/-! ## One access -/

def opOf (opn : Nat) : Option AtomicOp :=
  match opn with
  | 1 => some .fadd32
  | 2 => some .fadd64
  | 3 => some .iadd32
  | 4 => some .iadd64
  | 5 => some .wadd
  | _ => none

/-- The memory that a failing device address names in a MEMORY_ERROR entry (R501), in the state before the access: HBM where the request read
a codeword that cannot be corrected, the shared cache where it met a poisoned line or a set with no way in service. -/
def State.memCodeAt (s : State) (a : Nat) : Nat :=
  match devPlace a with
  | .mem m _ _ => ringCode m
  | .hbm =>
    let c := s.cache (hbmDie a)
    if (c.en && (c.find a).isSome) || (s.badWords (lineBase a) 256).isEmpty then 1 else 2
  | _ => 2

/-- The head ends with the status of a failed device access (R497); `mem` is the memory that failed. -/
def State.endAccess (s : State) (ch : ChanId) (t : Tile) (st : BitVec 8) (wr : Bool) (a mem : Nat) : State :=
  if st == stMemory then s.endWith ch t st 4 mem wr a else s.endAt ch t st

/-- The old words that a transfer's write of part of them leaves the core to execute until the transfer ends (02:R125). -/
def State.tear (s : State) (ch : ChanId) (a n : Nat) : State :=
  match devPlace a with
  | .mem .imem c off => s.updCore c (fun k =>
      let part (w : Nat) : Bool := !(off ≤ w && w + 4 ≤ off + n) && !k.torn.any (fun t => t.1 == ch && t.2.1 == w)
      let words := [off / 4 * 4, (off + n - 1) / 4 * 4].eraseDups.filter part
      { k with torn := k.torn ++ words.map (fun w => (ch, w, BitVec.ofNat 32 (k.imem.getLe w 4))) })
  | _ => s

/-- The transfer of a channel's head has ended: every word it wrote is new. -/
def State.mend (s : State) (ch : ChanId) : State :=
  if s.cores.any (fun k => k.torn.any (fun t => t.1 == ch)) then
    { s with cores := s.cores.map (fun (k : Core) => { k with torn := k.torn.filter (fun t => t.1 != ch) }) }
  else s

/-- The access at the cursor is done: the cursor moves on, or the walk is complete. A replayed descriptor that completed
keeps its logged completion (14:R832). -/
def State.advanceWalk (s : State) (ch : ChanId) (d : Desc) (t : Tile) (n : Nat) (fl : BitVec 7) : State :=
  let x := s.chan ch
  let x := { x with flags := x.flags ||| fl, wait := .none, got := [], xlat := [], carry := x.carryNext }
  match t.after x.plane x.row x.col n with
  | some (p, r, b) => s.setChan ch { x with plane := p, row := r, col := b }
  | none => match d.redo.bind LogD.record with
    | some w =>
      let (f, fl) := finOfRecord w
      s.setChan ch { x.finish f with flags := fl }
    | none => s.setChan ch (x.finish t.finOk)

/-- Requests of a window access are put on the stream (12:R521, R523). -/
def State.sendAll (s : State) (d : Desc) (o : OutWin) (cls : BitVec 4) (by_ : Sender) (rs : List (Nat × List Byte × Nat)) : State :=
  rs.foldl (fun s r =>
    s.request d.pasid o cls (BitVec.ofNat 38 ((r.1 - windowBase) % windowBytes)) (BitVec.ofNat 8 (r.2.2 - 1)) r.2.1
      by_) s

/-- The outbound window of an address. -/
def State.outWin (s : State) (p : Pasid) (a : Nat) : Option OutWin :=
  match devPlace a, s.ctx p with
  | .window w _, some x => x.outs.find? (fun o => o.win.toNat == w)
  | _, _ => none

/-- The word that a device address lies in is found uncorrectable: a line that the shared cache holds is faulty, else the memory's word is marked
(18:R744, R746). -/
def State.wordFails (s : State) (a : Nat) : State :=
  match devPlace a with
  | .hbm =>
    let c := s.cache (hbmDie a)
    if c.en && (c.find a).isSome then s.meetLine a true else s.markHbm a true
  | .mem .scratchpad c off => s.foundBad c off
  | .mem m c off => s.updCore c (·.markWord m off)
  | _ => s

/-- How a host request completed, the device's own memory aside. -/
def HostReply.plain : HostReply → HostReply
  | .faulty bs => .data bs
  | r => r

/-- The device memory that an access at (p, r, b) reaches first holds an uncorrectable word. -/
def State.meetFault (s : State) (t : Tile) (p r b : Nat) : HostReply → State
  | .faulty _ =>
    if !t.shost then s.wordFails (t.srcRow p r + b)
    else ((t.unitDst p r b).head?.map (fun x => s.wordFails x.1)).getD s
  | _ => s

/-- The bytes of an access, once read, are written to its destination. -/
def State.deliver (s : State) (ch : ChanId) (d : Desc) (t : Tile) (n : Nat) (bs : List Byte) (host : HostReply) : State :=
  let x := s.chan ch
  let (ws, f) := t.writes x.plane x.row x.col n x.carry bs
  let s := s.setChan ch { x with carryNext := t.carryOn x.row x.col x.carry bs }
  if ws.isEmpty then s.advanceWalk ch d t n (dmaFlags f)
  else if t.dhost then
    match host with
    | .error e => s.endWith ch t stHost 3 e.toNat true ((ws.head?.map Prod.fst).getD t.dst)
    | _ => (ws.foldl (fun s w => s.hostWrite ch d.pasid w.1 w.2) s).advanceWalk ch d t n (dmaFlags f)
  else
    let ws := (joinRuns ws).flatMap (cutWrite 4)
    match ws with
    | [] => s.advanceWalk ch d t n (dmaFlags f)
    | w :: _ =>
      if inWindow w.1 then
        match s.outWin d.pasid w.1 with
        | none => s.endAt ch t stOwnership
        | some o =>
          let s := s.updChan ch (fun x => { x with wait := .remote, flags := x.flags ||| dmaFlags f })
          s.sendAll d o (if t.opn == 5 then clsWadd else clsWrite) (.chan ch d.ticket) (ws.map (fun w => (w.1, w.2, w.2.length)))
      else
        let (s', st, g, a) := (ws.foldl (fun (s : State) w => s.tear ch w.1 w.2.length) s).devWrites t.cls (opOf t.opn) ws
        if st != stOk then s'.endAccess ch t st true a (s.memCodeAt a) else s'.advanceWalk ch d t n (dmaFlags (f ||| g))

/-- What the cursor's access needs of the host. -/
def Tile.needs (t : Tile) (p r b n : Nat) : List Need :=
  (if t.shost then needsOf (t.reads p r b n).1 (t.reads p r b n).2 false false else []) ++
  (if t.dhost then (t.unitDst p r b).flatMap (fun x => needsOf x.1 x.2 true false) else [])

/-- An access before the logged cursor reads bytes that share destination bytes with those from the cursor on: the element before it, or the first of
two rows. -/
def Tile.sharesOn (t : Tile) (cursor p r b : Nat) : Bool :=
  (t.pairsElems && cursor < t.bytesAt p r b + t.accessLen p r b) || (t.pairsRows && cursor < t.bytesAt p (r / 2 * 2 + 2) 0)

/-- Whether a replayed descriptor makes the access at the cursor (14:R606, R832). -/
def State.makesAccess (s : State) (d : Desc) (t : Tile) (p r b : Nat) : Bool :=
  match d.redo, d.core with
  | some l, some c =>
    (!t.dhost && (t.unitDst p r b).any (fun x => s.replayed c x.1 x.2)) ||
    (l.record.isNone && (l.cursor.getD 0 ≤ t.bytesAt p r b || t.sharesOn (l.cursor.getD 0) p r b))
  | _, _ => true

/-- An access to a window waits while its stream has no room for the requests that it may make (12:R525). -/
def State.streamFull (s : State) (d : Desc) (t : Tile) (p r b : Nat) : Bool :=
  let full (host : Bool) (a : Nat) (n : Nat) : Bool := !host && (s.outWin d.pasid a).any (fun o => !s.roomFor d.pasid o.win n)
  full t.shost (t.srcRow p r + b) 4 || (t.unitDst p r b).any (fun x => full t.dhost x.1 (if t.xpose then 256 else 4))

/-- The access at the cursor of a channel's started head. `host` is how its host requests complete. -/
def State.descAccess (s : State) (ch : ChanId) (host : HostReply) : State :=
  let x := s.chan ch
  match x.head with
  | none => s
  | some d =>
    if !x.started || d.fin.isSome || x.wait != .none then s
    else
      let t := tileOf d.words
      let n := t.accessLen x.plane x.row x.col
      if !s.makesAccess d t x.plane x.row x.col then s.advanceWalk ch d t n 0#7
      else
        let needs := t.needs x.plane x.row x.col n
        if s.streamFull d t x.plane x.row x.col then s
        else if !needs.isEmpty && !s.hostOpen then s
        else match s.missing ch d.pasid needs with
          | some m => s.askAts ch d.pasid m
          | none =>
            let s := s.meetFault t x.plane x.row x.col host
            let host := HostReply.plain host
            let run := t.reads x.plane x.row x.col n
            if t.shost then
              let s := s.hostRead ch d.pasid run.1 run.2
              match host with
              | .error e => s.endWith ch t stHost 3 e.toNat false run.1
              | .data bs | .faulty bs => if bs.length == run.2 then s.deliver ch d t n bs host else s
            else if inWindow run.1 then
              match s.outWin d.pasid run.1 with
              | none => s.endAt ch t stOwnership
              | some o =>
                let s := s.updChan ch (fun x =>
                  { x with wait := .remote, xlat := needs.filterMap (fun m => s.tlbHit ch d.pasid m.va m.wr) })
                s.sendAll d o clsRead (.chan ch d.ticket) [(run.1, [], run.2)]
            else
              let (s', st, bs, a) := s.devReads t.cls [run]
              if st != stOk then s'.endAccess ch t st false a (s.memCodeAt a) else s'.deliver ch d t n bs host

def execDescriptorAccess (ch : ChanId) (host : HostReply) (s : State) : Res :=
  .next (if s.dataPlane then s.descAccess ch host else s)

/-! ## Completion -/

/-- The 32 bytes of a completion record (R478). -/
def recordWords (d : Desc) (f : Fin_) (flags : BitVec 7) : List Word :=
  [wordOf [(56, 8, f.status.toNat), (48, 7, flags.toNat), (40, 8, f.reason.toNat), (0, 32, d.ticket.toNat)],
   natW f.bytes, wordOf [(48, 16, f.plane), (32, 16, f.row), (0, 32, f.col)], d.words[7]]

/-- A DMA command that waits for a ticket notes its status (15:R646): of two descriptors with one ticket, fed before and after a RUN began its count
anew, each is noted once. -/
def Flight.noteTicket (f : Flight) (ch : ChanId) (t : BitVec 32) (bad : Bool) : Flight :=
  if f.chan == some ch && f.wants.contains t then
    { f with wants := f.wants.erase t, bad := f.bad + b2n bad }
  else f

/-- The head leaves its channel and is counted; the effect log of its core, or its DMA command, learns of it (R459,
R477; 14:R604). -/
def State.retireDesc (s : State) (ch : ChanId) (d : Desc) (f : Fin_) : State :=
  let x := s.chan ch
  let rec_ := recordWords d f x.flags
  let bad := f.status != stOk
  let s := (s.mend ch).setChan ch { x.next with
    queue := x.queue.drop 1
    done := if d.old then x.done else x.done + 1#32
    errs := if bad && !d.old then x.errs + 1#32 else x.errs }
  let s := match d.core with
    | some c => if f.status == stAborted || d.old then s else s.updCore c (fun k =>
        { k with elogD := k.elogD.map (fun l => if l.ch == ch && l.ticket == d.ticket then { l with record := some rec_ } else l) })
    | none => s
  match d.queue with
  | some q => { s with queues := s.queues.set q { s.queues[q] with cur := s.queues[q].cur.map (·.noteTicket ch d.ticket bad) } }
  | none => s

/-- The completion address is one the descriptor may write (R477): a multiple of 32, and for a device address one that
R473 allows. A context that has left owns no address. -/
def State.cplOk (s : State) (d : Desc) (t : Tile) : Bool :=
  t.cpl % 32 == 0 && (t.chost || (inRanges t.cpl 32 && (match s.ctx d.pasid with
    | some x => x.owns true t.cpl 32
    | none => !d.fromCtx)))

/-- The record written to a device address. One that goes through a window completes the descriptor when the receiver has answered. -/
def State.writeRecord (s : State) (ch : ChanId) (d : Desc) (t : Tile) (f : Fin_) : State :=
  let bs := wordsBytes (recordWords d f (s.chan ch).flags)
  match s.outWin d.pasid t.cpl with
  | some o => (s.updChan ch (fun x => { x with wait := .remote })).sendAll d o clsWrite (.record ch d.ticket) [(t.cpl, bs, 32)]
  | none => ((s.devWrite t.cls none t.cpl bs).1).retireDesc ch d f

/-- R477: the completion of the head. -/
def State.descComplete (s : State) (ch : ChanId) (host : HostReply) : State :=
  let x := s.chan ch
  match x.head with
  | none => s
  | some d =>
    match d.fin with
    | none => s
    | some f =>
      let t := tileOf d.words
      if x.wait != .none then s
      else if t.cpl == 0 || !s.cplOk d t then s.retireDesc ch d f
      else if !t.chost then (if (s.outWin d.pasid t.cpl).any (fun o => !s.roomFor d.pasid o.win 1) then s else s.writeRecord ch d t f)
      else if !s.hostOpen then s
      else match s.missing ch d.pasid (needsOf t.cpl 32 true true) with
        | some m => s.askAts ch d.pasid m
        | none =>
          let s := match host with
            | .error _ => s
            | _ => s.hostWrite ch d.pasid t.cpl (wordsBytes (recordWords d f x.flags))
          s.retireDesc ch d f

def execDescriptorComplete (ch : ChanId) (host : HostReply) (s : State) : Res :=
  .next (if s.dataPlane then s.descComplete ch host else s)

/-! ## Translation faults (R494 to R496) -/

/-- The address that a faulting need names in the ring: the first that the access touches in the page (R501). -/
def Need.addr (n : Need) : Nat := n.va

/-- A translation that cannot be had ends the head: the descriptor at its cursor with TRANSLATION, or, for a completion
record, without the record. `detail` is the PRG response code. -/
def State.faultEnds (s : State) (ch : ChanId) (n : Need) (detail : Nat) : State :=
  let x := s.chan ch
  match x.head with
  | none => s
  | some d =>
    if n.cpl then
      let (s, written) := s.ringPost (x.entry ch 2 detail true n.addr s.time)
      -- no record: the completion address is cleared, and the descriptor completes
      s.updChan ch (fun x => { x with
        queue := { d with words := (d.words.set 6 0#64) } :: x.queue.drop 1, wait := if written then .none else .ringEnd })
    else s.endWith ch (tileOf d.words) stTranslation 2 detail n.wr n.addr

/-- A Page Request is sent and the channel is parked (R494). -/
def State.sendPage (s : State) (ch : ChanId) (n : Need) : State :=
  let p := ((s.chan ch).head.map Desc.pasid).getD 0#20
  (s.updChan ch (fun x => { x with wait := .prg n })).emit (.pageRequest ch p n.page n.wr)

/-- How often the head has parked for a page after a PRG Response of Success, and once more (R495). -/
def Chan.parksOn (x : Chan) (page : Nat) : Nat := ((x.parks.find? (fun q => q.1 == page)).map Prod.snd).getD 0

def Chan.parkAgain (x : Chan) (page : Nat) : Chan :=
  { x with parks := (page, x.parksOn page + 1) :: x.parks.filter (fun q => q.1 != page) }

/-- R494 to R496: a translation fault. -/
def State.fault (s : State) (ch : ChanId) (n : Need) : State :=
  let x := s.chan ch
  if !s.pri || s.priStopped then s.faultEnds ch n 0
  else if 16 ≤ x.parksOn n.page then s.faultEnds ch n 0
  else
    let (s, written) := s.ringPost (x.entry ch 1 0 n.wr n.addr s.time)
    if written then s.sendPage ch n else s.updChan ch (fun x => { x with wait := .ringPage n })

/-- The TLB entries of a grant that gives what is needed. -/
def grantFor (p : Pasid) (n : Need) : AtsReply → Option (List TlbEntry)
  | .grant bus l r w => if (if n.wr then w else r) then some (tlbEntriesOf p n.page bus l r w false) else none
  | .none => none

/-- Entries filled, each in place of an unpinned one of the same page. -/
def tlbFills (l : List TlbEntry) (es : List TlbEntry) : List TlbEntry :=
  es.foldl (fun l e => tlbFill (l.filter (fun x => x.pinned || x.pasid != e.pasid || x.va != e.va || x.log2 != e.log2)) e) l

/-- R488, R492, R498: a completion owed to a descriptor that has ended is discarded; else it answers the access that waits for one, else the
oldest prefetch. -/
def State.atsDone (s : State) (ch : ChanId) (reply : AtsReply) : State :=
  let x := s.chan ch
  let p := (x.head.map Desc.pasid).getD 0#20
  let fill (s : State) (es : List TlbEntry) : State :=
    { s with tlbs := s.tlbs.set (clusterOf ch) (tlbFills s.tlbs[clusterOf ch] es) }
  if 0 < x.owedAts then s.setChan ch { x with owedAts := x.owedAts - 1 }
  else match x.wait with
  | .ats n => match grantFor p n reply with
    | some e => (fill s e).updChan ch (fun x => { x with wait := .none })
    | none => s.fault ch n
  | _ => match x.asked with
    | [] => s
    | n :: rest =>
      let s := s.setChan ch { x with asked := rest }
      match grantFor ((x.owner).getD p) n reply with
      | some e => fill s e
      | none => s

def execAtsTranslationCompletion (ch : ChanId) (reply : AtsReply) (s : State) : Res := .next (s.atsDone ch reply)

/-- R496: PRI stops; every channel that awaits a PRG Response completes its descriptor, and the response is discarded when it comes. -/
def State.priStops (s : State) : State :=
  (List.range 128).foldl (fun s i =>
    let ch : ChanId := Fin.ofNat 128 i
    match (s.chan ch).wait with
    | .prg n => (s.updChan ch Chan.owe).faultEnds ch n 0
    | _ => s) { s with priStopped := true }

/-- R495, R496, R498: the answer to a parked channel's Page Request; one owed to a descriptor that has ended is discarded. After a Response
Failure PRI has stopped. -/
def State.prgDone (s : State) (ch : ChanId) (code : PrgCode) : State :=
  let x := s.chan ch
  if 0 < x.owedPrg then s.setChan ch { x with owedPrg := x.owedPrg - 1 }
  else match x.wait with
  | .prg n =>
    match code with
    | .success => (s.setChan ch (x.parkAgain n.page)).askAts ch ((x.head.map Desc.pasid).getD 0#20) n
    | .invalid => s.faultEnds ch n 1
    | .failure => (s.faultEnds ch n 15).priStops
  | _ => s

def execPrgResponse (ch : ChanId) (code : PrgCode) (s : State) : Res := .next (s.prgDone ch code)

def execPriStop (s : State) : Res := .next s.priStops

/-- R490: matching entries leave every TLB; a pinned one adds PIN_LOST; the Invalidation Completion is sent when no access that was begun under
a removed entry is in progress. -/
def State.invalidate (s : State) (p : Pasid) (va n : Nat) : State :=
  let hit (e : TlbEntry) : Bool := e.pasid == p && e.va < va + n && va < e.va + 2 ^ e.log2
  let lost := (s.tlbs.toList.flatMap id).filter (fun e => hit e && e.pinned)
  let s := { s with tlbs := s.tlbs.map (fun (l : List TlbEntry) => l.filter (fun e => !hit e)) }
  let s := lost.foldl (fun s e => (s.ringPost ⟨none, ringWords 5 0 0 p false e.va 0 0 0 0 0 s.time⟩).1) s
  State.settle { s with invals := s.invals ++ [(p, va, n)] }

def execAtsInvalidationRequest (pasid : Pasid) (va bytes : Nat) (s : State) : Res := .next (s.invalidate pasid va bytes)

/-! ## Stream prefetch (R491, R492) -/

/-- An EVACUATE of a context has begun. -/
def State.evacuating (s : State) (p : Pasid) : Bool :=
  s.queues.any (fun (q : Queue) => q.pasid == p && q.cur.any (fun f => BitVec.ofNat 8 (bitsN (f.entry.w0).toNat 56 8) == 7#8 && f.started && f.done.isNone))

/-- R491: the channel is in stream-prefetch mode; a channel test is in progress while no RUN has been seen, or in a RUN up to its first SAFEPT
(the device's own transfers and tests use no queued descriptor). -/
def State.prefetches (s : State) (ch : ChanId) : Bool :=
  (s.chan ch).prefetch || !s.boot.runSeen || (s.chan ch).owner.any s.evacuating

/-- The rows of a side that a walk at (p, r, b) still has to do, the first from its byte on. -/
def Tile.rowsLeft (t : Tile) (dest : Bool) (p r b : Nat) : List (Nat × Nat) :=
  if dest && t.xpose then (t.sideRows true).drop (p * t.dstRows)
  else match (t.sideRows dest).drop (p * t.rows + r) with
    | [] => []
    | (a, n) :: rest =>
      let o := if dest then b * 8 / t.sw * t.dw / 8 else b
      (a + o, n - o) :: rest

/-- The host pages that a queued descriptor has yet to use, from its cursor on: none when it is zero-length (R504), only that of its completion
record when its accesses are done. -/
def Desc.pagesAhead (d : Desc) (p r b : Nat) : List (Pasid × Need) :=
  let t := tileOf d.words
  let side (dest : Bool) : List Need := (t.rowsLeft dest p r b).flatMap (fun x => needsOf x.1 x.2 dest false)
  let data := if t.empty || d.fin.isSome then [] else (if t.shost then side false else []) ++ (if t.dhost then side true else [])
  (data ++ (if t.chost && t.cpl != 0 then needsOf t.cpl 32 true true else [])).map (fun n => (d.pasid, n))

/-- Pages named once each, by whether they are written. -/
def onePerPage : List (Pasid × Need) → List (Pasid × Need)
  | [] => []
  | n :: l => n :: (onePerPage l).filter (fun m => !(m.1 == n.1 && m.2.page == n.2.page && m.2.wr == n.2.wr))

/-- The host pages that the first eight queued descriptors have yet to use, the first 64 of them (R492). -/
def Chan.aheadPages (x : Chan) : List (Pasid × Need) :=
  (onePerPage (((x.queue.take 8).zipIdx).flatMap (fun d =>
    if d.2 == 0 && x.started then d.1.pagesAhead x.plane x.row x.col else d.1.pagesAhead 0 0 0))).take 64

/-- A Translation Request goes out for the first page ahead that has no translation and has not been asked for. -/
def State.prefetch (s : State) (ch : ChanId) : State :=
  let x := s.chan ch
  if !s.ats || !s.prefetches ch || !s.hostOpen then s
  else match x.aheadPages.find? (fun n => (s.tlbHit ch n.1 (n.2.page * 4096) n.2.wr).isNone &&
      !x.asked.any (fun m => m.page == n.2.page && m.wr == n.2.wr)) with
    | some n => (s.setChan ch { x with asked := x.asked ++ [n.2] }).emit (.atsRequest ch n.1 n.2.page n.2.wr)
    | none => s

def execStreamPrefetch (ch : ChanId) (s : State) : Res := .next (if s.dataPlane then s.prefetch ch else s)

/-! ## The fault ring's registers (R500, R502) -/

/-- A held entry has been written: its channel sends its Page Request, or completes. When PRI has stopped meanwhile, the fault ends the
descriptor (R496). -/
def State.released (s : State) (e : RingEntry) : State :=
  match e.chan with
  | none => s
  | some ch => match (s.chan ch).wait with
    | .ringPage n => if !s.pri || s.priStopped then s.faultEnds ch n 0 else s.sendPage ch n
    | .ringEnd => s.updChan ch (fun x => { x with wait := .none })
    | _ => s

/-- Held entries are written in order while the ring has room, `n` of them at most. -/
def State.writeHeld : Nat → State → State
  | 0, s => s
  | n + 1, s => match s.ring.held with
    | [] => s
    | e :: es => if s.ring.open_ then State.writeHeld n ((({ s with ring := { s.ring with held := es } }).ringWrite e).released e) else s

/-- Every held entry that finds room is written; a release adds one entry at most (R496). -/
def State.ringRoom (s : State) : State := State.writeHeld (2 * s.ring.held.length) s

/-- FR_BASE: ADDR takes a value only while EN is 0; EN becoming 1 restarts the counts. -/
def Ring.writeBase (r : Ring) (v : Word) : Ring :=
  let en := v.getLsbD 0
  let r := if r.en then r else { r with addr := (v >>> 14).setWidth 50 }
  if en && !r.en then { r with en := true, tail := r.head, cedrop := 0#32, ovf := 0#32 } else { r with en := en }

def execFrBaseWrite (v : Word) (s : State) : Res := .next ({ s with ring := s.ring.writeBase v }).ringRoom

/-- FR_HEAD: ignored when it would leave more than 256 entries. -/
def State.writeHead (s : State) (v : Word) : State :=
  let h : BitVec 9 := v.setWidth 9
  if 256 < (s.ring.tail - h).toNat then s else ({ s with ring := { s.ring with head := h } }).ringRoom

def execFrHeadWrite (v : Word) (s : State) : Res := .next (s.writeHead v)

end Sys2Proof.Machine
end

