-- ==== Sys2Proof/Machine/Sync.lean ====
section
/-! DEFINITION. SIGPOST, SIGWAIT, SAFEPT and the end of a core by SYSCALL (02:R99; 14:R586 to R601, R604, R606; 15:R642, R643). -/

namespace Sys2Proof.Machine

/-! ## SIGPOST (14:R589, R590, R606) -/

/-- The descriptors that a core queued and that have not completed. -/
def State.ownDescs (s : State) (c : CoreId) : List (ChanId × BitVec 32) :=
  (List.range 128).flatMap (fun i =>
    let ch : ChanId := Fin.ofNat 128 i
    ((s.chan ch).queue.filter (fun d => d.core == some c && !d.old)).map (fun d => (ch, d.ticket)))

/-- The outbound window that a SIGPOST target names. -/
def targetWin (t : Word) : BitVec 6 := (t >>> 8).setWidth 6

def targetRemote (t : Word) : Bool := t.getLsbD 14

/-- The core's context has declared an outbound window. -/
def State.declaresOut (s : State) (c : CoreId) (w : BitVec 6) : Bool := match s.ctxOf c with
  | some x => x.outs.any (fun o => o.win == w)
  | none => false

/-- The failing value of a SIGPOST (R589). -/
def State.sigpostBad (s : State) (c : CoreId) (a b : Word) : Option Word :=
  if b == 0#64 || 2 ^ 30 ≤ b.toNat then some b
  else if 2 ^ 15 ≤ a.toNat || (targetRemote a && !s.declaresOut c (targetWin a)) then some a
  else none

/-- A SIGPOST issues: it is logged, and waits for the core's earlier descriptors; one that a replay finds in effect is
suppressed. -/
def Core.post (k : Core) (a b : Word) (waits : List (ChanId × BitVec 32)) : Core :=
  let n := k.elogS.length
  match k.replayS with
  | true :: rest => { k with replayS := rest, elogS := k.elogS ++ [true] }
  | rest => { k with replayS := rest.drop 1, elogS := k.elogS ++ [false], posts := k.posts ++ [⟨a, b, waits, n⟩] }

def execSigpost (c : CoreId) (rd ra rb : Reg) (s : State) : Res :=
  .next (s.instr c 4 (fun s =>
    if rd != 0#5 then (s, .trap .illegal 0#64)
    else
      let k := (s.core c).drain
      let s := s.setCore c k
      let a := k.reg ra
      let b := k.reg rb
      match s.sigpostBad c a b with
      | some v => (s, .trap .illegal v)
      | none => (s.setCore c (k.post a b (s.ownDescs c)), .retire 0#10)))

/-- A descriptor has left its channel's queue. -/
def State.descGone (s : State) (d : ChanId × BitVec 32) : Bool :=
  !(s.chan d.1).queue.any (fun x => x.ticket == d.2 && !x.old)

/-- The addition of a SIGPOST, or the sending of its SIGNAL (R589). -/
def State.signalEffect (s : State) (p : Pasid) (t inc : Word) : State :=
  let idx : BitVec 8 := t.setWidth 8
  if targetRemote t then
    match (s.ctx p).bind (fun x => x.outs.find? (fun o => o.win == targetWin t)) with
    | some o => s.request p o clsSignal (signalOffset idx (inc.setWidth 30)) 0#8 [] .signal
    | none => s
  else s.updCtx p (fun x => { x with counters := x.counters.set idx.toNat (x.counters[idx.toNat] + inc) })

/-- The stream of a post has room for a request: 4,096 may be unacknowledged (12:R525). -/
def State.streamRoom (s : State) (p : Pasid) (t : Word) : Bool :=
  !targetRemote t || (match s.stream p (targetWin t) with
    | some x => x.unacked.length < 4096
    | none => true)

/-- The oldest SIGPOST of a core takes effect once every descriptor before it has completed. -/
def State.sigpostEffect (s : State) (c : CoreId) : State :=
  let k := s.core c
  match k.posts with
  | [] => s
  | e :: rest =>
    let p := s.pasidOf c
    if e.waits.all s.descGone && s.streamRoom p e.target then
      (s.setCore c { k with posts := rest, elogS := k.elogS.set e.log true }).signalEffect p e.target e.inc
    else s

def execSigpostEffect (c : CoreId) (s : State) : Res := .next (if s.dataPlane then s.sigpostEffect c else s)

/-! ## SIGWAIT (14:R592) -/

/-- A signal counter of the core's context. -/
def State.counter (s : State) (c : CoreId) (i : BitVec 8) : Word := match s.ctxOf c with
  | some x => x.counters[i.toNat]
  | none => 0#64

def execSigwait (c : CoreId) (rd ra rb : Reg) (s : State) : Res :=
  .next (s.instr c 4 (fun s =>
    if rd != 0#5 then (s, .trap .illegal 0#64)
    else
      let k := (s.core c).drain
      let s := s.setCore c k
      match k.arithCheck with
      | some e => (s, e)
      | none =>
        let a := k.reg ra
        if 256 ≤ a.toNat then (s, .trap .illegal 0#64)
        else if (k.reg rb).toNat ≤ (s.counter c (a.setWidth 8)).toNat then (s, .retire 0#10)
        else (s, .wait true)))

/-! ## Checkpoints (14:R598 to R601) -/

/-- The bytes of the replay set of a core. -/
def replayBytes (k : Core) (spans : List Span) : Mem :=
  k.spad.filter (fun e => spans.any (fun g => g.base ≤ e.1 && e.1 < g.base + g.size))

/-- The replay set that a context declares for a core. -/
def Context.replaySpans (x : Context) (c : CoreId) : List Span :=
  (x.replay.filter (fun y => y.1 == c)).map Prod.snd

/-- The counts of the channels of a context. -/
def State.chanCounts (s : State) (x : Context) : List ChanCounts :=
  x.chans.map (fun ch => let k := s.chan ch; ⟨ch, k.ticket, k.done, k.errs⟩)

/-- The safe-point state of a core as it stands (R600). -/
def State.takeCkpt (s : State) (c : CoreId) : Checkpoint :=
  let k := s.core c
  let spans := ((s.ctxOf c).map (·.replaySpans c)).getD []
  { pc := k.pc, gregs := k.gregs, spK := k.spK, spR := k.spR, spF := k.spF, banks := k.banks, tlvl := k.tlvl,
    fflags := k.fflags, fmode := k.fmode, vl := k.vl, ew := k.ew, grp := k.grp, vcur := k.vcur, asc := k.asc, seed := k.seed,
    spint := k.spint, vregs := k.vregs, masks := k.masks, slots := k.slots, mxcfg := k.mxcfg, epi := k.epi, dmem := k.dmem,
    replaySet := replayBytes k spans, badDmem := k.badDmem,
    badSpad := k.badSpad.filter (fun w => spans.any (fun g => g.base ≤ w && w < g.base + g.size)),
    cycle := k.cycle, stlIssue := k.stlIssue, stlSync := k.stlSync, instret := k.instret, since := k.spintFrom,
    chans := ((s.ctxOf c).map s.chanCounts).getD [] }

/-- Banks that are not empty, as the bits of TRV (R597). -/
def Core.fullBanks (k : Core) : Nat :=
  bitList (k.abanks.toList.map (fun b => b.tag.isSome))

/-- SAFEPT's checks 2 and 3. -/
def State.safeptBad (s : State) (c : CoreId) : Nat :=
  (s.core c).fullBanks + 256 * b2n (!(s.ownDescs c).isEmpty)

/-- A SIGPOST of the core has all its descriptors done and has not taken effect. -/
def State.postReady (s : State) (c : CoreId) : Bool := (s.core c).posts.any (fun e => e.waits.all s.descGone)

def execSafept (c : CoreId) (rd ra rb : Reg) (s : State) : Res :=
  .next (s.instr c 4 (fun s =>
    if rd != 0#5 || ra != 0#5 || rb != 0#5 then (s, .trap .illegal 0#64)
    else
      let k := (s.core c).drain
      let s := s.setCore c k
      if k.inFlight then (s, .wait false)
      else match k.arithCheck with
        | some e => (s, e)
        | none =>
          let bad := s.safeptBad c
          if bad != 0 then (s, .trap .illegal (natW bad))
          else if k.ckptNew.isSome || s.postReady c then (s, .wait true)
          else
            let q := s.takeCkpt c
            (s.setCore c { k with ckptNew := some { q with pc := k.pc + 4#20, asc := k.asc + 1#64,
                                                           instret := k.instret + 1#64, since := k.cycle } }, .wait true)))

/-- The safe point of a core: what a completed SAFEPT leaves (R598, R601, R604), counts of resets start over (09:R391). -/
def Core.safePoint (k : Core) (q : Checkpoint) : Core :=
  { k with ckpt := some q, ckptNew := none, ckptSlot := !k.ckptSlot, asc := k.asc + 1#64, stoV := 0#14, stoA := 0#14,
           stoD := 0#14, elogD := [], elogS := [], replayD := [], replayS := [], foreign := [], spintFrom := k.cycle, spintDone := false, resets := 0,
           instret := k.instret + 1#64, stall := .none }

/-- A SAVE or an EVACUATE waits for safe points of the context (15:R645). -/
def State.stopping (s : State) (p : Pasid) : Bool :=
  s.queues.any (fun q => match q.cur with
    | some f => q.pasid == p && f.started && f.done.isNone &&
        ((f.entry.w0 >>> 56) == 0x05#64 || (f.entry.w0 >>> 56) == 0x07#64)
    | none => false)

/-- An EVACUATE stops the core: from its first stop the context's inbound windows are still (18:R754). -/
def State.quiets (s : State) (c : CoreId) : State :=
  let p := s.pasidOf c
  if (s.core c).held && s.queues.any (fun q => match q.cur with
      | some f => q.pasid == p && f.started && f.done.isNone && (f.entry.w0 >>> 56) == 0x07#64
      | none => false)
  then s.updCtx p (fun x => { x with quiet := true }) else s

/-- Stream prefetch of a replay ends with the core's next safe point (11:R491). -/
def State.stopPrefetch (s : State) (c : CoreId) : State :=
  (((s.ctxOf c).map Context.chans).getD []).foldl (fun s ch => s.updChan ch (fun x => { x with prefetch := false })) s

/-- The checkpoint of a core is written: its SAFEPT completes, and a core that a SAVE or an EVACUATE waits for stops. -/
def State.ckptDone (s : State) (c : CoreId) : State :=
  let k := s.core c
  match k.ckptNew with
  | none => s
  | some q =>
    let k := (k.safePoint q).advance 4
    (s.setCore c { k with held := k.active && s.stopping (s.pasidOf c) }).stopPrefetch c |>.quiets c

def execCheckpointComplete (c : CoreId) (s : State) : Res := .next (if s.dataPlane then s.ckptDone c else s)

/-! ## SYSCALL and the end of a core (02:R99, 15:R642, R643) -/

/-- A core ends: an arithmetic record still pending adds a TRAP entry, and the RUN learns of its exit value. -/
def State.coreEnd (s : State) (c : CoreId) (exit : Word) : State :=
  let k := s.core c
  let s := if k.arec.flags != 0#10
    then s.trapEntry c (trapSummary 3 false false false false c 0x0C#8 k.arec.first) else s
  let s := (s.setCore c { k with active := false, arec := ArithRec.empty }).gate c true
  s.updCtx (s.pasidOf c) (fun x => { x with run := x.run.map (fun r => { r with exits := r.exits ++ [(c, exit)] }) })

/-- The SYSCALL by which Kernel code ends the core, once its entry has a frame (15:R642, 09:R379). -/
def Core.endsBySyscall (k : Core) : Bool :=
  k.active && k.level == .kernel && k.reg 1#5 == 0#64 && !k.dfault && frameOk (k.sp (k.target .syscall))

/-- SYSCALL traps to Runtime; the one by which Kernel code ends the core also ends it. -/
def execSyscall (c : CoreId) (rd ra rb : Reg) (s : State) : Res :=
  .next (s.instr c 4 (fun s =>
    let k := s.core c
    if rd != 0#5 || ra != 0#5 || rb != 0#5 then (s, .trap .illegal 0#64)
    else (if k.endsBySyscall then s.coreEnd c (k.reg 2#5) else s, .trap .syscall 0#64)))

end Sys2Proof.Machine
end

