-- ==== Sys2Proof/Machine/Links.lean ====
section
/-! DEFINITION. Links (12:R505 to R520): states, flits and link retry, training, attestation and keys; and what their leaving UP does to a
draining feed (13:R574). -/

namespace Sys2Proof.Machine

/-! ## Measurements (19:R768) -/

/-- Die 0's fuse block, once it has been sensed. -/
def State.fuses0 (s : State) : Option Fuses := s.boot.inputs.bind (fun i => i.fuses.head?)

/-- PART, STEPPING and IMAGE_KEY_HASH of die 0's fuses, concatenated as fused. -/
def Fuses.measured (f : Fuses) : List Byte :=
  leBytes 4 f.part.toNat ++ leBytes 1 f.stepping.toNat ++ beBytes 48 ((f.root.map RootFuses.imageKeyHash).getD 0#384).toNat

/-- The measurement of an index, as a number. -/
def State.measurement (s : State) (n : Nat) : Nat :=
  match n with
  | 1 => ((s.boot.inputs.map StartInputs.romDigest).getD 0#384).toNat
  | 2 => (sha384 ((s.fuses0.map Fuses.measured).getD [])).toNat
  | 3 => ((s.boot.image.map SlotImage.digest).getD 0#384).toNat
  | 4 => ((s.settings.map ImageSettings.firmware).getD 0#384).toNat
  | 5 => ((s.secPolicy.map SecPolicy.digest).getD 0#384).toNat
  | 6 => fields [(0, 1, b2n s.sec.debug), (1, 2, s.sec.scope.toNat), (3, 1, b2n s.safeHold), (4, 1, b2n s.requireIde)]
  | _ => 0

/-- The SHA-384 of measurements 1 to 5, concatenated in index order, which the alias certificate carries (19:R765). -/
def State.aliasExtension (s : State) : BitVec 384 := sha384 ([1, 2, 3, 4, 5].flatMap (fun i => beBytes 48 (s.measurement i)))

/-- A private scalar from a draw. -/
def scalarOf (n : Nat) : Nat := Config.random n % (p384N - 1) + 1

/-! ## Feeds -/

/-- The feed of an optical link (13:R553). -/
def feedOf (l : LinkId) : FeedId := Fin.ofNat 4 (l.val / 8)

def State.feed (s : State) (k : FeedId) : Feed := s.feeds[k]

/-- The links of a feed group. -/
def feedGroup (k : FeedId) : List LinkId := (List.range 8).map (fun i => Fin.ofNat 35 (8 * k.val + i))

def Feed.replaceBit (f : Feed) : Bool := f.forecast.toNat < 2000

/-- A feed changes; a change of STATE, or REPLACE being set, raises LIGHT (20:R800), and the Patina level is recomputed. -/
def State.setFeed (s : State) (k : FeedId) (f : Feed) : State :=
  let old := s.feed k
  let s := { s with feeds := s.feeds.set k f }
  let s := if old.st != f.st || (f.replaceBit && !old.replaceBit) then s.event 7 [natW k.val, f.stat] else s
  s.recompute

/-- The selected laser of a wavelength. -/
def selectedLaser (m : Module) (i : Nat) : Nat := if m.sel.getD i false then 9 + i else i

/-- A laser that is lit while the module is: it is selected, and its wavelength is not DEAD. -/
def Feed.lights (f : Feed) (m : Module) (j : Nat) : Bool := (List.range 9).any (fun i => selectedLaser m i == j && !f.dead.getLsbD i)

def hourNs : Nat := 3600000000000

/-- On-hours advance by device time while the module is lit (13:R565); parts of an hour are kept. -/
def Feed.account (f : Feed) (now : Nat) : Feed := match f.module with
  | none => f
  | some m =>
    if f.dark then { f with litAt := now }
    else
      let d := now - f.litAt
      let part := (List.range 18).map (fun j => f.laserNs.getD j 0 + (if f.lights m j then d else 0))
      { f with
        litAt := now
        laserNs := part.map (· % hourNs)
        modNs := (f.modNs + d) % hourNs
        sinceNs := f.sinceNs + d
        module := some { m with laserHrs := (List.range 18).map (fun j => m.laserHrs.getD j 0 + part.getD j 0 / hourNs),
                                modHrs := m.modHrs + (f.modNs + d) / hourNs } }

/-- Bytes 128 to 209 of page B1h (13:R561). -/
def pageB1 (m : Module) : List Byte :=
  (List.range 18).flatMap (fun j => leBytes 4 (m.laserHrs.getD j 0)) ++ leBytes 4 m.modHrs ++ leBytes 2 m.lastDevice.toNat ++
    leBytes 4 m.forecast.toNat

/-- A page is selected for what follows (13:R560). -/
def State.page (s : State) (k : FeedId) (p : Byte) : State := s.emit (.moduleWrite k 127 [p])

/-- Page B1h is written (13:R562). A byte of an upper page is numbered page × 256 + byte. -/
def State.writeB1 (s : State) (k : FeedId) : State :=
  let f := (s.feed k).account s.time
  match f.module with
  | none => s
  | some m =>
    let m := { m with lastDevice := s.deviceId }
    let s := { s with feeds := s.feeds.set k { f with module := some m, modHrs := BitVec.ofNat 32 m.modHrs } }
    (s.page k 0xB1#8).emit (.moduleWrite k 0xB180 (pageB1 m))

/-- LowPwrRequestSW darkens a module; the history of a lit one is written first. -/
def State.darken (s : State) (k : FeedId) : State :=
  (if (s.feed k).dark then s else s.writeB1 k).emit (.moduleWrite k 26 [0x10#8])

/-- A draining feed whose links have all gone DOWN is darkened and removable (13:R574). -/
def State.settleFeed (s : State) (k : FeedId) : State :=
  if (s.feed k).st == .draining && (feedGroup k).all (fun l => (s.link l).st != .up && (s.link l).st != .attest && (s.link l).st != .train) then
    let s := s.darken k
    s.setFeed k { s.feed k with st := .removable, dark := true, forecast := 0xFFFFFFFF#32, swapBit := false }
  else s

/-! ## States (R508 to R511) -/

/-- The SPDM sessions of a link that has left ATTEST and UP are over. -/
def State.closeSessions (s : State) (l : LinkId) : State :=
  if (s.link l).st == .up || (s.link l).st == .attest then s
  else { s with sec := { s.sec with sessions := s.sec.sessions.filter (fun x => x.via != .fabric l) } }

/-- A link changes; a change of STATE raises LINK (20:R800), and the Patina level is recomputed. -/
def State.moveLink (s : State) (l : LinkId) (k : Link) : State :=
  let old := s.link l
  let s := s.setLink l k
  let s := if old.st != k.st then s.event 6 [natW l.val, k.stat] else s
  (s.closeSessions l).recompute

/-- A link with nothing sent, received, queued or keyed (R510, 19:R772). -/
def Link.cleared (k : Link) : Link :=
  { k with lanemap := 0#16, keyed := false, partner := 0xFFFF#16, plink := 0#6, txSeq := 0#16, rxSeq := 0#16, unacked := [],
           replays := 0, nak := false, nakIn := false, credits := Vector.replicate 8 0#16, txKey := false, rxKey := false,
           txSlot := 0, rxSlot := 0, badWords := 0, queue := [], buf := [], txKeyNo := 0, rxKeyNo := 0, rxNext := none,
           txNext := none, session := none, recvUs := 0,
           freed := Vector.replicate 8 0, starved := Vector.replicate 8 none, sentUs := 0 }

/-- The link has been UP for an hour. -/
def Link.hourUp (k : Link) (now : Nat) : Bool := k.st == .up && k.upSince + 3600000000000 ≤ now

/-- What leaving UP makes of a link (R509, R510). An hour of UP forgets the tag failures before it (R520). -/
def Link.left (k : Link) (cause : BitVec 4) (dst : LinkState) (now : Nat) : Link :=
  { k.cleared with
    st := dst
    cause := cause
    downs := satAdd k.downs 1
    tagFails := if cause != 4#4 && k.hourUp now then 0 else k.tagFails }

/-- A link leaves UP for DOWN or HOLD. -/
def State.leaveTo (s : State) (l : LinkId) (cause : BitVec 4) (dst : LinkState) : State :=
  let s := s.moveLink l ((s.link l).left cause dst s.xtal)
  if l.val < 32 then s.settleFeed (feedOf l) else s

/-- R509: a link leaves UP for DOWN. -/
def State.leaveUp (s : State) (l : LinkId) (cause : BitVec 4) : State :=
  if (s.link l).st == .up then s.leaveTo l cause .down else s

/-- R520: a tag failure; the third without an intervening hour of UP leads to HOLD. -/
def State.tagFailed (s : State) (l : LinkId) : State :=
  let k := s.link l
  let n := if k.hourUp s.xtal then 1 else k.tagFails + 1
  let s := s.setLink l { k with tagFails := n }
  if k.st != .up then s else s.leaveTo l 4#4 (if 3 ≤ n then .hold else .down)

/-- The causes by which a link leaves UP for DOWN. -/
def downCause (c : BitVec 4) : Bool := [1, 2, 3, 4, 6, 7, 8].contains c.toNat

/-- The event of a cause has happened where the link itself counts it (R509): 32 replays, 65 bad codewords in a tick, a virtual channel without
credit for 10 ms. -/
def Link.causeHolds (k : Link) (now : Nat) (cause : BitVec 4) : Bool :=
  if cause == 2#4 then 32 ≤ k.replays
  else if cause == 3#4 then 64 < k.badWords
  else if cause == 6#4 then k.starved.any (fun t => t.any (fun t => t + 10000000 ≤ now))
  else true

/-- A link in training or attestation that loses its signal goes back to DOWN and counts no departure. -/
def State.linkDown (s : State) (l : LinkId) (cause : BitVec 4) : State :=
  let k := s.link l
  if !downCause cause then s
  else if k.st == .up then
    (if cause == 4#4 then s.tagFailed l else if k.causeHolds s.xtal cause then s.leaveUp l cause else s)
  else if k.st == .train || k.st == .attest then
    let s := s.moveLink l { k.cleared with st := .down }
    if l.val < 32 then s.settleFeed (feedOf l) else s
  else s

def execLinkDown (l : LinkId) (cause : BitVec 4) (s : State) : Res := .next (s.linkDown l cause)

/-! ## Flits (R513 to R515) -/

/-- A NAK goes out. -/
def State.sendNak (s : State) (l : LinkId) (k : Link) : State := (s.setLink l { k with nak := true }).sendIdle l true

/-- LSEQ values acknowledged by LACK leave the retry buffer. -/
def ackUpTo (lack : BitVec 16) (l : List (BitVec 16)) : List (BitVec 16) :=
  if l.contains lack then (l.dropWhile (· != lack)).drop 1 else l

/-- The slots that a flit brought, by virtual channel, are drained and their credit is to be returned (R515). -/
def Link.drained (k : Link) (vs : List (BitVec 3)) : Vector Nat 8 :=
  Vector.ofFn (fun (v : Fin 8) => k.freed[v] + vs.countP (fun x => x.toNat == v.val))

/-- The partner's new key is in use from the first flit that inverts CTL.KEY (R519). -/
def Link.follow (k : Link) (key : Bool) : Link :=
  match k.rxNext with
  | some n => if key == k.rxKey then k else { k with rxKey := key, rxKeyNo := n, rxNext := none, rxSlot := 1 }
  | none => k

/-- A flit received in order and intact. -/
def Link.accept (k : Link) (f : Flit) : Link :=
  let left := ackUpTo f.lack k.unacked
  let k := { k with freed := if f.idle then k.freed else k.drained f.brings, buf := k.buf.drop (k.unacked.length - left.length) }
  { k with rxSeq := f.lseq, nak := false, unacked := left,
           replays := if left.length < k.unacked.length then 0 else k.replays,
           credits := k.credits.set f.cvc.toNat (k.credits[f.cvc.toNat] + f.cred), nakIn := k.nakIn || f.nak }

/-- A link of a draining feed with nothing unacknowledged goes DOWN with CAUSE 0x8 (13:R574). -/
def State.drainedDown (s : State) (l : LinkId) : State :=
  let k := s.link l
  if !k.unacked.isEmpty then s
  else if k.st == .train || k.st == .attest then (s.moveLink l { k.cleared with st := .down, cause := 8#4 }).settleFeed (feedOf l)
  else s.leaveUp l 8#4

/-- What freed credit and buffer let go on: queued messages start, and a drained link of a draining feed goes DOWN. -/
def State.afterAck (s : State) (l : LinkId) : State :=
  let s := s.drainLink l
  if l.val < 32 && (s.feed (feedOf l)).st == .draining then s.drainedDown l else s

/-- A flit is taken: its effect on the link, what it lets go on, and the acknowledgement of one that carries slots. -/
def State.takeFlit (s : State) (l : LinkId) (k : Link) (f : Flit) : State :=
  let s := (s.setLink l (k.accept f)).afterAck l
  if f.idle || ((s.link l).st != .up && (s.link l).st != .attest) then s else s.ackFlits l 8

/-- R514: a flit arrives. A flit under a key phase that the device has no key for fails its tag (R519, R520). -/
def State.flitIn (s : State) (l : LinkId) (f : Flit) : State :=
  let k := s.link l
  if k.st != .up && k.st != .attest then s
  else
    let k := { k with feccorr := satAdd k.feccorr f.fecCorr, rxSlot := k.rxSlot + 1, recvUs := k.recvUs + 1,
                      badWords := k.badWords + max (b2n (!f.fecOk)) f.fecBad }
    if k.st == .up && 64 < k.badWords then (s.setLink l k).leaveUp l 3#4
    else if !f.fecOk || !f.crcOk then s.sendNak l k
    else if k.keyed && (!f.tagOk || (f.key != k.rxKey && k.rxNext.isNone)) then (s.setLink l k).tagFailed l
    else
    let k := if k.keyed then k.follow f.key else k
    if f.lseq == (if f.idle then k.rxSeq else k.rxSeq + 1#16) then s.takeFlit l k f
    else if (k.rxSeq - f.lseq).toNat < 2 ^ 15 then s.setLink l k
    else s.sendNak l k

def execFlitReceive (l : LinkId) (f : Flit) (s : State) : Res := .next (s.flitIn l f)

/-- R514: on a NAK, every unacknowledged flit goes again; the 32nd replay takes the link DOWN (R509). -/
def State.flitResend (s : State) (l : LinkId) : State :=
  let k := s.link l
  if k.st != .up || !k.nakIn then s
  else if k.unacked.isEmpty then s.setLink l { k with nakIn := false }
  else
    let s := s.setLink l { k with nakIn := false, replays := k.replays + 1, retry := satAdd k.retry k.unacked.length }
    -- each goes under its new slot counter (R518)
    let s := (k.unacked.zip k.buf).foldl (fun s q => s.sendFlit l false false q.1 q.2) s
    if 32 ≤ k.replays + 1 then s.leaveUp l 2#4 else s

def execFlitResend (l : LinkId) (s : State) : Res := .next (s.flitResend l)

/-! ## Training (R507, R511) -/

/-- Light reaches the transmitters of a link: a board link, or an optical link whose module is ON. -/
def State.lit (s : State) (l : LinkId) : Bool :=
  32 ≤ l.val || (s.feed (feedOf l)).st == .on || (s.feed (feedOf l)).st == .switching

/-- The lanes that an optical link uses: lanes 0 to 7, or with one of them failed the spare lane in its place, when training
could select it. -/
def opticalLanes (good : Nat) (canSpare : Bool) : Option (Nat × Bool) :=
  let low := good % 256
  if low == 255 then some (255, false)
  else if popN 8 low == 7 && bitN good 8 && canSpare then some (256 + low, true)
  else none

/-- The lanes that a board link uses, and whether it runs at half width. -/
def boardLanes (good : Nat) : Option (Nat × Bool) :=
  if good == 0xFFFF then some (0xFFFF, false)
  else if good % 256 == 255 then some (0xFF, true)
  else if good / 256 == 255 then some (0xFF00, true)
  else none

/-- R507: board links correct a reversed lane order and inverted polarities; no other permutation locks, and an optical link's lanes are each
on their own wavelength (13:R554). -/
def TrainResult.ordered (r : TrainResult) (board : Bool) : Bool :=
  match r.order with
  | .straight => board || r.inverted == 0#16
  | .reversed => board
  | .other => false

/-- The lanes that are good, in the device's own order. -/
def TrainResult.good (r : TrainResult) (lost : BitVec 16) : Nat :=
  let seen := if r.order = .reversed then r.lanes.reverse else r.lanes
  (seen &&& ~~~lost).toNat

/-- The credit that the receiver of a link has to give at first (R515). -/
def firstCredit : Vector Nat 8 := Vector.ofFn (fun (v : Fin 8) => if v.val < 6 then (Config.rxCredits v.val).toNat else 0)

/-- A link enters ATTEST: credit goes to the partner, and SPDM begins with the request for its certificate chain (R515, R516). -/
def State.beginAttest (s : State) (l : LinkId) (k : Link) : State :=
  ((s.moveLink l { k with st := .attest, freed := firstCredit }).push l (s.mgmtMsg 0xFFFF#16 mgmtSpdm [natW spdmCertificate])).ackFlits l 8

/-- R511: a DOWN link trains while the data plane's clocks run (17:R714). It goes to ATTEST once it is locked, stays in TRAIN until then, and
without enough good lanes stays DOWN. In ATTEST the ends run SPDM over messages to 0xFFFF (R516). -/
def State.linkTrain (s : State) (l : LinkId) (r : TrainResult) : State :=
  let k := s.link l
  if (k.st != .down && k.st != .train) || !s.lit l || !s.dataPlane then s
  else
    let good := TrainResult.good r (k.lost ||| k.lostRx)
    let used := if l.val < 32 then opticalLanes good r.spare else boardLanes good
    match used with
    | none =>
      -- a link that a planned switch of its feed has taken down waits for it to end (13: edge cases)
      let held := l.val < 32 && (s.feed (feedOf l)).st == .switching && k.cause == 8#4
      s.moveLink l { k with st := .down, cause := if held then 8#4 else 7#4 }
    | some (m, part) =>
      if !r.locked || !TrainResult.ordered r (32 ≤ l.val) then s.moveLink l { k with st := .train }
      else s.beginAttest l { k with lanemap := BitVec.ofNat 16 m, spare := if l.val < 32 then part else k.spare, degr := if l.val < 32 then k.degr else part }

def execLinkTrain (l : LinkId) (r : TrainResult) (s : State) : Res := .next (s.linkTrain l r)

/-! ## Attestation and keys (R516 to R519, 19:R771) -/

/-- The partner's identity and measurements are accepted. -/
def State.acceptsPartner (s : State) (p : Partner) : Bool :=
  match s.secPolicy with
  | none => false
  | some g =>
    p.chainOk && p.meas2.toNat == s.measurement 2 && p.meas5.toNat == s.measurement 5 &&
    ((g.fwAllow.take g.nfw).contains p.meas4 || (g.nfw == 0 && p.meas4.toNat == s.measurement 4)) &&
    (!p.debug || g.peerDebugOk)

/-- The link map's partner of a link. -/
def State.mapped (s : State) (l : LinkId) : Option (BitVec 16 × BitVec 6) :=
  match s.settings with
  | some g => (g.linkMap.find? (fun x => x.1 == l)).map Prod.snd
  | none => none

/-- The device's part of the session on a link (R516): what waited of the exchange goes, on credit that has come back within it; then KEY_EXCHANGE
with a share drawn anew, and FINISH. -/
def State.linkSession (s : State) (l : LinkId) : State :=
  let (s, n) := s.drawKey
  let k := s.link l
  let say (code : Nat) (body : List Word) : Msg := s.mgmtMsg 0xFFFF#16 mgmtSpdm (natW code :: body)
  (k.queue.filter Msg.ofLink ++ [say spdmKeyExchange [natW n], say spdmFinish []]).foldl (fun s m => s.sendFlits l m)
    (s.setLink l { k with queue := [], session := some n })

/-- A link comes UP: a session is set up, a key for each direction derived from its secrets (R516), and what has waited for the link goes. -/
def State.linkUpNow (s : State) (l : LinkId) (p : Partner) : State :=
  let s := s.linkSession l
  let k := s.link l
  let n := k.session.getD 0
  let s := s.moveLink l { k with st := .up, keyed := true, partner := p.device, plink := p.plink, upSince := s.xtal,
                                 txKeyNo := Config.linkKey n p.share true, rxKeyNo := Config.linkKey n p.share false }
  ((s.drainLink l).ackFlits l 8).tell

/-- R516, R517: the ends attest each other; the link goes UP with its keys, or to HOLD when either end refuses the other. -/
def State.linkAttest (s : State) (l : LinkId) (p : Partner) : State :=
  let k := s.link l
  if k.st != .attest || !s.lit l || !s.dataPlane then s
  else if !s.acceptsPartner p || p.refuses then s.moveLink l { k.cleared with st := .hold, cause := 5#4, upSince := s.xtal }
  else if s.mapped l != some (p.device, p.plink) then s.moveLink l { k.cleared with st := .hold, cause := 9#4, upSince := s.xtal }
  else s.linkUpNow l p

def execLinkAttest (l : LinkId) (p : Partner) (s : State) : Res := .next (s.linkAttest l p)

/-- R517: a link that attestation refused is tried again every 10 s. -/
def State.holdRetry (s : State) (l : LinkId) : State :=
  let k := s.link l
  if k.st == .hold && k.cause == 5#4 && k.upSince + 10000000000 ≤ s.xtal then s.moveLink l { k with st := .down } else s

def execLinkHoldRetry (l : LinkId) (s : State) : Res := .next (s.holdRetry l)

/-- R519: the device's direction goes on under a new key: KEY_UPDATE goes to the partner, and once it has left, the next flit inverts CTL.KEY. -/
def State.rekeyTx (s : State) (l : LinkId) : State :=
  let k := s.link l
  if k.txNext.isSome then s
  else (s.setLink l { k with txNext := some (Config.nextKey k.txKeyNo) }).push l (s.mgmtMsg 0xFFFF#16 mgmtKeyUpdate [])

/-- R519: a direction is rekeyed: the device's own, or at the partner's KEY_UPDATE the partner's, whose next key waits for the first flit that
inverts CTL.KEY. -/
def State.linkRekey (s : State) (l : LinkId) (sending : Bool) : State :=
  let k := s.link l
  if k.st != .up then s
  else if sending then s.rekeyTx l
  else s.setLink l { k with rxNext := some (Config.nextKey k.rxKeyNo) }

/-- The flit slots that a link passes in the microsecond after `us`: 1.6 Tb/s in flits of 2,048 bits, half of it at half width (R505, R511). -/
def slotsIn (half : Bool) (us : Nat) : Nat := if half then 3125 * (us + 1) / 8 - 3125 * us / 8 else 3125 * (us + 1) / 4 - 3125 * us / 4

/-- R518: both slot counters advance once for every flit slot on the lanes, idle ones included. -/
def Link.passSlots (k : Link) (us : Nat) : Link :=
  if k.st == .up || k.st == .attest then
    let n := slotsIn k.degr us
    { k with txSlot := k.txSlot + (n - k.sentUs), rxSlot := k.rxSlot + (n - k.recvUs), sentUs := 0, recvUs := 0 }
  else k

/-- R519: the slot counter nears 2^36, and the direction is rekeyed before it passes. -/
def Link.rekeyDue (k : Link) : Bool := k.st == .up && 2 ^ 36 - 2 ^ 24 ≤ k.txSlot

/-- The slots of a microsecond pass on every link. -/
def State.passSlots (s : State) : State :=
  let s := { s with links := s.links.map (fun (k : Link) => k.passSlots s.us) }
  (List.finRange 35).foldl (fun s l => if (s.link l).rekeyDue then s.rekeyTx l else s) s

def execLinkRekey (l : LinkId) (sending : Bool) (s : State) : Res := .next (s.linkRekey l sending)

end Sys2Proof.Machine
end

