-- ==== Sys2Proof/Machine/Fabric.lean ====
section
/-! DEFINITION. The fabric above the links (12:R521 to R551; 18:R756): requests at inbound windows, responses and streams, routes and
forwarding, fabric time, Drydown notices and redirects. -/

namespace Sys2Proof.Machine

/-! ## Requests at the receiver (R524, R527, R537 to R540) -/

/-- The resident context that owns an inbound window, with the window. -/
def State.inWin (s : State) (w : BitVec 6) : Option (Context × InWin) :=
  s.ctxs.findSome? (fun x => (x.ins.find? (fun i => i.win == w)).map (fun i => (x, i)))

/-- The members of the sync group of a group address: those of the device's own group, itself among them, or of another that the image lists
(R548). -/
def State.groupMembers (s : State) (grp : BitVec 16) : List (BitVec 16) := match s.settings with
  | none => []
  | some g =>
    if s.groupAddr != 0 && grp.toNat == s.groupAddr then s.deviceId :: g.members
    else match g.others.find? (fun o => 0x8000#16 + o.1.setWidth 16 == grp) with
      | some o => o.2
      | none => []

/-- The source is permitted by SRCSEL: it is named, a member of a named group, or any device (R537). -/
def State.srcOk (s : State) (sel src : BitVec 16) : Bool := sel == src || sel == 0xFFFF#16 || (s.groupMembers sel).contains src

def granule (g : BitVec 2) : Nat := match g.toNat with
  | 0 => 0x10000
  | 1 => 0x200000
  | _ => 0x4000000

/-- The device address of a window offset for a request of `n` bytes (R523, R537, R538). -/
def InWin.addr (i : InWin) (off n : Nat) : Option Nat :=
  let g := granule i.gran
  if n == 0 || 256 < off % 256 + n || off / g != (off + n - 1) / g then none
  else match i.entries[off / g]? with
    | some (some b) => some (b + off % g)
    | _ => none

/-- The bit of PERM that a class needs. -/
def permBit (cls : BitVec 4) : Nat := match cls.toNat with
  | 0 => 0
  | 1 => 1
  | 2 => 2
  | _ => 3

/-- The state, status and data with which a request in its turn is answered: 0x00 OK or 0x01 error. -/
structure Served where
  s      : State
  status : BitVec 8
  data   : List Byte

def Served.error (s : State) : Served := ⟨s, 1#8, []⟩

/-- A request that no context owns, no source may make or PERM forbids is an error (R538); else the window serves it. -/
def State.serve (s : State) (m : Msg) (act : State → Context → InWin → Served) : Served :=
  match s.inWin m.rwin with
  | none => .error s
  | some (x, i) => if s.srcOk i.srcsel m.src && bitN i.perm.toNat (permBit m.cls) then act s x i else .error s

/-- A WRITE writes its bytes (R539). -/
def serveWrite (m : Msg) (s : State) (_ : Context) (i : InWin) : Served :=
  match i.addr m.offset.toNat m.data.length with
  | none => .error s
  | some a =>
    let (s, st, _) := s.devWrite i.cls none a m.data
    if st == stOk then ⟨s, 0#8, []⟩ else .error s

/-- A READ returns its bytes. -/
def serveRead (m : Msg) (s : State) (_ : Context) (i : InWin) : Served :=
  match i.addr m.offset.toNat (m.len.toNat + 1) with
  | none => .error s
  | some a =>
    let (s, st, bs) := s.devRead i.cls a (m.len.toNat + 1)
    if st == stOk then ⟨s, 0#8, bs⟩ else .error s

/-- A WADD adds whole wide records in HBM and returns the flags (R306, R445). -/
def serveWadd (m : Msg) (s : State) (_ : Context) (i : InWin) : Served :=
  match i.addr m.offset.toNat m.data.length with
  | none => .error s
  | some a =>
    if devPlace a != .hbm || m.data.length % 32 != 0 || a % 32 != 0 then .error s
    else
      let (s, st, f) := s.devWrite i.cls (some .wadd) a m.data
      if st == stOk then ⟨s, 0#8, [(dmaFlags f).setWidth 8]⟩ else .error s

/-- A SIGNAL adds its increment to the owner's counter. -/
def serveSignal (m : Msg) (s : State) (x : Context) (_ : InWin) : Served :=
  let idx : BitVec 8 := m.offset.setWidth 8
  let inc : Word := (m.offset >>> 8).setWidth 64
  ⟨s.updCtx x.pasid (fun x => { x with counters := x.counters.set idx.toNat (x.counters[idx.toNat] + inc) }), 0#8, []⟩

/-- The answer to a request, with its SEQ; `ahead` marks the answer that gives the expected SEQ (logged). -/
def State.respond (s : State) (m : Msg) (seq : BitVec 16) (status : BitVec 8) (ahead : Bool) (data : List Byte) : State :=
  s.sendMsg { dest := m.src, src := s.deviceId, cls := m.cls, rsp := true, hops := 0#4, rwin := m.rwin, seq := seq,
              epoch := m.epoch, offset := if ahead then 1#38 else 0#38, len := status, data := data }

def State.receiver (s : State) (w : BitVec 6) (src : BitVec 16) : Option Receiver :=
  s.fab.receivers.find? (fun r => r.win == w && r.src == src)

def State.setReceiver (s : State) (r : Receiver) : State :=
  let l := s.fab.receivers
  let l := if l.any (fun y => y.win == r.win && y.src == r.src)
    then l.map (fun y => if y.win == r.win && y.src == r.src then r else y) else l ++ [r]
  { s with fab := { s.fab with receivers := l } }

/-- The request in its turn takes effect and is answered. -/
def State.applyReq (s : State) (m : Msg) (act : State → Context → InWin → Served) : State :=
  let v := s.serve m act
  (v.s.setReceiver ⟨m.rwin, m.src, m.epoch, m.seq + 1#16, v.status⟩).respond m m.seq v.status false v.data

/-- A window whose context an EVACUATE has stopped, or has taken to a peer, answers nothing (18:R754). -/
def State.quietWin (s : State) (w : BitVec 6) : Bool := match s.inWin w with
  | some (x, _) => x.quiet
  | none => s.fab.quiet.contains w

/-- R524, R527: requests of a stream take effect in order, once. -/
def State.reqIn (s : State) (m : Msg) (act : State → Context → InWin → Served) : State :=
  if m.dest != s.deviceId || m.rsp || !s.dataPlane || s.quietWin m.rwin then s
  else
    let s := { s with power := { s.power with idleSince := s.xtal } }
    let r := s.receiver m.rwin m.src
    if r.isNone && 256 ≤ (s.fab.receivers.filter (fun y => y.win == m.rwin)).length then s.respond m m.seq 1#8 false []
    else if m.seq == 0#16 && (r.map Receiver.epoch) != some m.epoch then s.applyReq m act
    else match r with
      | none => s.respond m 0#16 0#8 true []
      | some r =>
        if r.epoch != m.epoch then s
        else if m.seq == r.expect then s.applyReq m act
        else if (r.expect - m.seq).toNat < 2 ^ 15 then
          if m.cls == clsRead && r.status == 0#8 then
            let v := s.serve m act
            v.s.respond m m.seq v.status false v.data
          else s.respond m m.seq r.status false []
        else s.respond m r.expect r.status true []

def execWriteRequestReceive (m : Msg) (s : State) : Res :=
  .next (if m.cls == clsWrite then s.reqIn m (serveWrite m) else s)

def execReadRequestReceive (m : Msg) (s : State) : Res :=
  .next (if m.cls == clsRead then s.reqIn m (serveRead m) else s)

def execWaddRequestReceive (m : Msg) (s : State) : Res :=
  .next (if m.cls == clsWadd then s.reqIn m (serveWadd m) else s)

def execSignalRequestReceive (m : Msg) (s : State) : Res :=
  .next (if m.cls == clsSignal then s.reqIn m (serveSignal m) else s)

/-- The effect of a request of a class. -/
def actOf (m : Msg) : State → Context → InWin → Served := match m.cls.toNat with
  | 0 => serveWrite m
  | 1 => serveRead m
  | 2 => serveWadd m
  | _ => serveSignal m

/-! ## Streams at the sender (R524 to R526, R591) -/

/-- The head of a channel, while it waits for the fabric on behalf of a ticket. -/
def State.remoteHead (s : State) (ch : ChanId) (ticket : BitVec 32) : Option Desc :=
  match (s.chan ch).head with
  | some d => if d.ticket == ticket && d.fin.isNone && (s.chan ch).wait == .remote then some d else none
  | none => none

/-- The bytes that a sender's requests carry, read again from the source of its descriptor, by window offset (R525). Host bytes are asked for again:
they are the ones that the requests hold (10:R413), as for a source that cannot be read (log 158). -/
def State.reread (s : State) : Sender → State × List (BitVec 38 × List Byte)
  | .chan ch ticket => match s.remoteHead ch ticket with
    | none => (s, [])
    | some d =>
      let t := tileOf d.words
      let x := s.chan ch
      let n := t.accessLen x.plane x.row x.col
      let rs := [t.reads x.plane x.row x.col n]
      if t.shost then (if s.hostOpen then rs.foldl (fun (s : State) x => s.hostRead ch d.pasid x.1 x.2) s else s, [])
      else if inWindow ((rs.head?.map Prod.fst).getD 0) then (s, [])
      else
        let (s, st, bs, _) := s.devReads t.cls (rs.flatMap (cutRead 4))
        let ws := (joinRuns (t.writes x.plane x.row x.col n x.carry bs).1).flatMap (cutWrite 4)
        (s, if st == stOk then ws.map (fun w => (BitVec.ofNat 38 ((w.1 - windowBase) % windowBytes), w.2)) else [])
  | _ => (s, [])

def State.rereadAll (s : State) : List Sender → State × List (Sender × (BitVec 38 × List Byte))
  | [] => (s, [])
  | b :: bs =>
    let (s, l) := s.reread b
    let (s, more) := State.rereadAll s bs
    (s, l.map (fun w => (b, w)) ++ more)

/-- The request as it goes again, with its data read again. -/
def freshMsg (fresh : List (Sender × (BitVec 38 × List Byte))) (m : Msg) (by_ : Sender) : Msg :=
  if m.cls == clsWrite || m.cls == clsWadd then
    match fresh.find? (fun f => f.1 == by_ && f.2.1 == m.offset) with
    | some f => { m with data := f.2.2 }
    | none => m
  else m

/-- The unacknowledged requests of a stream from a SEQ on go again, to the device that its window's traffic goes to now. -/
def State.resendFrom (s : State) (x : Stream) (seq : BitVec 16) : State :=
  let dest (m : Msg) : BitVec 16 := match (s.ctx x.pasid).bind (fun c => c.outs.find? (fun o => o.win == x.win)) with
    | some o => s.redirected o.dest
    | none => m.dest
  let (s, fresh) := s.rereadAll (x.unacked.map Prod.snd).eraseDups
  let l := x.unacked.map (fun u => ({ freshMsg fresh u.1 u.2 with dest := dest u.1 }, u.2))
  let s := s.setStream { x with unacked := l, resends := x.resends + 1, advAt := s.xtal }
  (l.filter (fun u => (u.1.seq - seq).toNat < 2 ^ 15)).foldl (fun s u => s.sendMsg u.1) s

/-- A stream resends from its first unacknowledged request (R525). -/
def State.resendStream (s : State) (x : Stream) : State := match x.unacked.head? with
  | some u => s.resendFrom x u.1.seq
  | none => s

/-- A signal error is counted for its context (R591). -/
def State.signalError (s : State) (p : Pasid) : State := s.updCtx p (fun x => { x with sigErrs := x.sigErrs + 1#32 })

/-- The answer to the record of a head: the descriptor completes. -/
def State.recordDone (s : State) (ch : ChanId) (ticket : BitVec 32) : State :=
  match (s.chan ch).head with
  | some d => match d.fin with
    | some f => if d.ticket == ticket && (s.chan ch).wait == .remote then s.retireDesc ch d f else s
    | none => s
  | none => s

/-- A request's sender learns that it failed; a descriptor whose record it carried completes without it (11:R477). -/
def State.requestFailed (s : State) (p : Pasid) : Sender → State
  | .signal => s.signalError p
  | .chan ch ticket => match s.remoteHead ch ticket with
    | some d => s.endAt ch (tileOf d.words) stRemote
    | none => s
  | .record ch ticket => s.recordDone ch ticket

/-- A request's sender learns that it took effect: READ bytes gather, WADD flags join, and once the access has no
unacknowledged request the walk goes on. -/
def State.requestDone (s : State) (m r : Msg) (more : Bool) : Sender → State
  | .signal => s
  | .record ch ticket => if more then s else s.recordDone ch ticket
  | .chan ch ticket => match s.remoteHead ch ticket with
    | none => s
    | some d =>
      let t := tileOf d.words
      let x := s.chan ch
      let fl : BitVec 7 := if m.cls == clsWadd then ((r.data.head?).getD 0#8).setWidth 7 else 0#7
      let got := if m.cls == clsRead then x.got ++ r.data else x.got
      let s := s.setChan ch { x with got := got, flags := x.flags ||| fl }
      if more then s
      else
        let n := t.accessLen x.plane x.row x.col
        let s := s.updChan ch (fun x => { x with wait := .none, got := [] })
        State.settle (if m.cls == clsRead then s.deliver ch d t n got (.data []) else s.advanceWalk ch d t n 0#7)

/-- A stream whose oldest unacknowledged request a response answers. -/
def State.answered (s : State) (r : Msg) : Option Stream :=
  s.fab.streams.find? (fun x => match x.unacked with
    | (m, _) :: _ => m.dest == r.src && m.rwin == r.rwin && m.epoch == r.epoch && (r.offset == 1#38 || m.seq == r.seq)
    | [] => false)

/-- R525: a response arrives. Only the answer to a stream's oldest request acknowledges it; an answer that gives the
expected SEQ makes the stream resend from it (R524). -/
def State.responseIn (s : State) (r : Msg) : State :=
  if !r.rsp || r.dest != s.deviceId || !s.dataPlane then s
  else match s.answered r with
    | none => s
    | some x => match x.unacked with
      | [] => s
      | (m, by_) :: rest =>
        if r.offset == 1#38 then s.resendFrom x r.seq
        else
          let s := s.setStream { x with unacked := rest, resends := 0, advAt := s.xtal }
          if r.len != 0#8 then State.settle (s.requestFailed x.pasid by_)
          else s.requestDone m r (rest.any (fun u => u.2 == by_)) by_

/-- R532: the messages from the device to itself arrive. -/
def State.loopback (s : State) : State :=
  if !s.dataPlane then s
  else s.fab.loop.foldl (fun s m => if m.rsp then s.responseIn m else if m.cls.toNat < 4 then s.reqIn m (actOf m) else s)
    { s with fab := { s.fab with loop := [] } }

def execResponseReceive (m : Msg) (s : State) : Res := .next (s.responseIn m)

/-- R525: 200 µs have passed without an advance in acknowledgement. -/
def execStreamResend (pasid : Pasid) (w : BitVec 6) (s : State) : Res :=
  .next (match s.stream pasid w with
    | some x => if x.unacked.isEmpty || 16 ≤ x.resends || s.xtal < x.advAt + 200000 then s else s.resendStream x
    | none => s)

/-- The head of a channel walks towards a window of a context: its access at the cursor goes through it. -/
def State.walksTo (s : State) (ch : ChanId) (p : Pasid) (w : BitVec 6) : Bool :=
  let x := s.chan ch
  match x.head with
  | none => false
  | some d =>
    let t := tileOf d.words
    let at_ := (if t.shost then [] else [t.srcRow x.plane x.row + x.col]) ++
      (if t.dhost then [] else t.dst :: (t.unitDst x.plane x.row x.col).map Prod.fst)
    d.pasid == p && x.started && d.fin.isNone && at_.any (fun a => (s.outWin p a).any (fun o => o.win == w))

/-- The head of a channel ends with REMOTE at its cursor. -/
def State.endRemote (s : State) (ch : ChanId) : State :=
  let s := { s with ring := s.ring.orphan ch }
  s.updChan ch (fun x => match x.head with
    | some d => x.owe.finish (x.finAt (tileOf d.words) stRemote)
    | none => x)

/-- R526: the stream's destination is unreachable; every descriptor that waits on it or walks towards it ends, and the stream begins anew, with a
new EPOCH, at the next. -/
def State.streamDead (s : State) (x : Stream) : State :=
  let s := { s with fab := { s.fab with streams := s.fab.streams.filter (fun y => !(y.pasid == x.pasid && y.win == x.win)) } }
  let s := x.unacked.foldl (fun s u => s.requestFailed x.pasid u.2) s
  State.settle ((List.finRange 128).foldl (fun s ch => if s.walksTo ch x.pasid x.win then s.endRemote ch else s) s)

/-- The destination of a stream's traffic. -/
def Stream.dest (x : Stream) : Option (BitVec 16) := (x.unacked.head?).map (fun u => u.1.dest)

def execStreamUnreachable (pasid : Pasid) (w : BitVec 6) (s : State) : Res :=
  .next (match s.stream pasid w with
    | some x => match x.dest with
      | some d => if s.unreachable d || 16 ≤ x.resends then s.streamDead x else s
      | none => s
    | none => s)

/-! ## Routes and forwarding (R529 to R533) -/

/-- The streams towards a destination resend (R525, R532). -/
def State.routeChange (s : State) (dest : BitVec 16) : State :=
  (s.fab.streams.filter (fun x => x.dest == some dest)).foldl (fun s x => s.resendStream x) s

def execRouteSwitch (dest : BitVec 16) (s : State) : Res := .next (s.routeChange dest)

def reservedDest (d : BitVec 16) : Bool := 0x8100 ≤ d.toNat && d.toNat < 0xFFFF

def groupDest (d : BitVec 16) : Bool := 0x8000 ≤ d.toNat && d.toNat < 0x8100

/-- A message is discarded and counted. -/
def State.discard (s : State) : State := { s with fab := { s.fab with discarded := s.fab.discarded + 1 } }

/-- The links on which the messages of a sync group go (R531). -/
def State.groupLinks (s : State) (grp : BitVec 8) : List LinkId := match s.settings with
  | none => []
  | some g => match g.groupLinks.find? (fun x => x.1 == grp) with
    | some x => x.2
    | none => []

/-- A message goes out on the links of a list that take messages. -/
def State.sendOn (s : State) (m : Msg) (ls : List LinkId) : State :=
  ls.foldl (fun s l => if s.takesMessages l then s.push l m else s) s

/-- A TIME message between the ends of a link (R543). Its data slot is one of zeros (log 156). -/
def State.timeMsg (s : State) (rsp : Bool) : Msg :=
  { dest := 0xFFFF#16, src := s.deviceId, cls := clsTime, rsp := rsp, hops := 0#4, rwin := 0#6, seq := 0#16, epoch := 0#16, offset := 0#38,
    len := if rsp then 0#8 else 15#8, data := List.replicate 16 0#8 }

/-- R530, R533: a message that arrived on a link and is not only for this device. A parent answers the TIME message of a child (R543). -/
def State.forward (s : State) (l : LinkId) (m : Msg) : State :=
  if (s.link l).st != .up || m.cls == 0xF#4 then s
  else if reservedDest m.dest || (groupDest m.dest && m.cls != clsTime && m.cls != clsMgmt) then s.discard
  else if m.dest == 0xFFFF#16 then (if m.cls == clsTime && !m.rsp then s.push l (s.timeMsg true) else s)
  else if m.dest == s.deviceId then s
  else if groupDest m.dest then
    if s.fab.seen.contains (m.src, m.seq) || m.src == s.deviceId then s
    else
      let s := { s with fab := { s.fab with seen := s.fab.seen ++ [(m.src, m.seq)] } }
      if m.hops == 15#4 then s.discard else s.sendOn { m with hops := m.hops + 1#4 } ((s.groupLinks (m.dest.setWidth 8)).filter (· != l))
  else if m.hops == 15#4 then s.discard
  else s.sendMsg { m with hops := m.hops + 1#4 }

def execMessageForward (l : LinkId) (m : Msg) (s : State) : Res := .next (s.forward l m)

/-! ## Fabric time (R542 to R547) -/

/-- The parent link in use: the parent, or the alternate when the parent is not UP or its feed drains (13:R574). -/
def State.parentLink (s : State) : Option LinkId :=
  match s.settings with
  | none => none
  | some g => match g.parent, g.altParent with
    | some p, a => if s.takesMessages p then some p else a.filter s.takesMessages
    | none, a => a.filter s.takesMessages

/-- The child's offset from its parent: equal delays in the two directions (R543). -/
def TimeStampsErr (t : TimeStamps) : Int := ((t.t1 - t.t2) + (t.t4 - t.t3)) / 2

/-- R543, R546: an exchange with the parent, once per tick. The offset is corrected in one step before the first RUN when it is above 1 µs,
else by slewing. -/
def State.timeExchange (s : State) (t : TimeStamps) : State :=
  if s.timeMaster || !s.tickDue s.fab.timeTick then s
  else match s.parentLink with
    | none => s
    | some l =>
      let s := s.push l (s.timeMsg false)
      let e := TimeStampsErr t
      let f := { s.fab with timeErr := e, timeLink := some l, holdover := false, noParent := none, locked := e.natAbs ≤ 20,
                              timeTick := some (tickNo s.xtal) }
      if !s.boot.runSeen && 1000 < e.natAbs then
        let now := ((s.time : Int) - e).toNat
        -- the step is no on-time of a laser (13:R565)
        { s with time := now, fab := { f with slew := 0 }, feeds := s.feeds.map (fun x => { x.account s.time with litAt := now }) }
      else { s with fab := { f with slew := -e } }

def execTimeExchange (ts : TimeStamps) (s : State) : Res := .next (s.timeExchange ts)

/-- R546: the parent link is not UP; the alternate is used, or the counter runs free. -/
def State.parentLoss (s : State) : State :=
  if s.timeMaster || s.settings.isNone then s
  else match s.parentLink with
    | some l => { s with fab := { s.fab with timeLink := some l, holdover := false, noParent := none } }
    | none =>
      { s with fab := { s.fab with timeLink := none, holdover := true, slew := 0,
                                   noParent := some (s.fab.noParent.getD s.xtal) } }

def execTimeParentLoss (s : State) : Res := .next s.parentLoss

/-- R546: LOCKED clears after 1 s without a parent. -/
def execTimeLockLoss (s : State) : Res :=
  .next (match s.fab.noParent with
    | some t => if t + 1000000000 ≤ s.xtal then { s with fab := { s.fab with locked := false } } else s
    | none => s)

/-! ## Sync groups (R548 to R551) -/

/-- Ticks in ns: a tick is 1/2,048 s (01:R46). -/
def ticksNs (n : Nat) : Nat := n * 1953125 / 4

/-- The data slot of a notice: sender, level, number. -/
def noticeSlot (sender : BitVec 16) (level : BitVec 3) (seq : BitVec 16) : List Byte :=
  leBytes 2 sender.toNat ++ [level.setWidth 8, 0#8] ++ leBytes 2 seq.toNat ++ List.replicate 10 0#8

/-- R549: a member sends its notice when its level has changed or 16 ticks have passed. -/
def State.noticeSend (s : State) : State :=
  let lv := s.localLevel
  if s.groupAddr == 0 || (s.fab.noticeLvl == some lv && s.xtal < s.fab.noticeAt + ticksNs 16) then s
  else
    let q := s.fab.noticeSeq + 1#16
    let m : Msg :=
      { dest := BitVec.ofNat 16 s.groupAddr, src := s.deviceId, cls := clsMgmt, rsp := false, hops := 0#4, rwin := 0#6,
        seq := q, epoch := 0#16, offset := 0#38, len := 15#8, data := noticeSlot s.deviceId lv q }
    ({ s with fab := { s.fab with noticeSeq := q, noticeAt := s.xtal, noticeLvl := some lv } }).sendOn m (s.groupLinks (m.dest.setWidth 8))

def execDrydownNoticeSend (s : State) : Res := .next s.noticeSend

/-- R550: a member's notice is held, in place of the one before it: a member's notice counts for 64 ticks from its latest. -/
def State.noticeIn (s : State) (sender : BitVec 16) (level : BitVec 3) (seq : BitVec 16) : State :=
  if s.groupAddr == 0 || sender == s.deviceId || !((s.settings.map ImageSettings.members).getD []).contains sender then s
  else
    { s with fab := { s.fab with notices := s.fab.notices.filter (fun n => n.sender != sender) ++ [⟨sender, level, seq, s.xtal⟩] } }

def execDrydownNoticeReceive (sender : BitVec 16) (level : BitVec 3) (seq : BitVec 16) (s : State) : Res :=
  .next (s.noticeIn sender level seq)

/-- R550: a notice stops counting after 64 ticks. -/
def execDrydownNoticeExpiry (sender : BitVec 16) (s : State) : Res :=
  .next { s with fab := { s.fab with notices := s.fab.notices.filter (fun n =>
    !(n.sender == sender && n.time + ticksNs 64 ≤ s.xtal)) } }

/-! ## Redirects (18:R756) -/

/-- A REDIRECT: a device that names itself as new removes its entry; else the entry is set or replaced, and the streams
to the old device are routed anew. -/
def State.redirectIn (s : State) (src old new : BitVec 16) : State :=
  let l := s.rep.redirects
  if src != old then s
  else if old == new then
    ({ s with rep := { s.rep with redirects := l.filter (fun r => r.1 != old) } }).routeChange (s.redirected old)
  else if l.any (fun r => r.1 == old) then
    let was := s.redirected old
    ({ s with rep := { s.rep with redirects := l.map (fun (r : BitVec 16 × BitVec 16) => if r.1 == old then (old, new) else r) } }).routeChange was
  else if 256 ≤ l.length then { s with rep := { s.rep with redirOver := s.rep.redirOver + 1 } }
  else ({ s with rep := { s.rep with redirects := l ++ [(old, new)] } }).routeChange old

def execRedirectReceive (src old new : BitVec 16) (s : State) : Res := .next (s.redirectIn src old new)

end Sys2Proof.Machine
end

