-- ==== Sys2Proof/Machine/Light.lean ====
section
/-! DEFINITION. Light-source modules (13:R552 to R575): acceptance, polling, hours and forecast, spare lasers, ring locks, and the planned
swap. -/

namespace Sys2Proof.Machine

/-! ## Forecast (R565, R566) -/

/-- Sums over samples of (hour, bias): count, hours, biases, squares of hours, products. -/
def sampleSums (l : List (Nat × Nat)) : Nat × Nat × Nat × Nat × Nat :=
  l.foldl (fun (n, t, b, tt, tb) x => (n + 1, t + x.1, b + x.2, tt + x.1 * x.1, tb + x.1 * x.2)) (0, 0, 0, 0, 0)

/-- The least-squares slope as a fraction: numerator and denominator; none with fewer than 100 samples or a slope not
above 0. -/
def slopeOf (l : List (Nat × Nat)) : Option (Nat × Nat) :=
  let (n, t, b, tt, tb) := sampleSums l
  if 100 ≤ n && t * b < n * tb && t * t < n * tt then some (n * tb - t * b, n * tt - t * t) else none

def ratedHrs (m : Module) (j : Nat) : Nat := m.laserRated - m.laserHrs.getD j 0

/-- The hours left of a laser. -/
def leftHrs (m : Module) (samples : List (List (Nat × Nat))) (j : Nat) : Nat :=
  match slopeOf (samples.getD j []) with
  | some (n, d) => min ((m.biasEol - m.bias.getD j 0) * d / n) (ratedHrs m j)
  | none => ratedHrs m j

/-- FORECAST_HRS. -/
def forecastOf (m : Module) (samples : List (List (Nat × Nat))) (dead : BitVec 9) : BitVec 32 :=
  let wl (i : Nat) : Nat :=
    if m.sel.getD i false then leftHrs m samples (9 + i)
    else leftHrs m samples i + (if dead.getLsbD i then 0 else ratedHrs m (9 + i))
  let v := ((List.range 9).map wl).foldl min (m.modRated - m.modHrs)
  BitVec.ofNat 32 (if dead != 0#9 then 0 else min v 0xFFFFFFFF)

/-- The feed's forecast while its module is ON, which page B1h keeps. -/
def Feed.refresh (f : Feed) : Feed :=
  match f.module with
  | some m =>
    let v := forecastOf m f.samples f.dead
    { f with forecast := v, module := some { m with forecast := v } }
  | none => f

/-! ## Acceptance (R563) -/

/-- The links of a feed group that are not UP stay DOWN with CAUSE 0x7, and one that is UP leaves with it. -/
def State.groupDark (s : State) (k : FeedId) : State :=
  (feedGroup k).foldl (fun s l =>
    let x := s.link l
    if x.st == .up then s.leaveUp l 7#4
    else if x.st == .down || x.st == .train || x.st == .attest then s.moveLink l { x.cleared with st := .down, cause := 7#4 }
    else s) s

/-- A module is rejected: darkened, and its links stay DOWN. -/
def State.rejectModule (s : State) (k : FeedId) (reason : BitVec 4) : State :=
  let s := s.darken k
  (s.setFeed k { s.feed k with st := .rejected, reason := reason, dark := true, forecast := 0xFFFFFFFF#32, sws := [] }).groupDark k

/-- The module is listed in the image. -/
def State.expected (s : State) (m : Module) : Bool :=
  ((s.settings.map ImageSettings.modules).getD []).contains (m.oui, m.part)

/-- The reason for which a module is not accepted; 0 when it is. -/
def State.moduleReason (s : State) (m : Module) : BitVec 4 :=
  if !m.responds then 3#4
  else if m.ident != Config.elsfpIdent || m.pageVer.toNat < 1 then 2#4
  else if !s.expected m then 1#4
  else if m.fault then 3#4
  else 0#4

/-- A module accepted in place of another restores the spare lanes of its links (18:R759). -/
def State.freshLanes (s : State) (k : FeedId) : State :=
  (feedGroup k).foldl (fun s l => s.setLink l { s.link l with spare := false, lost := 0#16 }) s

/-- A feed whose module has been read. -/
def Feed.read (f : Feed) (m : Module) : Feed :=
  { f with st := .check, reason := 0#4, module := some m, dead := 0#9, samples := [], dark := true, sws := [], modHrs := BitVec.ofNat 32 m.modHrs,
           swapBit := false, cancelBit := false }

/-- The pages that the fields of R560 and R561 lie on are selected in turn, for a module that answers. -/
def State.readPages (s : State) (k : FeedId) (m : Module) : State :=
  if m.responds then ((s.page k 0#8).page k 0xB0#8).page k 0xB1#8 else s

/-- The module has not reached ModuleReady, and the device waits for it (R560). -/
def Module.waits (m : Module) : Bool := m.responds && !m.fault && m.modState != Config.moduleReady

/-- The module is lit. -/
def State.lightUp (s : State) (k : FeedId) : State :=
  let s := (s.freshLanes k).emit (.moduleWrite k 26 [0#8])
  (s.setFeed k { s.feed k with st := .warming, dark := false, litAt := s.time, warmAt := s.xtal }).relevel

/-- R563: presence asserts, or the module in CHECK is read again: once it is ready, or after a SoftwareReset. -/
def State.presence (s : State) (k : FeedId) (m : Module) : State :=
  let f := s.feed k
  if f.st != .absent && f.st != .check then s
  else
    let s := (s.setFeed k (f.read m)).readPages k m
    if Module.waits m then s
    else
      let r := s.moduleReason m
      if r == 0#4 then s.lightUp k
      else if r == 3#4 && !f.rechecked then
        (s.emit (.moduleWrite k 26 [0x18#8])).setFeed k { f.read m with rechecked := true }
      else s.rejectModule k r

def execModulePresence (k : FeedId) (m : Module) (s : State) : Res := .next (s.presence k m)

/-- Presence deasserts: the feed is ABSENT, and the links that are UP leave with CAUSE 0x1. -/
def State.removal (s : State) (k : FeedId) : State :=
  let f := s.feed k
  if f.st == .absent then s
  else
    let s := s.setFeed k { f with st := .absent, reason := 0#4, module := none, dead := 0#9, samples := [], dark := true,
                                  forecast := 0xFFFFFFFF#32, rechecked := false, sws := [], swapBit := false, cancelBit := false,
                                  laserNs := [], modNs := 0, sinceNs := 0 }
    (feedGroup k).foldl (fun s l => s.leaveUp l 1#4) s

def execModuleRemoval (k : FeedId) (s : State) : Res := .next (s.removal k)

/-- R563: within 2 s every selected laser of a lit module meets its limits, or the module is rejected. -/
def State.warmed (s : State) (k : FeedId) (power : List Int) (within : Bool) : State :=
  let f := s.feed k
  match f.module with
  | none => s
  | some m =>
    if f.st != .warming then s
    else if within && (List.range 9).all (fun i => m.powerMin ≤ power.getD i 0) then
      s.setFeed k ({ f with st := .on, reason := 0#4, module := some { m with power := power }, rechecked := false }).refresh
    else if f.warmAt + 2000000000 ≤ s.xtal then s.rejectModule k 4#4
    else s

def execModuleWarmingTimeout (k : FeedId) (power : List Int) (withinLimits : Bool) (s : State) : Res :=
  .next (s.warmed k power withinLimits)

/-- R560: the flags, the temperature and the supply voltage are read every tick. A fault of a lit module darkens it for one SoftwareReset and
recheck, or rejects it. -/
def State.poll (s : State) (k : FeedId) (fault warn : Bool) (tempC : Int) (supply : BitVec 16) : State :=
  let f := s.feed k
  match f.module with
  | none => s
  | some m =>
    let s := { s with feeds := s.feeds.set k { f with module := some { m with tempC := tempC, fault := fault, warn := warn, supply := supply } } }
    if !fault || f.dark then s
    else if f.rechecked then s.rejectModule k 3#4
    else
      let s := (s.darken k).emit (.moduleWrite k 26 [0x18#8])
      let s := s.setFeed k { s.feed k with st := .check, rechecked := true, dark := true, forecast := 0xFFFFFFFF#32, sws := [], swapBit := false }
      (feedGroup k).foldl (fun s l => s.leaveUp l 1#4) s

def execModulePoll (k : FeedId) (fault warn : Bool) (tempC : Int) (supply : BitVec 16) (s : State) : Res :=
  .next (s.poll k fault warn tempC supply)

/-! ## Hours (R562, R565) -/

/-- The hourly sample: each lit laser's bias with its hour; the last 1,000 samples are kept. -/
def Feed.sample (f : Feed) (m : Module) (bias : List Nat) : Feed :=
  let add (j : Nat) : List (Nat × Nat) :=
    let l := f.samples.getD j []
    if f.lights m j then (l ++ [(m.laserHrs.getD j 0, bias.getD j 0)]).drop (l.length + 1 - 1000) else l
  ({ f with module := some { m with bias := bias }, samples := (List.range 18).map add, sinceNs := f.sinceNs - hourNs }).refresh

/-- Once per hour of on-time BIAS is read, the forecast recomputed and page B1h written. -/
def State.hourly (s : State) (k : FeedId) (bias : List Nat) : State :=
  let f := (s.feed k).account s.time
  match f.module with
  | none => s
  | some m =>
    if f.dark || (f.st != .on && f.st != .switching && f.st != .draining) || f.sinceNs < hourNs then s
    else ((s.page k 0xB0#8).setFeed k (f.sample m bias)).writeB1 k

def execLaserHourlyUpdate (k : FeedId) (bias : List Nat) (s : State) : Res := .next (s.hourly k bias)

/-! ## Ring locks and spare lasers (R558, R559, R568 to R571) -/

def setBit (b : BitVec 16) (i : Nat) (v : Bool) : BitVec 16 := if v then b ||| BitVec.ofNat 16 (2 ^ i) else b &&& ~~~BitVec.ofNat 16 (2 ^ i)

/-- A lane's transmit or receive ring of an optical link is marked failed or good. -/
def Link.markLane (k : Link) (i : Nat) (rx bad : Bool) : Link :=
  if rx then { k with lostRx := setBit k.lostRx i bad } else { k with lost := setBit k.lost i bad }

/-- Eight of the nine lanes are good. -/
def Link.enoughLanes (k : Link) : Bool := 8 ≤ popN 9 (~~~(k.lost ||| k.lostRx)).toNat

/-- A lane is lost: a link that uses it leaves UP, with CAUSE 0x7 when too few lanes are left, or trains afresh (R559, R571). -/
def State.loseLane (s : State) (l : LinkId) (i : Nat) (rx : Bool) (cause : BitVec 4) : State :=
  let k := (s.link l).markLane i rx true
  let s := s.setLink l k
  if !k.lanemap.getLsbD i then s
  else if k.st == .attest then s.moveLink l { k.cleared with st := .down }
  else s.leaveUp l (if k.enoughLanes then cause else 7#4)

/-- The switch of a wavelength that is under way. -/
def Feed.switchOf (f : Feed) (i : Fin 9) : Option LaserSwitch := f.sws.find? (fun w => w.lane == i)

/-- A switch begins or goes on: STATE is SWITCHING. -/
def Feed.setSwitch (f : Feed) (w : LaserSwitch) : Feed :=
  { f with st := .switching, sws := if f.sws.any (fun x => x.lane == w.lane) then f.sws.map (fun x => if x.lane == w.lane then w else x) else f.sws ++ [w] }

/-- A switch is over: STATE is ON again after the last. -/
def Feed.endSwitch (f : Feed) (i : Fin 9) : Feed :=
  let l := f.sws.filter (fun w => w.lane != i)
  { f with sws := l, st := if f.st == .switching && l.isEmpty then .on else f.st }

/-- A transmit ring has locked on the spare's line, or cannot: a switch ends with the last of them (R569). -/
def State.ringSettled (s : State) (l : LinkId) (i : Fin 9) (rx : Bool) : State :=
  let k := feedOf l
  let f := s.feed k
  match f.switchOf i with
  | some w =>
    if rx || !w.relock.contains l then s
    else
      let left := w.relock.filter (· != l)
      s.setFeed k (if left.isEmpty then f.endSwitch i else f.setSwitch { w with relock := left })
  | none => s

/-- A ring locks on the light that it has: a transmit ring on that of the feed's module, a receive ring on the partner's (R554, R558). -/
def State.ringLock (s : State) (l : LinkId) (i : Fin 9) (rx : Bool) : State :=
  if l.val < 32 && (rx || !(s.feed (feedOf l)).dark) then (s.setLink l ((s.link l).markLane i.val rx false)).ringSettled l i rx else s

def execRingLock (l : LinkId) (i : Fin 9) (rx : Bool) (s : State) : Res := .next (s.ringLock l i rx)

/-- The wavelength has its primary selected. -/
def Feed.primary (f : Feed) (i : Nat) : Bool := !(f.spares.getD i false)

/-- The feed lights its links, so that a wavelength of it can be switched. -/
def Feed.serves (f : Feed) : Bool := f.st == .on || f.st == .switching

/-- A ring has lost its line. A lane lost by the transmit rings of every link of the feed group starts a switch to the spare laser (R568). -/
def State.ringLost (s : State) (l : LinkId) (i : Fin 9) (rx : Bool) : State :=
  let s := (s.loseLane l i.val rx 1#4).ringSettled l i rx
  let k := feedOf l
  let f := s.feed k
  if !rx && f.serves && f.primary i.val && (f.switchOf i).isNone && (feedGroup k).all (fun l => (s.link l).lost.getLsbD i.val) then
    s.setFeed k (f.setSwitch ⟨i, false, none, []⟩)
  else s

def execRingLockLoss (l : LinkId) (i : Fin 9) (rx : Bool) (s : State) : Res := .next (if l.val < 32 then s.ringLost l i rx else s)

/-- SEL[i] is written, and the wait for the spare laser begins: every ring of the lane has to lock anew. -/
def State.selectSpare (s : State) (k : FeedId) (w : LaserSwitch) : State :=
  let s := (feedGroup k).foldl (fun s l => s.loseLane l w.lane.val false 8#4) s
  let f := (s.feed k).account s.time
  match f.module with
  | none => s
  | some m =>
    let sel := (List.range 9).map (fun j => m.sel.getD j false || j == w.lane.val)
    ((s.page k 0xB0#8).emit (.moduleWrite k (0xB000 + 142 + w.lane.val) [1#8])).setFeed k
      (({ f with module := some { m with sel := sel } }).setSwitch { w with selAt := some s.xtal }).refresh

/-- A wavelength has no usable laser (R571). -/
def State.wavelengthDead (s : State) (k : FeedId) (i : Fin 9) : State :=
  let f := (s.feed k).account s.time
  s.setFeed k (({ f with dead := f.dead ||| BitVec.ofNat 9 (2 ^ i.val) }).endSwitch i).refresh

/-- A link of a switch trains on lane 8. -/
def Link.moving (x : Link) (planned : Bool) : Bool :=
  x.cause == (if planned then 8#4 else 1#4) && x.enoughLanes && (x.st == .down || x.st == .train || x.st == .attest)

/-- A switch goes on (R569, R570): the next link of a planned one leaves UP once the link before it is UP again; once no link trains on lane 8
any more, SEL is written; when the spare meets POWER_MIN, the rings lock anew; when it does not within 1 s, the wavelength is DEAD. A link with
another lane failed stays DOWN meanwhile. -/
def State.switchNext (s : State) (k : FeedId) (w : LaserSwitch) (ok : Bool) : State :=
  match w.selAt with
  | none =>
    if (feedGroup k).any (fun l => (s.link l).moving w.planned) then s
    else match (feedGroup k).find? (fun l => w.planned && (s.link l).st == .up && (s.link l).lanemap.getLsbD w.lane.val) with
      | some l => (s.setLink l ((s.link l).markLane w.lane.val false true)).leaveUp l 8#4
      | none => s.selectSpare k w
  | some t =>
    if !w.relock.isEmpty then s
    else if ok then s.setFeed k ((s.feed k).setSwitch { w with relock := feedGroup k })
    else if t + 1000000000 ≤ s.xtal then s.wavelengthDead k w.lane
    else s

/-- The primary's bias and output of a wavelength, as just read. -/
def Feed.reading (f : Feed) (i : Nat) (bias : Nat) (power : Int) : Feed :=
  { f with module := f.module.map (fun m => { m with bias := m.bias.set i bias, power := m.power.set i power }) }

/-- R568: the primary's bias has reached BIAS_EOL, or its output has fallen below POWER_MIN. -/
def Feed.worn (f : Feed) (bias : Nat) (power : Int) : Bool := f.module.any (fun m => decide (m.biasEol ≤ bias) || decide (power < m.powerMin))

/-- PLANNED_LASER_SWITCH: a switch of the wavelength goes on; else one begins where the primary is worn out and no other wavelength is being
switched. -/
def State.plannedSwitch (s : State) (k : FeedId) (i : Fin 9) (bias : Nat) (power : Int) (ok : Bool) : State :=
  let f := s.feed k
  match f.switchOf i with
  | some w => if f.serves then s.switchNext k w ok else s
  | none =>
    if f.st != .on || !f.primary i.val then s
    else
      let f := f.reading i.val bias power
      if f.worn bias power then (s.setFeed k (f.setSwitch ⟨i, true, none, []⟩)).switchNext k ⟨i, true, none, []⟩ ok
      else { s with feeds := s.feeds.set k f }

def execPlannedLaserSwitch (k : FeedId) (i : Fin 9) (bias : Nat) (power : Int) (spareOk : Bool) (s : State) : Res :=
  .next (s.plannedSwitch k i bias power spareOk)

/-- R570, R571: a primary has failed, and its lane is lost on every link, which train onto lane 8 before the spare is selected; or a selected spare
has failed, and the wavelength is DEAD. -/
def State.unplannedSwitch (s : State) (k : FeedId) (i : Fin 9) (ok : Bool) : State :=
  let f := s.feed k
  let lose (s : State) : State := (feedGroup k).foldl (fun s l => s.loseLane l i.val false 1#4) s
  let go (w : LaserSwitch) : State :=
    let s := lose s
    (s.setFeed k ((s.feed k).setSwitch w)).switchNext k w ok
  if !f.serves then s
  else match f.switchOf i with
    | some w => if w.selAt.isSome then s.switchNext k w ok else go { w with planned := false }
    | none => if f.primary i.val then go ⟨i, false, none, []⟩ else (lose s).wavelengthDead k i

def execUnplannedLaserSwitch (k : FeedId) (i : Fin 9) (spareOk : Bool) (s : State) : Res :=
  .next (s.unplannedSwitch k i spareOk)

/-! ## Planned swap (R572 to R574) -/

/-- Another feed drains, switches or warms, or this one switches. -/
def State.swapBusy (s : State) (k : FeedId) : Bool :=
  (s.feed k).st == .switching ||
  (List.range 4).any (fun i =>
    let j : FeedId := Fin.ofNat 4 i
    j != k && ((s.feed j).st == .draining || (s.feed j).st == .switching || (s.feed j).st == .warming))

/-- Some destination has no UP link outside the feed group. -/
def State.swapStrands (s : State) (k : FeedId) : Bool :=
  ((s.settings.map ImageSettings.routes).getD []).any (fun r =>
    !r.links.any (fun l => (s.link l).st == .up && !(feedGroup k).contains l))

/-- The links of a draining feed take no new message: what is queued on them falls back, and a link with nothing
unacknowledged goes DOWN. -/
def State.drainFeed (s : State) (k : FeedId) : State :=
  let s := (feedGroup k).foldl (fun s l =>
    let q := (s.link l).queue
    q.foldl (fun s m => s.sendMsg m) (s.setLink l { s.link l with queue := [] })) s
  ((feedGroup k).foldl State.drainedDown s).settleFeed k

/-- A SWAP, with whether it is accepted: by a feed that is ON, when R572 does not refuse it. LS_CTRL.SWAP reads 1 while a swap drains (log 159). -/
def State.swapFeed (s : State) (k : FeedId) : State × Bool :=
  let f := s.feed k
  let refuse (r : BitVec 4) : State × Bool := (s.setFeed k { f with reason := r }, false)
  if s.swapBusy k then refuse 6#4
  else if s.swapStrands k then refuse 5#4
  else if f.st != .on then (s, false)
  else ((s.setFeed k { f with st := .draining, reason := 0#4, swapBit := true, cancelBit := false }).drainFeed k, true)

def execSwap (k : FeedId) (s : State) : Res := .next (s.swapFeed k).1

/-- CANCEL returns a draining feed to ON; LS_CTRL.CANCEL reads 1 until the next swap. -/
def State.cancelSwap (s : State) (k : FeedId) : State × Bool :=
  let f := s.feed k
  if f.st == .draining then (s.setFeed k { f with st := .on, swapBit := false, cancelBit := true }, true) else (s, false)

def execCancel (k : FeedId) (s : State) : Res := .next (s.cancelSwap k).1

end Sys2Proof.Machine
end

