-- ==== Sys2Proof/Machine/Queues.lean ====
section
/-! DEFINITION. Command queues and the simple commands (15:R613 to R626, R646, R647, R653 to R664; 19:R773): doorbells, CQ_CTRL, reading
and completing a command, SIGNAL, DMA, QUERY and FENCE. -/

namespace Sys2Proof.Machine

/-! ## Queue registers (R614, R615) -/

def State.queue (s : State) (q : QueueId) : Queue := s.queues[q]

def State.setQueue (s : State) (q : QueueId) (x : Queue) : State := { s with queues := s.queues.set q x }

/-- Journal keys of PASIDs that no resident context holds and no queue names are destroyed (19:R773). -/
def State.pruneKeys (s : State) : State :=
  { s with sec := { s.sec with jkeys := s.sec.jkeys.filter (fun k =>
      s.ctxs.any (fun x => x.pasid == k.1) || s.queues.any (fun q => q.pasid == k.1)) } }

/-- The fields of CQ_CTRL other than EN. -/
def Queue.setFields (x : Queue) (v : Word) : Queue :=
  let n : BitVec 5 := (v >>> 8).setWidth 5
  { x with pasid := (v >>> 24).setWidth 20, vec := (v >>> 16).setWidth 8,
           log2n := if 4 ≤ n.toNat && n.toNat ≤ 16 then n else x.log2n }

/-- R614, and 19:R779: with no IDE stream Secure, a write that sets EN is ignored. -/
def State.cqCtrl (s : State) (q : QueueId) (v : Word) : State :=
  let x := s.queue q
  let en := v.getLsbD 0
  if en && !s.hostOpen then s
  else
    let x' := if x.en || x.active then x else x.setFields v
    let x' := if en && !x.en then { x' with en := true, head := 0#17, tail := 0#17 } else { x' with en := en }
    (s.setQueue q x').pruneKeys

def execCqCtrlWrite (q : QueueId) (v : Word) (s : State) : Res := .next (s.cqCtrl q v)

/-- R615. -/
def State.doorbell (s : State) (q : QueueId) (v : BitVec 32) : State :=
  let x := s.queue q
  let t : BitVec 17 := v.setWidth 17
  if !x.en || 2 ^ 17 ≤ v.toNat || 2 ^ x.log2n.toNat < (t - x.head).toNat then s.setQueue q { x with dberr := true }
  else s.setQueue q { x with tail := t }

def execDoorbellWrite (q : QueueId) (v : BitVec 32) (s : State) : Res := .next (s.doorbell q v)

/-! ## Command entries (R619, R620, R622) -/

def CmdOpc (e : CmdEntry) : Nat := bitsN e.w0.toNat 56 8
def CmdSub (e : CmdEntry) : Nat := bitsN e.w0.toNat 40 8
def CmdCount (e : CmdEntry) : Nat := bitsN e.w0.toNat 0 32
def CmdIrq (e : CmdEntry) : Bool := bitN e.w0.toNat 48
/-- FLAGS bit 1: RESUME of RUN, WAIT of SIGNAL. -/
def CmdFlag1 (e : CmdEntry) : Bool := bitN e.w0.toNat 49

/-- For an assigned OPC, and a QUERY's SUB: whether COUNT is used, the bits of words 1 to 3 that are, and the FLAGS bits 7:1 that are. -/
def cmdForm (opc sub : Nat) : Option (Bool × Word × Word × Word × Nat) :=
  let all : Word := BitVec.allOnes 64
  match opc with
  | 0x01 => some (true, all, 0#64, 0#64, 0)
  | 0x02 => some (true, all, all, 0#64, 1)
  | 0x03 => some (true, all, 0x7F#64, 0#64, 0)
  | 0x04 => some (true, 0#64, 0xFF#64, all, 1)
  | 0x05 => some (false, all, all, 0#64, 0)
  | 0x06 => some (true, all, 0#64, 0#64, 0)
  | 0x07 => some (false, 0#64, 0xFFFF#64, 0#64, 0)
  | 0x08 => some (false, 0#64, 0#64, 0#64, 0)
  | 0x09 => some (false, if sub == 2 then all else 0#64, if sub == 1 || sub == 2 then all else 0#64, 0#64, 0)
  | 0x0A => some (false, 0#64, all, 0#64, 0)
  | _ => none

/-- The checks of R619 and R620: the refusal reason, or 0. DESIGN CHOICE: a COUNT, a SUB or a FLAGS bit that the command has none of is a reserved field,
reason 0x01; of an unassigned SUB of QUERY, no word is listed, so that a word that is not 0 gives 0x01 before 0x02. -/
def cmdReason (e : CmdEntry) : Nat :=
  match cmdForm (CmdOpc e) (CmdSub e) with
  | none => 2
  | some (cnt, m1, m2, m3, fl) =>
    let resume := CmdOpc e == 2 && CmdFlag1 e
    if bitsN e.w0.toNat 32 8 != 0 || bitsN e.w0.toNat 50 6 != 0 || (CmdFlag1 e && fl == 0) || (!cnt && CmdCount e != 0) ||
        (CmdSub e != 0 && CmdOpc e != 9) || e.w1 &&& ~~~m1 != 0#64 || e.w2 &&& ~~~m2 != 0#64 || e.w3 &&& ~~~m3 != 0#64 ||
        e.w4 != 0#64 || e.w5 != 0#64 || (resume && (e.w1 != 0#64 || e.w2 != 0#64)) then 1
    else if CmdOpc e == 9 && 3 < CmdSub e then 2
    else 0

/-- R622: the command has nothing to do. -/
def cmdEmpty (e : CmdEntry) : Bool :=
  match CmdOpc e with
  | 1 | 2 | 3 | 6 => CmdCount e == 0
  | 4 => CmdCount e == 0 && !CmdFlag1 e
  | 0x0A => e.w2 == 0#64
  | _ => false

/-- A status word (R624). -/
def statusWord (status reason resource result : Nat) : Word :=
  wordOf [(56, 8, status), (48, 8, reason), (40, 8, resource), (0, 32, result)]

/-! ## Commands in flight -/

def State.flight (s : State) (q : QueueId) : Option Flight := (s.queue q).cur

def State.setFlight (s : State) (q : QueueId) (f : Flight) : State := s.setQueue q { s.queue q with cur := some f }

def State.updFlight (s : State) (q : QueueId) (g : Flight → Flight) : State :=
  s.setQueue q { s.queue q with cur := (s.queue q).cur.map g }

/-- The command of a queue with an OPC, whose work is not done. -/
def State.working (s : State) (q : QueueId) (opc : Nat) : Option Flight :=
  (s.flight q).filter (fun f => CmdOpc f.entry == opc && f.done.isNone)

/-- A command's work is done, with its status word and RESULT2. -/
def State.finish (s : State) (q : QueueId) (st : Word) (r2 : Word) : State :=
  s.updFlight q (fun f => { f with done := some (st, r2) })

/-- A command that is refused: its journal entry takes its times in one update (R660). -/
def State.refuseWith (s : State) (q : QueueId) (st r2 : Word) : State :=
  let t := natW s.time
  let s := s.finish q st r2
  match s.flight q with
  | none => s
  | some f => { s with journal := s.journal.upd f.seq (fun e =>
      { e with phase := .completed, status := st, tDone := t, tStart := if e.phase == Phase.accepted then t else e.tStart }) }

def State.refuse (s : State) (q : QueueId) (reason : Nat) (resource : Nat := 0) : State :=
  s.refuseWith q (statusWord 1 reason resource 0) 0#64

/-- A command's work begins: its journal entry is started (R660), and the data plane runs (R45, 16:R707). -/
def State.begin_ (s : State) (q : QueueId) : State :=
  let t := s.time
  let s := s.updFlight q (fun f => { f with started := true, tStart := t })
  match s.flight q with
  | none => s
  | some f => { s with journal := s.journal.upd f.seq (fun e => { e with phase := .started, tStart := natW t }) }

/-- The clocks of the data plane open for a command or for inbound traffic (16:R707). -/
def State.awake (s : State) : State := if s.pstate == .idle then { s with pstate := .run } else s

/-! ## The addresses of a command (R621) -/

/-- A channel that no context owns, for the device's own transfers (11:R457). -/
def State.deviceChan (s : State) : ChanId := ((List.finRange 128).find? (fun c => (s.chan c).owner.isNone)).getD 0

/-- How a page of a command's own address is reached (11:R488, R489): untranslated without ATS; else under an entry of the TLB, or by a
Translation Request, whose grant fills an entry of that page; its bus address is a free value (log 160). -/
def State.cmdXlat (s : State) (p : Pasid) (a : Nat) (wr : Bool) : State × Bool × Nat :=
  if !s.ats then (s, false, a)
  else match s.tlbHit s.deviceChan p a wr with
    | some e => (s, true, e.bus + (a - e.va))
    | none =>
      let ch := s.deviceChan
      let (s, n) := (s.emit (.atsRequest ch p (a / 4096) wr)).draw
      let e : TlbEntry :=
        { pasid := p, va := a / 4096 * 4096, log2 := 12, bus := Config.grantPage n * 4096, r := !wr, w := wr, pinned := false }
      ({ s with tlbs := s.tlbs.set (clusterOf ch) (tlbFills s.tlbs[clusterOf ch] [e]) }, true, Config.grantPage n * 4096 + a % 4096)

/-- The bytes of a run that lie in the page of a need. -/
def Need.bytes (m : Need) (a n : Nat) : Nat := min (a + n) ((m.page + 1) * 4096) - m.va

/-- A command reads host memory. -/
def State.cmdRead (s : State) (p : Pasid) (a n : Nat) : State :=
  (needsOf a n false false).foldl (fun s m =>
    let (s, t, b) := s.cmdXlat p m.va false
    s.emit (.hostRead (some p) t b (m.bytes a n))) s

/-- A command writes host memory. -/
def State.cmdWrite (s : State) (p : Pasid) (a : Nat) (bs : List Byte) : State :=
  (needsOf a bs.length true false).foldl (fun s m =>
    let (s, t, b) := s.cmdXlat p m.va true
    s.emit (.hostWrite (some p) t b ((bs.drop (m.va - a)).take (m.bytes a bs.length)))) s

/-- An entry of the fault ring for a command's own address: the device channel that asks, and PASID 0 in a device transfer (11:R457, R501). -/
def State.cmdEntry (s : State) (p : Pasid) (own : Bool) (kind detail : Nat) (addr : Word) (wr : Bool) : State :=
  (s.ringPost ⟨none, ringWords kind detail s.deviceChan.val (if own then 0#20 else p) wr addr.toNat 0 0 0 0 0 s.time⟩).1

/-- A translation fault of a command's own address (11:R494 to R496): with PRI, a Page Request that the host does not grant. -/
def State.cmdFault (s : State) (p : Pasid) (own : Bool) (addr : Word) (wr : Bool) : State :=
  if !s.pri || s.priStopped then s.cmdEntry p own 2 0 addr wr
  else
    let s := (s.cmdEntry p own 1 0 addr wr).emit (.pageRequest s.deviceChan p (addr.toNat / 4096) wr)
    let (s, n) := s.draw
    if Config.free n % 2 == 0 then s.cmdEntry p own 2 1 addr wr else (s.cmdEntry p own 2 15 addr wr).priStops

/-- An address of a command could not be reached (R621): an error of the host where no translation stands between them (11:R489, R497), else a
translation fault. DESIGN CHOICE: which PCIe error, and which answer of the host to the Page Request, are free values. -/
def State.unreachedAt (s : State) (q : QueueId) (addr : Word) (wr own : Bool) : State :=
  let p := (s.queue q).pasid
  let ch := s.deviceChan
  if !s.ats || (s.tlbHit ch p addr.toNat wr).isSome then
    let (s, n) := s.draw
    s.cmdEntry p own 3 (Config.free n % 256) addr wr
  else (s.emit (.atsRequest ch p (addr.toNat / 4096) wr)).cmdFault p own addr wr

/-- The data of a LOAD, SAVE or RESTORE move by device transfers (11:R457). -/
def State.ownTransfer (s : State) (q : QueueId) : Bool :=
  (s.flight q).any (fun f => CmdOpc f.entry == 1 || CmdOpc f.entry == 5 || CmdOpc f.entry == 6)

/-- It ends the command with status TRANSLATION. -/
def State.unreached (s : State) (q : QueueId) (addr : Word) (wr : Bool := false) : State :=
  (s.unreachedAt q addr wr (s.ownTransfer q)).finish q (statusWord 7 0 0 0) 0#64

/-! ## Reading (R616, R655 to R660, R664) -/

/-- The journal slot that the next entry takes holds an entry in flight. -/
def State.slotBusy (s : State) : Bool := match s.journal.slot (s.journal.tail.toNat % 65536) with
  | some e => e.phase == .accepted || e.phase == .started
  | none => false

/-- The journal key of a PASID, drawn when it holds none. -/
def State.journalKey (s : State) (p : Pasid) : State × Nat :=
  match s.sec.jkeys.find? (fun k => k.1 == p) with
  | some k => (s, k.2)
  | none =>
    let (s, n) := s.drawKey
    ({ s with sec := { s.sec with jkeys := s.sec.jkeys ++ [(p, n)] } }, n)

def entryWords (e : CmdEntry) : List Word := [e.w0, e.w1, e.w2, e.w3, e.w4, e.w5, e.w6, e.w7]

/-- A loadable that declares nothing. -/
def Loadable.nothing : Loadable := ⟨0, 0, 0#32, 0, 0, 0, [], []⟩

/-- A context that LOAD or RESTORE has moved out of NONE and not admitted yet (R630). -/
def Context.claimed (p : Pasid) (st : CtxState) : Context :=
  { pasid := p, st := st, loading := true, mask := 0#32, direct := false, modes := 0#8, entry := 0#20, spintUs := 0#32,
    lo := Loadable.nothing, hbm := [], host := [], chans := [], outs := [], ins := [], classes := [], regions := [], replay := [],
    hbmKey := 0, counters := Vector.replicate 256 0#64, sigErrs := 0#32, quiet := false, run := none, pausedRun := none }

/-- The commands that a FENCE waits for: those in flight on the queues of its mask but its own (R654). -/
def State.fenceSet (s : State) (q : QueueId) (mask : Word) : List Word :=
  (List.range 64).filterMap (fun i =>
    let r : QueueId := Fin.ofNat 64 i
    if mask.getLsbD i && r != q then (s.flight r).map Flight.seq else none)

/-- What reading decides at once: refusals of R619, R620, of Safe hold (17:R726) and of LOAD and RESTORE by R629, and empty
commands; a LOAD or RESTORE claims its context. -/
def State.firstChecks (s : State) (q : QueueId) (e : CmdEntry) : State :=
  let p := (s.queue q).pasid
  let r := cmdReason e
  if r != 0 then s.refuse q r
  else if s.safeHold && CmdOpc e != 9 then s.refuse q 3
  else if cmdEmpty e then (if CmdOpc e == 3 && e.w1.toNat % 64 != 0 then s.refuse q 0x0B else s.finish q 0#64 0#64)
  else if CmdOpc e == 1 || CmdOpc e == 6 then
    if (s.ctx p).isSome then s.refuse q 3
    else { s with ctxs := s.ctxs ++ [Context.claimed p (if CmdOpc e == 1 then .loaded else .paused)] }
  else s

def State.commandRead (s : State) (q : QueueId) (e : CmdEntry) : State :=
  let x := s.queue q
  if !x.en || x.active || x.tail == x.head || s.slotBusy || !s.hostOpen then s
  else
    let seq := s.journal.tail
    let (s, key) := s.journalKey x.pasid
    let j : JEntry :=
      { seq := seq, tAccept := natW s.time, tStart := 0#64, tDone := 0#64, digest := Config.cmac key (entryWords e),
        status := 0#64, pasid := x.pasid, queue := BitVec.ofNat 6 q.val, dev := false,
        kind := if (cmdForm (CmdOpc e) 0).isSome then BitVec.ofNat 5 (CmdOpc e) else 0#5, phase := .accepted, clink := 0 }
    let f : Flight :=
      { seq := seq, entry := e, started := false, tStart := 0, done := none, chan := none, wants := [], rest := [],
        last := 0#32, bad := 0, fence := if CmdOpc e == 0x0A then s.fenceSet q e.w2 else [], since := 0, keyed := false }
    let s := { s with journal := s.journal.add j }
    let s := s.emit (.hostRead none false (x.addr.toNat * 4096 + 64 * (x.head.toNat % 2 ^ x.log2n.toNat)) 64)
    (s.setQueue q { x with head := x.head + 1#17, cur := some f }).firstChecks q e

def execCommandRead (q : QueueId) (e : CmdEntry) (s : State) : Res := .next (s.commandRead q e)

/-! ## SIGNAL (R647) -/

/-- The context of a queue's command, when it is resident and admitted. -/
def State.cmdCtx (s : State) (q : QueueId) : Option Context :=
  (s.ctx (s.queue q).pasid).filter (fun x => !x.loading)

/-- A SIGNAL ends once its counter is at least the target, or at once without WAIT. -/
def State.signalEnd (s : State) (q : QueueId) (f : Flight) (idx : BitVec 8) : State :=
  match s.cmdCtx q with
  | none => s
  | some x =>
    let v := x.counters[idx.toNat]
    if CmdFlag1 f.entry && v.toNat < f.entry.w3.toNat then s
    else s.finish q (statusWord 0 0 0 (v.toNat % 2 ^ 32)) 0#64

def State.signalCmd (s : State) (q : QueueId) : State :=
  match s.working q 4 with
  | none => s
  | some f =>
    let idx : BitVec 8 := f.entry.w2.setWidth 8
    if f.started then s.signalEnd q f idx
    else match s.cmdCtx q with
      | none => s.refuse q 3
      | some x =>
        if 2 ^ 30 ≤ CmdCount f.entry then s.refuse q 0x0B
        else if !s.dataPlane then s
        else
          let s := (s.awake.begin_ q).updCtx x.pasid (fun x =>
            { x with counters := x.counters.set idx.toNat (x.counters[idx.toNat] + natW (CmdCount f.entry)) })
          s.signalEnd q f idx

def execSignal (q : QueueId) (s : State) : Res := .next (s.signalCmd q)

/-! ## DMA (R646) -/

/-- A run of bytes as descriptors of 64 bytes each. -/
def descList : Nat → List Byte → List (Vector Word 8)
  | 0, _ => []
  | n + 1, bs => descWords bs :: descList n (bs.drop 64)

/-- Descriptors of a DMA command join its channel while there is room (11:R458), up to `n` of them. -/
def State.feedChan (s : State) (q : QueueId) (ch : ChanId) (p : Pasid) : Nat → State
  | 0 => s
  | n + 1 => match s.flight q with
    | none => s
    | some f => match f.rest with
      | [] => s
      | w :: ws =>
        if 16 ≤ (s.chan ch).queue.length then s
        else
          let t := (s.chan ch).ticket + 1#32
          ((s.enqueue ch w none (some q) p none).setFlight q
            { f with rest := ws, wants := f.wants ++ [t], last := t }).feedChan q ch p n

/-- A DMA command ends when every descriptor has completed. -/
def State.dmaEnd (s : State) (q : QueueId) : State :=
  match s.working q 3 with
  | none => s
  | some f =>
    if f.started && f.rest.isEmpty && f.wants.isEmpty then
      s.finish q (statusWord (if f.bad == 0 then 0 else 6) 0 0 f.bad) (f.last.setWidth 64)
    else s

def State.dmaCmd (s : State) (q : QueueId) (descs : Option (List Byte)) : State :=
  match s.working q 3 with
  | none => s
  | some f =>
    let ch : ChanId := Fin.ofNat 128 f.entry.w2.toNat
    let n := CmdCount f.entry
    if f.started then ((s.feedChan q ch (s.queue q).pasid 16).dmaEnd q)
    else match s.cmdCtx q with
      | none => s.refuse q 3
      | some x =>
        if 65536 < n || f.entry.w1.toNat % 64 != 0 then s.refuse q 0x0B
        else if (s.chan ch).owner != some x.pasid then s.refuse q 0x0A
        else if !s.dataPlane || !s.hostOpen then s
        else match descs with
          | none => ((s.awake).begin_ q).unreached q f.entry.w1
          | some bs =>
            if bs.length != 64 * n then s
            else
              let s := ((s.awake).begin_ q).cmdRead x.pasid f.entry.w1.toNat (64 * n)
              let s := s.updFlight q (fun f => { f with chan := some ch, rest := descList n bs })
              s.feedChan q ch x.pasid 16

def execDma (q : QueueId) (descs : Option (List Byte)) (s : State) : Res := .next (s.dmaCmd q descs)

/-! ## QUERY (R653) -/

/-- A QUERY of a subfunction, not started yet. -/
def State.querying (s : State) (q : QueueId) (sub : Nat) : Option Flight :=
  (s.working q 9).filter (fun f => CmdSub f.entry == sub)

def CtxState.code : CtxState → Nat
  | .loaded => 1
  | .running => 2
  | .paused => 3

def State.queryState (s : State) (q : QueueId) : State :=
  match s.querying q 0 with
  | none => s
  | some _ =>
    let r := match s.ctx (s.queue q).pasid with
      | some x => wordOf [(0, 2, x.st.code), (32, 32, x.mask.toNat)]
      | none => 0#64
    (s.begin_ q).finish q 0#64 r

def execQueryState (q : QueueId) (s : State) : Res := .next (s.queryState q)

/-- The counters of a context; those of a context in NONE are not given by any rule. -/
def State.counterBytes (s : State) (q : QueueId) : State × List Byte :=
  match s.ctx (s.queue q).pasid with
  | some x => (s, wordsBytes x.counters.toList)
  | none =>
    let (s, n) := s.draw
    (s, (List.range 2048).map (Config.freeByte n))

def State.queryCounters (s : State) (q : QueueId) (reach : Bool) : State :=
  match s.querying q 1 with
  | none => s
  | some f =>
    if !s.hostOpen then s
    else if !reach then (s.begin_ q).unreached q f.entry.w2 true
    else
      let (s, bs) := s.counterBytes q
      ((s.begin_ q).cmdWrite (s.queue q).pasid f.entry.w2.toNat bs).finish q 0#64 0#64

def execQueryCounters (q : QueueId) (reach : Bool) (s : State) : Res := .next (s.queryCounters q reach)

def State.queryDigest (s : State) (q : QueueId) (e : Option CmdEntry) (reach : Bool) : State :=
  match s.querying q 2 with
  | none => s
  | some f =>
    if !s.hostOpen then s
    else match e with
      | none => (s.begin_ q).unreached q f.entry.w1
      | some e =>
        let p := (s.queue q).pasid
        let s := (s.begin_ q).cmdRead p f.entry.w1.toNat 64
        if !reach then s.unreached q f.entry.w2 true
        else
          let (s, key) := s.journalKey p
          let d := Config.cmac key (entryWords e)
          (s.cmdWrite p f.entry.w2.toNat (leBytes 16 d.toNat)).finish q 0#64 0#64

def execQueryDigest (q : QueueId) (entry : Option CmdEntry) (reach : Bool) (s : State) : Res := .next (s.queryDigest q entry reach)

/-- Cores, inbound windows and channels that no resident context holds: a bit for each core, and the numbers of the others (DEDUCED: 32 bits for 32
cores, and 8 for a number up to 128). -/
def State.freeWord (s : State) : Word :=
  let cores := bitList ((List.range 32).map (fun i => !s.ctxs.any (fun x => x.mask.getLsbD i)))
  let wins := (List.range 64).filter (fun w => (s.inWin (BitVec.ofNat 6 w)).isNone)
  let chans := s.chans.toList.filter (fun c => c.owner.isNone)
  wordOf [(0, 32, cores), (32, 8, wins.length), (40, 8, chans.length)]

def State.queryFree (s : State) (q : QueueId) : State :=
  match s.querying q 3 with
  | none => s
  | some _ => (s.begin_ q).finish q 0#64 s.freeWord

def execQueryFree (q : QueueId) (s : State) : Res := .next (s.queryFree q)

/-! ## FENCE (R654) -/

/-- A command with a sequence number is still in flight. -/
def State.inFlight (s : State) (seq : Word) : Bool :=
  s.queues.any (fun x => match x.cur with
    | some f => f.seq == seq
    | none => false)

def State.fenceCmd (s : State) (q : QueueId) : State :=
  match s.working q 0x0A with
  | none => s
  | some f =>
    let s := if f.started then s else s.begin_ q
    if f.fence.any s.inFlight then s else s.finish q 0#64 0#64

def execFence (q : QueueId) (s : State) : Res := .next (s.fenceCmd q)

end Sys2Proof.Machine
end

