-- ==== Sys2Proof/Machine/Loadable.lean ====
section
/-! DEFINITION. Loadables (15:R631 to R637): the header and the resource table, the checks of admission, and LOAD. -/

namespace Sys2Proof.Machine

/-! ## The image (R631, R632) -/

/-- The little-endian number in `n` bytes of an image. -/
def imgN (bs : List Byte) (off n : Nat) : Nat := leNat ((bs.drop off).take n)

/-- The entry at an offset. -/
def resAt (bs : List Byte) (o : Nat) : Res_ :=
  { type := BitVec.ofNat 8 (imgN bs o 1), core := BitVec.ofNat 8 (imgN bs (o + 1) 1), flags := BitVec.ofNat 16 (imgN bs (o + 2) 2),
    a := BitVec.ofNat 32 (imgN bs (o + 4) 4), b := natW (imgN bs (o + 8) 8), c := natW (imgN bs (o + 16) 8),
    d := natW (imgN bs (o + 24) 8) }

/-- The words of an inbound window's entry table. -/
def entryTable (bs : List Byte) (r : Res_) : List Nat := (List.range r.d.toNat).map (fun i => imgN bs (r.c.toNat + 8 * i) 8)

/-- The header check of R631 and R635; none is refused with reason 0x04. -/
def parseLoadable (bs : List Byte) (count : Nat) : Option Loadable :=
  let nres := imgN bs 16 4
  let off := imgN bs 20 4
  let entry := imgN bs 32 4
  if count < 64 || imgN bs 0 4 != 0x4C4B5657 || imgN bs 4 2 != 1 || nres == 0 || 4096 < nres || off % 32 != 0 ||
      imgN bs 24 8 != count || entry % 4 != 0 || 0xF0000 ≤ entry || imgN bs 36 28 != 0 || off < 64 || count < off + 32 * nres then none
  else
    let table := (List.range nres).map (fun i => resAt bs (off + 32 * i))
    if table.any (fun r => r.type == 0#8 || 9 < r.type.toNat) then none
    else some
      { coupling := imgN bs 6 1, modes := imgN bs 7 1, mask := BitVec.ofNat 32 (imgN bs 8 4), spintUs := imgN bs 12 4,
        bytes := count, entry := entry, table := table,
        tables := (table.filter (fun r => r.type == 8#8)).map (entryTable bs) }

def Loadable.of (l : Loadable) (type : Nat) : List Res_ := l.table.filter (fun r => r.type.toNat == type)

/-- An entry whose CORE is not 0xFF where it must be, or with a non-zero field that its type does not use (R632). -/
def Res_.badShape (r : Res_) : Bool :=
  let ff := 4 ≤ r.type.toNat && r.core != 0xFF#8
  match r.type.toNat with
  | 1 | 2 => r.flags != 0#16 || r.d != 0#64
  | 3 => 8 ≤ r.flags.toNat
  | 4 | 5 => ff || 4 ≤ r.flags.toNat || r.a != 0#32 || r.d != 0#64
  | 6 => ff || r.flags != 0#16 || r.b != 0#64 || r.c != 0#64 || r.d != 0#64
  | 7 | 9 => ff || r.flags != 0#16 || r.d != 0#64
  | _ => ff || 512 ≤ r.flags.toNat

/-! ## Checks (R635) -/

/-- Two ranges share an element. -/
def meets (a n b m : Nat) : Bool := a < b + m && b < a + n

/-- Some two members of a list, at different places, are related. -/
def anyTwo {α : Type} (f : α → α → Bool) : List α → Bool
  | [] => false
  | x :: xs => xs.any (f x) || anyTwo f xs

def Loadable.owns (l : Loadable) (core : BitVec 8) : Bool := core.toNat < 32 && l.mask.getLsbD core.toNat

/-- The sections of IMEM or DMEM. -/
def Loadable.badSections (l : Loadable) (type top : Nat) : Bool :=
  let rs := l.of type
  rs.any (fun r => r.badShape || top < r.a.toNat + r.c.toNat || !l.owns r.core || l.bytes < r.b.toNat + r.c.toNat) ||
  anyTwo (fun x y => x.core == y.core && meets x.a.toNat x.c.toNat y.a.toNat y.c.toNat) rs

def Loadable.badRegions (l : Loadable) : Bool :=
  let rs := l.of 3
  rs.any (fun r => r.badShape || !l.owns r.core || r.b == 0#64 || 22528 < r.a.toNat + r.b.toNat || r.flags.toNat % 4 == 0 ||
    r.b.toNat * 4096 < r.d.toNat || (r.d != 0#64 && l.bytes < r.c.toNat + r.d.toNat) ||
    16 < (rs.filter (fun x => x.core == r.core)).length)

def Loadable.badChans (l : Loadable) : Bool :=
  let rs := l.of 6
  rs.any (fun r => r.badShape || 127 < r.a.toNat) || anyTwo (fun x y => x.a == y.a) rs

/-- The device-reserved areas (R633). -/
def reservedHbm (a n : Nat) : Bool := meets a n 0x5E00000000 0x200000000 || meets a n 0xBE00000000 0x200000000

def Loadable.badHbm (l : Loadable) : Bool :=
  let rs := l.of 4
  rs.any (fun r => r.badShape || r.c == 0#64 || r.b.toNat % 0x200000 != 0 || r.c.toNat % 0x200000 != 0 ||
    hbmBytes < r.b.toNat + r.c.toNat || reservedHbm r.b.toNat r.c.toNat) ||
  anyTwo (fun x y => meets x.b.toNat x.c.toNat y.b.toNat y.c.toNat) rs

def Loadable.badClasses (l : Loadable) : Bool :=
  let rs := l.of 9
  rs.any (fun r => r.badShape || 6 < r.a.toNat || 65535 < r.b.toNat || 2 < r.c.toNat) || anyTwo (fun x y => x.a == y.a) rs

def Loadable.badOuts (l : Loadable) : Bool :=
  let rs := l.of 7
  rs.any (fun r => r.badShape || 63 < r.a.toNat || 0x7FFF < r.b.toNat || 63 < r.c.toNat) ||
  anyTwo (fun x y => x.a == y.a || (x.b == y.b && x.c == y.c)) rs

def Res_.gran (r : Res_) : BitVec 2 := r.flags.setWidth 2
def Res_.cls (r : Res_) : BitVec 3 := (r.flags >>> 2).setWidth 3
def Res_.perm (r : Res_) : BitVec 4 := (r.flags >>> 5).setWidth 4

/-- A valid BASE: a multiple of the granule, in one scratchpad of a core of the mask or in an HBM region (12:R537). -/
def Loadable.baseOk (l : Loadable) (g a : Nat) : Bool :=
  a % g == 0 &&
  match devPlace a with
  | .mem .scratchpad c off => l.mask.getLsbD c.val && off + g ≤ spadBytes
  | .hbm => (l.of 4).any (fun r => r.b.toNat ≤ a && a + g ≤ r.b.toNat + r.c.toNat)
  | _ => false

/-- The inbound windows with their entry tables. -/
def Loadable.insOf (l : Loadable) : List (Res_ × List Nat) := (l.of 8).zip l.tables

def Loadable.badIns (l : Loadable) : Bool :=
  l.insOf.any (fun (r, ws) =>
    r.badShape || 63 < r.a.toNat || r.gran == 3#2 || r.d == 0#64 || 4096 < r.d.toNat || r.cls == 7#3 ||
    65535 < r.b.toNat || (0x8100 ≤ r.b.toNat && r.b.toNat < 0xFFFF) || l.bytes < r.c.toNat + 8 * r.d.toNat ||
    ws.any (fun w => bitsN w 48 15 != 0 || (bitN w 63 && !l.baseOk (granule r.gran) (w % 2 ^ 48))))

/-- The other contexts: all but the one that is being admitted. -/
def State.others (s : State) (p : Pasid) : List Context := s.ctxs.filter (fun x => x.pasid != p)

/-- Entries of the TLB for a host region: one translation after another from its start, each with the permissions that the
region declares (11:R483, R485, R486). -/
def pinRegion (p : Pasid) (r w : Bool) (fin : Nat) : Nat → List AtsReply → Option (List TlbEntry)
  | a, [] => if fin ≤ a then some [] else none
  | a, .none :: _ => if fin ≤ a then some [] else none
  | a, .grant bus l rd wr :: rest =>
    if fin ≤ a then some []
    else if (r && !rd) || (w && !wr) then none
    else
      let es := (tlbEntriesOf p (a / 4096) bus l rd wr true).filter (fun e => a < e.va + 2 ^ e.log2 && e.va < fin)
      (pinRegion p r w fin ((es.getLast?.map (fun e => e.va + 2 ^ e.log2)).getD fin) rest).map (es ++ ·)

/-- The pages that the device asks the translations of for a region, one for each reply that it takes. -/
def askRegion (p : Pasid) (fin : Nat) : Nat → List AtsReply → List Nat
  | a, [] => if fin ≤ a then [] else [a / 4096]
  | a, .none :: _ => if fin ≤ a then [] else [a / 4096]
  | a, .grant bus l rd wr :: rest =>
    if fin ≤ a then []
    else
      let es := (tlbEntriesOf p (a / 4096) bus l rd wr true).filter (fun e => a < e.va + 2 ^ e.log2 && e.va < fin)
      a / 4096 :: askRegion p fin ((es.getLast?.map (fun e => e.va + 2 ^ e.log2)).getD fin) rest

/-- The Translation Requests for the host regions of a loadable go out (11:R485); without ATS none does (11:R489). -/
def State.askPins (s : State) (l : Loadable) (p : Pasid) (pages : List (List AtsReply)) : State :=
  if !s.ats then s
  else ((l.of 5).zip (pages ++ List.replicate (l.of 5).length [])).foldl (fun s x =>
    (askRegion p (x.1.b.toNat + x.1.c.toNat) x.1.b.toNat x.2).foldl (fun s g =>
      s.emit (.atsRequest s.deviceChan p g (x.1.flags.getLsbD 1))) s) s

/-- The pinned set of a loadable; none when some page has no translation. -/
def Loadable.pins (l : Loadable) (p : Pasid) (pages : List (List AtsReply)) : Option (List TlbEntry) :=
  ((l.of 5).zip (pages ++ List.replicate (l.of 5).length [])).foldr (fun x acc =>
    match acc, pinRegion p (x.1.flags.getLsbD 0) (x.1.flags.getLsbD 1) (x.1.b.toNat + x.1.c.toNat) x.1.b.toNat x.2 with
    | some es, some fs => some (fs ++ es)
    | _, _ => none) (some [])

def Loadable.chans (l : Loadable) : List ChanId := (l.of 6).map (fun r => Fin.ofNat 128 r.a.toNat)

/-- The clusters that hold a channel of the loadable. -/
def Loadable.clusters (l : Loadable) : List (Fin 16) :=
  ((List.range 16).map (Fin.ofNat 16)).filter (fun k => l.chans.any (fun c => clusterOf c == k))

/-- The pinned set fits every such cluster (11:R484). -/
def State.pinsFit (s : State) (l : Loadable) (n : Nat) : Bool :=
  l.clusters.all (fun k => (s.tlbs[k].filter TlbEntry.pinned).length + n ≤ 3584)

/-- A refusal: reason and resource; a resource that is valid and fits gives none. -/
def verdict (code : Nat) (invalid misfit : Bool) : Option (Nat × Nat) :=
  if invalid then some (6, code) else if misfit then some (5, code) else none

/-- The security policy permits the coupling and the modes (19:R769). -/
def State.permits (s : State) (l : Loadable) : Bool := match s.secPolicy with
  | some g => bitN g.couplingAllow.toNat l.coupling && BitVec.ofNat 8 l.modes &&& ~~~g.modesAllow == 0#8
  | none => false

/-- The limit on SPINT_US. -/
def State.spintLimit (s : State) : Nat := (s.settings.map ImageSettings.spintLimit).getD 100

/-- The pinned translations of a loadable, or none when R486 refuses them. Without ATS nothing is pinned. -/
def State.pinSet (s : State) (l : Loadable) (p : Pasid) (pages : List (List AtsReply)) : Option (List TlbEntry) :=
  if !s.ats then some []
  else (l.pins p pages).filter (fun es => s.pinsFit l es.length)

def Loadable.badHost (l : Loadable) : Bool :=
  (l.of 5).any (fun r => r.badShape || r.c == 0#64 || r.b.toNat % 4096 != 0 || r.c.toNat % 4096 != 0)

/-- The checks of the resources in their order: the first that fails. -/
def State.admission (s : State) (p : Pasid) (l : Loadable) (pages : List (List AtsReply)) : Option (Nat × Nat) :=
  let o := s.others p
  [verdict 1 (l.mask == 0#32) (o.any (fun x => x.mask &&& l.mask != 0#32)),
   verdict 2 (l.badSections 1 0xF0000) false,
   verdict 3 (l.badSections 2 0x3EC00) false,
   verdict 4 l.badRegions false,
   verdict 5 l.badChans (l.chans.any (fun c => o.any (fun x => x.chans.contains c))),
   verdict 6 l.badHbm ((l.of 4).any (fun r => o.any (fun x => x.hbm.any (fun g => meets r.b.toNat r.c.toNat g.base g.size)))),
   verdict 7 l.badClasses ((l.of 9).any (fun r => o.any (fun x => x.classes.any (fun h =>
     h.cls.toNat == r.a.toNat && h.val != ⟨r.b.setWidth 16, r.c.setWidth 2⟩)))),
   verdict 8 l.badOuts false,
   verdict 9 (l.badIns) ((l.of 8).any (fun r => o.any (fun x => x.ins.any (fun i => i.win.toNat == r.a.toNat)))),
   verdict 10 (1 < l.coupling || 8 ≤ l.modes) (!s.permits l),
   verdict 11 (l.spintUs == 0) (s.spintLimit < l.spintUs),
   verdict 12 l.badHost (s.pinSet l p pages).isNone].findSome? id

/-! ## What an admitted loadable holds (R636) -/

def coreOf (b : BitVec 8) : CoreId := Fin.ofNat 32 b.toNat

def inWinOf (r : Res_) (ws : List Nat) : InWin :=
  { win := r.a.setWidth 6, gran := r.gran, srcsel := r.b.setWidth 16, cls := r.cls, perm := r.perm,
    entries := ws.map (fun w => if bitN w 63 then some (w % 2 ^ 48) else none) }

/-- The context of a loadable, with a fresh key for its HBM regions (19:R772). -/
def Loadable.context (l : Loadable) (p : Pasid) (st : CtxState) (key : Nat) : Context :=
  { Context.claimed p st with
    loading := false, mask := l.mask, direct := l.coupling == 1, modes := BitVec.ofNat 8 l.modes, entry := BitVec.ofNat 20 l.entry,
    spintUs := BitVec.ofNat 32 l.spintUs, lo := l,
    hbm := (l.of 4).map (fun r => ⟨r.b.toNat, r.c.toNat, r.flags.getLsbD 0, r.flags.getLsbD 1⟩),
    host := (l.of 5).map (fun r => ⟨r.b.toNat, r.c.toNat, r.flags.getLsbD 0, r.flags.getLsbD 1⟩),
    chans := l.chans,
    outs := (l.of 7).map (fun r => ⟨r.a.setWidth 6, r.b.setWidth 16, r.c.setWidth 6⟩),
    ins := l.insOf.map (fun x => inWinOf x.1 x.2),
    classes := (l.of 9).map (fun r => ⟨r.a.setWidth 3, ⟨r.b.setWidth 16, r.c.setWidth 2⟩⟩),
    regions := (l.of 3).map (fun r => (coreOf r.core, ⟨r.a.toNat, r.b.toNat, r.flags.getLsbD 0, r.flags.getLsbD 1⟩)),
    replay := ((l.of 3).filter (fun r => r.flags.getLsbD 2)).map (fun r =>
      (coreOf r.core, ⟨r.a.toNat * 4096, r.b.toNat * 4096, r.flags.getLsbD 0, r.flags.getLsbD 1⟩)),
    hbmKey := key }

/-- Memory with a run of bytes at `a` in a range of `n`, zeros after them. -/
def Mem.fill (m : Mem) (a n : Nat) (bs : List Byte) : Mem :=
  m.filter (fun c => c.1 < a) ++ (Mem.cells a (bs.take n) ++ m.filter (fun c => a + n ≤ c.1))

/-- The region table of a core. -/
def Context.regionsOf (x : Context) (c : CoreId) : List Region := (x.regions.filter (fun y => y.1 == c)).map Prod.snd

/-- One section or region of the table written to its core. A section that covers part of a marked word leaves that word (10:R420). -/
def State.loadRes (s : State) (bs : List Byte) (r : Res_) : State :=
  let part (off n : Nat) : List Byte := (bs.drop off).take n
  s.updCore (coreOf r.core) (fun k => match r.type.toNat with
    | 1 => let (m, l) := putMarked k.imem k.badImem r.a.toNat (part r.b.toNat r.c.toNat); { k with imem := m, badImem := l }
    | 2 => let (m, l) := putMarked k.dmem k.badDmem r.a.toNat (part r.b.toNat r.c.toNat); { k with dmem := m, badDmem := l }
    | 3 => { k with spad := k.spad.fill (r.a.toNat * 4096) (r.b.toNat * 4096) (part r.c.toNat r.d.toNat),
                    badSpad := clearMarks k.badSpad (r.a.toNat * 4096) (r.b.toNat * 4096) }
    | _ => k)

/-- The resident area of a core's IMEM holds the device runtime's resident code (15:R639); of earlier transfers nothing is left to execute
(02:R125). -/
def Core.loadResident (k : Core) : Core :=
  { k with imem := k.imem.put 0xF0000 Config.residentCode.toList, badImem := clearMarks k.badImem 0xF0000 65536, torn := [] }

/-- A requester class register on both dies (10:R428). -/
def State.setClass (s : State) (n : BitVec 3) (v : ScClass) : State :=
  { s with caches := s.caches.map (fun c => { c with classes := c.classes.set n.toNat v }) }

/-- The resources of an admitted context are assigned: region tables, classes, channels with their counts at 0, pins; its energy
accumulator is cleared (16:R709). -/
def State.assign (s : State) (x : Context) (pins : List TlbEntry) (clusters : List (Fin 16)) : State :=
  let s := { s with ctxs := s.ctxs.map (fun (y : Context) => if y.pasid == x.pasid then x else y),
                    fab := { s.fab with quiet := s.fab.quiet.filter (fun w => !x.ins.any (fun i => i.win == w)) } }
  let s := (coresOf x.mask).foldl (fun s c => s.updCore c (fun k => { k with regions := x.regionsOf c })) s
  let s := x.classes.foldl (fun s h => s.setClass h.cls h.val) s
  let s := match lowestCore x.mask with
    | some n => { s with power := { s.power with slots := s.power.slots.set n 0 } }
    | none => s
  let s := x.chans.foldl (fun s c => s.updChan c (fun k =>
    { k with owner := some x.pasid, queue := k.queue.map (fun d => { d with old := true }), ticket := 0#32, done := 0#32, errs := 0#32, asked := [], prefetch := false })) s
  { s with tlbs := clusters.foldl (fun (v : Vector (List TlbEntry) 16) (k : Fin 16) => v.set k (pins.foldl tlbFill v[k])) s.tlbs }

/-- Another admission with a lower sequence number is in progress (R634). -/
def State.admitting (s : State) (seq : Word) : Bool :=
  s.queues.any (fun q => match q.cur with
    | some f => (CmdOpc f.entry == 1 || CmdOpc f.entry == 6) && f.done.isNone && f.seq.toNat < seq.toNat
    | none => false)

/-- A context leaves the list of resident contexts. -/
def State.dropCtx (s : State) (p : Pasid) : State := ({ s with ctxs := s.ctxs.filter (fun x => x.pasid != p) }).pruneKeys

/-- The resource table, and the entry tables of the inbound windows that lie in the image, are read (R627). -/
def State.readTables (s : State) (p : Pasid) (base off : Nat) (l : Loadable) : State :=
  (l.of 8).foldl (fun s r => if l.bytes < r.c.toNat + 8 * r.d.toNat then s else s.cmdRead p (base + r.c.toNat) (8 * r.d.toNat))
    (s.cmdRead p (base + off) (32 * l.table.length))

/-- The payload bytes of an entry are read. -/
def State.readSection (s : State) (p : Pasid) (base : Nat) (r : Res_) : State :=
  match r.type.toNat with
  | 1 | 2 => s.cmdRead p (base + r.b.toNat) r.c.toNat
  | 3 => s.cmdRead p (base + r.c.toNat) r.d.toNat
  | _ => s

/-- LOAD (R634 to R636). -/
def State.loadCmd (s : State) (q : QueueId) (img : ImageRead) : State :=
  match s.working q 1 with
  | none => s
  | some f =>
    let p := (s.queue q).pasid
    let n := CmdCount f.entry
    if s.admitting f.seq || !s.dataPlane || !s.hostOpen then s
    else match img.bytes with
      | none => (((s.awake).begin_ q).unreached q f.entry.w1).dropCtx p
      | some bs =>
        if bs.length != n then s
        else
          let s := s.cmdRead p f.entry.w1.toNat (min n 64)
          match parseLoadable bs n with
          | none => (s.refuse q 4).dropCtx p
          | some l =>
            let s := s.readTables p f.entry.w1.toNat (imgN bs 20 4) l
            match s.admission p l img.pages with
            | some (r, res) => ((if res == 12 then s.askPins l p img.pages else s).refuse q r res).dropCtx p
            | none =>
              let pins := (s.pinSet l p img.pages).getD []
              let s := ((s.askPins l p img.pages).awake).begin_ q
              let (s, key) := s.drawKey
              let s := s.assign (l.context p .loaded key) pins l.clusters
              let s := (coresOf l.mask).foldl (fun s c => s.updCore c Core.loadResident) s
              let s := l.table.foldl (fun s r => (s.readSection p f.entry.w1.toNat r).loadRes bs r) s
              s.finish q 0#64 (natW (pins.length * l.clusters.length))

def execLoad (q : QueueId) (img : ImageRead) (s : State) : Res := .next (s.loadCmd q img)

end Sys2Proof.Machine
end

