-- ==== Sys2Proof/Machine/Image.lean ====
section
/-! DEFINITION. The fuse blocks and the Niley image as bits: the copies' CRCs and their choice (17:R715 to R717), the image's header, sections,
security policy and signature block (17:R718 to R724, 19:R769, R770). -/

namespace Sys2Proof.Machine

/-! ## Fuses (17:R715 to R717) -/

/-- A copy is valid when its CRC-32 matches its data (R716). -/
def RivetCopy.valid (c : RivetCopy) : Bool := crcOfBits c.data == c.crc

def TemperCopy.valid (c : TemperCopy) : Bool := crcOfBits c.data == c.crc

/-- The Temper entries of a copy: level n in bits 16n + 15 to 16n, VNOM above TRIM as in TEMPER_d_n (16:R672, log 175). -/
def TemperCopy.entries (c : TemperCopy) : List TemperEntry :=
  (List.range 8).map (fun n => ⟨(c.data >>> (16 * n + 6)).setWidth 10, (c.data >>> (16 * n)).setWidth 6⟩)

/-- What R716 and R717 say of the copies of a fuse field. -/
inductive FuseChoice (α : Type) where
  | use (v : α) (degraded : Bool)
  | conflict
  | lost

/-- R716, over the valid copies. -/
def chooseRivet (copies : List RivetCopy) : FuseChoice RivetMap :=
  match copies.filter RivetCopy.valid with
  | [] => .lost
  | [a] => .use a.map true
  | [a, b] => if a.data == b.data then .use a.map true else .conflict
  | a :: b :: c :: _ =>
    if a.data == b.data && b.data == c.data then .use a.map false
    else if a.data == b.data || a.data == c.data then .use a.map true
    else if b.data == c.data then .use b.map true
    else .conflict

/-- R717. -/
def chooseTemper (copies : List TemperCopy) : FuseChoice (List TemperEntry) :=
  match copies.filter TemperCopy.valid with
  | [a] => .use (TemperCopy.entries a) true
  | [a, b] => if a.data == b.data then .use (TemperCopy.entries a) false else .conflict
  | _ => .lost

/-- The fields of die 0's fuse block alone. -/
def StartInputs.root (i : StartInputs) : RootFuses := ((i.fuses.head?).bind Fuses.root).getD ⟨0#384, 0#384, false⟩

/-- SHA-384 of the identity public key, X followed by Y (19:R786). -/
def RootFuses.deviceHash (r : RootFuses) : BitVec 384 := pubKeyHash (publicKey r.identity.toNat)

/-! ## The image (17:R719, R720) -/

/-- R719, with the limit of R723 on LENGTH. -/
def headerOk (bs : List Byte) : Bool :=
  64 ≤ bs.length && imgN bs 0 4 == 0x594C494E && imgN bs 4 2 == 1 && imgN bs 6 2 == 0 && imgN bs 8 4 == 0x4800 &&
    1 ≤ imgN bs 12 4 && imgN bs 12 4 ≤ 64 && imgN bs 24 4 % 8 == 0 && 64 ≤ imgN bs 24 4 && imgN bs 24 4 + 192 ≤ 0x2000000 &&
    ((bs.drop 28).take 36).all (· == 0#8)

/-- A section: its TYPE and its value. -/
structure ImageSection where
  type  : Nat
  value : List Byte
  deriving DecidableEq, Repr

/-- `n` sections that tile the bytes exactly, with reserved bytes and padding zero (R720, R723). -/
def imageSections : Nat → List Byte → Option (List ImageSection)
  | 0, bs => if bs.isEmpty then some [] else none
  | n + 1, bs =>
    let len := imgN bs 4 4
    let padded := (len + 7) / 8 * 8
    if bs.length < 8 + padded || imgN bs 2 2 != 0 || !((bs.drop (8 + len)).take (padded - len)).all (· == 0#8) then none
    else (imageSections n (bs.drop (8 + padded))).map (⟨imgN bs 0 2, (bs.drop 8).take len⟩ :: ·)

/-- The value of the section of a TYPE. -/
def sectionOf (l : List ImageSection) (t : Nat) : Option (List Byte) := (l.find? (fun x => x.type == t)).map ImageSection.value

/-- Every required section is present, no section repeats, and no TYPE below 0x8000 is unassigned (R720, R723). -/
def typesOk (l : List ImageSection) : Bool :=
  [1, 8, 0xC].all (fun t => l.any (fun x => x.type == t)) &&
    l.all (fun x => 0x8000 ≤ x.type || (1 ≤ x.type && x.type ≤ 0xC && l.countP (fun y => y.type == x.type) == 1))

/-! ## The security policy section (19:R769, R770) -/

/-- A 48-byte value. -/
def hashAt (bs : List Byte) (off : Nat) : BitVec 384 := BitVec.ofNat 384 (beNat (((bs.drop off).take 48).map BitVec.toNat))

/-- The fields of R769. -/
def secPolicyOf (v : List Byte) : SecPolicy :=
  let flags := imgN v 4 1
  { policyVer := BitVec.ofNat 16 (imgN v 0 2), couplingAllow := BitVec.ofNat 8 (imgN v 2 1), modesAllow := BitVec.ofNat 8 (imgN v 3 1),
    debugAllow := bitN flags 0, requireIde := bitN flags 1, evacDirect := bitN flags 2, peerDebugOk := bitN flags 3, nfw := imgN v 5 1,
    peerRootHash := hashAt v 8, debugKeyHash := hashAt v 56, fwAllow := (List.range 8).map (fun i => hashAt v (104 + 48 * i)),
    chain := v.drop 496, digest := sha384 (v.take 496) }

/-- The length of the DER element at the front: a SEQUENCE with a short length or a length of one to three bytes. -/
def derLen (bs : List Byte) : Option Nat :=
  match bs with
  | t :: l :: rest =>
    let n := l.toNat - 0x80
    if t != 0x30#8 then none
    else if l.toNat < 0x80 then some (2 + l.toNat)
    else if n == 0 || 3 < n then none
    else some (2 + n + beNat ((rest.take n).map BitVec.toNat))
  | _ => none

/-- The bytes are two DER certificates and nothing more (R770). -/
def twoCerts (bs : List Byte) : Bool :=
  match derLen bs with
  | some n => n ≤ bs.length && derLen (bs.drop n) == some (bs.length - n)
  | none => false

/-- The versions, reserved bits and ranges of R769, and that CHAIN parses (R770). -/
def secPolicyOk (v : List Byte) : Bool :=
  let nfw := imgN v 5 1
  496 ≤ v.length && imgN v 0 2 == 1 && imgN v 2 1 < 4 && imgN v 3 1 < 8 && imgN v 4 1 < 16 && nfw ≤ 8 && imgN v 6 2 == 0 &&
    ((v.drop (104 + 48 * nfw)).take (384 - 48 * nfw)).all (· == 0#8) && imgN v 488 4 == v.length - 496 && imgN v 492 4 == 0 &&
    twoCerts (v.drop 496)

/-! ## Settings (17:R720, R721) -/

/-- A device identifier that may be assigned (00:R4). -/
def assignedId (d : BitVec 16) : Bool := d.toNat < 0x8000

/-- The settings of an image: what its sections hold, and the table's values for the sections that are absent (R720, 16:R705). -/
def settingsOf (l : List ImageSection) (g : ImageSettings) : ImageSettings :=
  let has (t : Nat) : Bool := (sectionOf l t).isSome
  { g with
    quadSlot := if has 2 then g.quadSlot else none
    linkMap := if has 3 then g.linkMap else []
    routes := if has 4 then g.routes else []
    groupLinks := if has 4 then g.groupLinks else []
    group := if has 5 then g.group else none
    members := if has 5 then g.members else []
    others := if has 5 then g.others else []
    timeMaster := !has 6 || g.timeMaster
    parent := if has 6 then g.parent else none
    altParent := if has 6 then g.altParent else none
    power := if has 7 then g.power else PowerPolicy.default_
    security := secPolicyOf ((sectionOf l 8).getD [])
    modules := if has 9 then g.modules else []
    uniformLat := has 0xA && g.uniformLat
    spintLimit := if has 0xB then g.spintLimit else 100
    firmware := sha384 ((sectionOf l 0xC).getD []) }

/-- The ranges of R721 that the settings show: device identifiers (00:R4), link indices, the number of devices (01:R60), routes of one to four links
(12:R531), and the safe-point limit. -/
def settingsOk (g : ImageSettings) : Bool :=
  assignedId g.deviceId && 1 ≤ g.fabDevices.toNat && g.fabDevices.toNat ≤ 0x8000 &&
    g.linkMap.all (fun e => assignedId e.2.1 && e.2.2.toNat < 35) && (g.linkMap.map Prod.fst).Nodup &&
    g.routes.all (fun r => assignedId r.dest && 1 ≤ r.links.length && r.links.length ≤ 4) && (g.routes.map Route.dest).Nodup &&
    g.members.all assignedId && g.others.all (fun o => o.2.all assignedId) && 1 ≤ g.spintLimit && g.spintLimit ≤ 65535

/-! ## Validity (17:R722 to R724) -/

/-- The image of a slot that meets every condition of R723 but the signature's. -/
def readImage (x : Slot) : Option SlotImage :=
  let bs := x.bytes
  let len := imgN bs 24 4
  if !headerOk bs || bs.length < len + 192 then none
  else match imageSections (imgN bs 12 4) ((bs.take len).drop 64), x.fields with
  | some l, some f =>
    let g := settingsOf l f.settings
    if typesOk l && f.rsvOk && settingsOk g && secPolicyOk ((sectionOf l 8).getD []) && f.certsOk && (sectionOf l 2).isSome == g.quadSlot.isSome then
      some { version := BitVec.ofNat 64 (imgN bs 16 8), length := len, digest := sha384 (bs.take len), settings := g }
    else none
  | _, _ => none

/-- A big-endian 96-byte pair of the signature block, which follows the image (R722). -/
def pairAt (bs : List Byte) (off : Nat) : BitVec 768 := BitVec.ofNat 768 (beNat (((bs.drop off).take 96).map BitVec.toNat))

/-- R722: the key is the one whose hash the fuses hold, and its signature over the image verifies. -/
def signedBy (keyHash : BitVec 384) (x : Slot) (m : SlotImage) : Bool :=
  let key := pairAt x.bytes m.length
  pubKeyHash key == keyHash && ecdsaOk key (pairAt x.bytes (m.length + 96)) m.digest

/-- R723: the valid image of a slot. -/
def validSlot (keyHash : BitVec 384) (x : Slot) : Option SlotImage := (readImage x).filter (signedBy keyHash x)

/-- BOOT_OTHER.STATE of the slot not in use. -/
def otherState (m : Option SlotImage) (version : Word) : BitVec 2 :=
  match m with
  | none => 0#2
  | some m => if version.toNat < m.version.toNat then 2#2 else 1#2

/-- R724: the slot used (true for B) with its image, and whether IMAGE_CONFLICT and OTHER_INVALID are reported. -/
def chooseSlot (a b : Option SlotImage) (sel : Bool) : Option (Bool × SlotImage × Bool × Bool) :=
  match a, b with
  | some x, some y =>
    if x.version != y.version then
      (if x.version.toNat < y.version.toNat then some (true, y, false, false) else some (false, x, false, false))
    else some (sel, if sel then y else x, x.digest != y.digest, false)
  | some x, none => some (false, x, false, true)
  | none, some y => some (true, y, false, true)
  | none, none => none

end Sys2Proof.Machine
end

