-- ==== Sys2Proof/Machine/Matrix.lean ====
section
/-! DEFINITION. The matrix array and accumulation (spec/06, 07): MXCFG, MXMMA with its exact dot products and the three accumulation
modes, the epilogue and MXDRAIN in both forms. -/

namespace Sys2Proof.Machine

/-! ## MXCFG (06:R261 to R264; 03:R162) -/

/-- The class of an operand format with its scale flag: operands of one class pair (03:R162); with L (06:R247). -/
def mxClass (code : Nat) (sc : Bool) : Option (Nat × Nat) :=
  match code, sc with
  | 0x0, false => some (0, 1)
  | 0x1, false => some (1, 4)
  | 0x2, false => some (2, 16)
  | 0x3, false => some (3, 16)
  | 0x4, _ => some (4, 32)
  | 0x5, _ => some (4, 32)
  | 0x6, true => some (6, 64)
  | 0x7, true => some (6, 64)
  | 0x8, true => some (6, 64)
  | 0x9, false => some (9, 32)
  | 0xE, true => some (14, 32)
  | _, _ => none

/-- R262: the pair is one of R162, the mode one it allows, ACC_BASE 0 outside EXACT. -/
def mxCfgOk (c : MxCfg) : Bool :=
  match mxClass c.fmta c.sca, mxClass c.fmtb c.scb with
  | some (a, _), some (b, _) =>
    a == b && (if a == 0 then c.mode = .direct64 else c.mode != .direct64) && (c.mode = .exact || c.base == 0#12)
  | _, _ => false

def accModeOf (n : Nat) : Option AccMode :=
  match n with
  | 0 => some .chunk
  | 1 => some .exact
  | 2 => some .direct64
  | _ => none

/-- The configuration that a prefix and an MXCFG word give, if they break no rule. -/
def mxCfgOf (p w : BitVec 26) : Option MxCfg :=
  let pn := p.toNat
  let wn := w.toNat
  if bitsN pn 24 2 != 1 || bitsN pn 0 12 != 0 || bitsN wn 0 14 != 0 then none
  else match accModeOf (bitsN wn 16 2) with
    | none => none
    | some m =>
      let c : MxCfg := { fmta := bitsN wn 22 4, fmtb := bitsN wn 18 4, mode := m, sca := bitN wn 15, scb := bitN wn 14,
                         base := BitVec.ofNat 12 (bitsN pn 12 12) }
      if mxCfgOk c then some c else none

def Core.mxCfg (k : Core) (p : Option (BitVec 26)) (w : BitVec 26) : Core × Ending :=
  match p.bind (fun q => mxCfgOf q w) with
  | some c => ({ k with mxcfg := some c }, .retire 0#10)
  | none => illegal k

def execMxcfg (c : CoreId) (pfx : Pfx) (word : BitVec 26) (s : State) : Res :=
  .next (s.coreInstr c (pfxLen pfx) (fun k => k.mxCfg pfx word))

/-! ## The exact dot product (06:R251, R253) -/

/-- R251, R253: D of two lists of L elements, and its flag. -/
def exactDot (as bs : List Num) : Num × Flags :=
  let ps := List.zipWith (fun a b => (Num.mul a b).1) as bs
  let ops := as ++ bs
  if ops.any Num.isNan then (.nan false, flagIf (ops.any Num.isSig) fNV)
  else if ps.any Num.isNan then (.nan false, fNV)
  else
    let pos := ps.any (fun p => p.isInf && !p.negative)
    let neg := ps.any (fun p => p.isInf && p.negative)
    if pos && neg then (.nan false, fNV)
    else if pos then (.inf false, 0#10)
    else if neg then (.inf true, 0#10)
    else
      let s := ps.foldl (fun s p => (Num.add false s p).1) (.fin false 0 0)
      if s.isZero then (.fin (!ps.isEmpty && ps.all (fun p => p.isZero && p.negative)) 0 0, 0#10)
      else (s, 0#10)

/-! ## Contributions (07:R295 to R302) -/

/-- R296: one valid K-step in CHUNK mode; `ends` when it ends the chunk. -/
def chunkStep (o : AccOut) (d : Num) (ends : Bool) : AccOut × Flags :=
  let (c, f1) := match o.chunk with
    | none => fp32.round .rne 0 d
    | some h => fp32.finish .rne (Num.add false (fp32.decode h.toNat) d)
  if ends then
    let (t, f2) := fp64.finish .rne (Num.add false (fp64.decode (o.total.toNat % 2 ^ 64)) (fp32.decode c))
    ({ o with total := BitVec.ofNat 192 t, chunk := none }, f1 ||| f2)
  else ({ o with chunk := some (BitVec.ofNat 32 c) }, f1)

/-- R298: one K-step in DIRECT64 mode. -/
def direct64Step (o : AccOut) (d : Num) : AccOut × Flags :=
  let (t, f) := fp64.finish .rne (Num.add false d (fp64.decode (o.total.toNat % 2 ^ 64)))
  ({ o with total := BitVec.ofNat 192 t }, f)

/-- A special value's SPC code. -/
def spcOf : Num → BitVec 2
  | .nan _ => 3#2
  | .inf false => 1#2
  | .inf true => 2#2
  | .fin _ _ _ => 0#2

/-- R299 to R302: one contribution in EXACT mode under ACC_BASE `base`. -/
def exactStep (base : Int) (o : AccOut) (d : Num) : AccOut × Flags :=
  match d with
  | .fin neg m e =>
    let sh := e - base
    let v : Int := if neg then -(m : Int) else m
    let q : Int := if 0 ≤ sh then v * 2 ^ sh.toNat else v / 2 ^ (-sh).toNat
    let inx := !exactAt m e base
    let mg := mgAdd o.mg (BitVec.ofNat 40 (min ((q.natAbs + 2 ^ 152 - 1) / 2 ^ 152) (2 ^ 40 - 1)))
    let big := m != 0 && decide (base + 190 ≤ m.log2 + e)
    let rng := big || 2 ^ 39 ≤ mg.toNat
    ({ o with total := if o.spc == 0#2 then o.total + BitVec.ofInt 192 q else 0#192,
              inx := o.inx || inx, rng := o.rng || rng, mg := mg },
     flagIf inx fINEXACT ||| flagIf rng fRANGE)
  | x =>
    -- the wide add of the special's record, whose MG is 0 (R307)
    let (s, nv) := spcAdd o.spc (spcOf x)
    let rng : Bool := 2 ^ 39 ≤ o.mg.toNat
    ({ o with total := 0#192, spc := s, rng := o.rng || rng }, flagIf nv fNV ||| flagIf rng fRANGE)

/-- One contribution to an output. -/
def contribute (mode : AccMode) (base : Int) (ends : Bool) (o : AccOut) (d : Num × Flags) : AccOut × Flags :=
  let (o', f) := match mode with
    | .chunk => chunkStep o d.1 ends
    | .direct64 => direct64Step o d.1
    | .exact => exactStep base o d.1
  (o', f ||| d.2)

/-! ## Operands (06:R247, R255 to R259) -/

/-- Element slice E and scale slice C of an operand (R247). -/
def sliceBytes (l w : Nat) (sc : Bool) : Nat × Nat := (32 * l * w / 8, if sc then l else 0)

/-- Bytes of a panel of S slices (R257). -/
def panelBytes (s l w : Nat) (sc : Bool) : Nat := s * ((sliceBytes l w sc).1 + (sliceBytes l w sc).2)

/-- The exact values of a panel's elements of K-step `st`, row by row (R255, R256). -/
def panelStep (bytes : List Byte) (f : CFmt) (s l : Nat) (sc : Bool) (st : Nat) : List (List Num) :=
  let (e, c) := sliceBytes l f.width sc
  let els := unpack f.width (32 * l) ((bytes.drop (st * e)).take e)
  let scs := ((bytes.drop (s * e + st * c)).take c).map BitVec.toNat
  (List.range 32).map (fun r =>
    (List.range l).map (fun j =>
      let v := f.value (els.getD (r * l + j) 0)
      if sc then mxValue (scs.getD (r * (l / 32) + j / 32) 0) v else v))

/-- The lowest address that no single region allows, of the runs `parts` of scratchpad bytes (offset, length) in rising
order; none when one region allows them all (01:R49). -/
def Core.regionFail (k : Core) (wr : Bool) (parts : List (Nat × Nat)) : Option Nat :=
  match parts with
  | [] => none
  | (a, _) :: _ =>
    let ok := k.regions.filter (fun g =>
      (if wr then g.w else g.r) && g.base * 4096 ≤ a && a < (g.base + g.size) * 4096)
    let reach := ok.foldl (fun m g => max m (min ((g.base + g.size) * 4096) spadBytes)) a
    match parts.find? (fun p => reach < p.1 + p.2) with
    | some p => some (max reach p.1)
    | none => none

/-- The lowest failing core-local address of runs that must lie in the scratchpad window, in one region. -/
def Core.spadFail (k : Core) (wr : Bool) (parts : List (Nat × Nat)) : Option Nat :=
  match parts with
  | [] => none
  | (a, _) :: _ =>
    if placeOf a != .spad then some a
    else (k.regionFail wr (parts.map (fun p => (p.1 - spadBase, p.2)))).map (· + spadBase)

/-- A register operand of `bytes` bytes at register `r` (R258). DESIGN CHOICE: registers past v31 make it an illegal instruction, as log entry
36 says of vector operands. -/
def regOperandOk (r : Reg) (bytes : Nat) : Bool :=
  let n := (bytes + 8191) / 8192
  n ≤ 8 && (n == 0 || (r.toNat % n == 0 && r.toNat + n ≤ 32))

/-- An operand's bytes. -/
def Core.panel (k : Core) (sp : Bool) (r : Reg) (bytes : Nat) : List Byte :=
  if sp then k.load (k.reg r).toNat bytes else k.vregs.getN (r.toNat * vregBytes) bytes

/-! ## MXMMA (06:R266 to R272, R279) -/

/-- What a bank holds once every issued MXMMA has completed. -/
def Core.bankAhead (k : Core) (b : BitVec 2) : Bank :=
  k.mxq.foldl (fun acc x => if x.bank == b then x.final else acc) (k.abank b)

/-- One K-step added to every output. -/
def bankStep (mode : AccMode) (base : Int) (ends : Bool) (ra cb : List (List Num)) (outs : List AccOut) :
    List AccOut × Flags :=
  let rs := (List.range 1024).map (fun i =>
    contribute mode base ends (outs.getD i AccOut.zero)
      (exactDot (ra.getD (i / 32) []) (cb.getD (i % 32) [])))
  (rs.map Prod.fst, rs.foldl (fun f r => f ||| r.2) 0#10)

/-- K-steps `st` on, `n` of them, of `s` in all. -/
def runSteps (cfg : MxCfg) (fa fb : CFmt) (l s : Nat) (pa pb : List Byte) :
    Nat → Nat → List AccOut × Flags → List AccOut × Flags
  | 0, _, acc => acc
  | n + 1, st, (outs, fl) =>
    let ends := st % 16 == 15 || st + 1 == s
    let (o, f) := bankStep cfg.mode cfg.base.toInt ends (panelStep pa fa s l cfg.sca st) (panelStep pb fb s l cfg.scb st) outs
    runSteps cfg fa fb l s pa pb n (st + 1) (o, fl ||| f)

/-- The bank that R269 begins from. -/
def Bank.begin_ (b : Bank) (start : Bool) (cfg : MxCfg) : Bank :=
  if start || b.tag.isNone then ⟨some (cfg.mode, cfg.base), false, []⟩ else b

/-- An operand of an MXMMA: from scratchpad or from registers. -/
structure MxOperand where
  sp  : Bool
  reg : Reg
  fmt : CFmt
  sc  : Bool
  bytes : Nat
  deriving DecidableEq, Repr

/-- Checks 6 and 7 of R268 for the two operands. DESIGN CHOICE: with both addresses misaligned, TRV names A's. -/
def Core.mxAddrFail (k : Core) (ops : List MxOperand) : Option Ending :=
  let sp := (ops.filter (fun o => o.sp)).map (fun o => ((k.reg o.reg), o.bytes))
  match sp.find? (fun a => a.1.toNat % 256 != 0) with
  | some a => some (.trap .align a.1)
  | none =>
    let fails := sp.filterMap (fun a => k.spadFail false [(a.1.toNat, a.2)])
    match fails with
    | [] => none
    | x :: xs => some (.trap .bounds (BitVec.ofNat 64 (xs.foldl min x)))

/-- The uncorrectable words that the feed reads (R272), as core-local addresses. DESIGN CHOICE: A's stand before B's, so that TRV names A's lowest,
and B's lowest only where A has none. -/
def Core.feedBad (k : Core) (ops : List MxOperand) : List Nat :=
  (ops.filter (fun o => o.sp)).flatMap (fun o => k.badWords (k.reg o.reg).toNat o.bytes)

/-- The flight of an MXMMA that passes its checks: S K-steps (R269, R270, R272). -/
def Core.mxFlight (k : Core) (cfg : MxCfg) (bank : BitVec 2) (start : Bool) (l s : Nat) (a b : MxOperand) : MxFlight :=
  let bk := (k.bankAhead bank).begin_ start cfg
  let bad := if s == 0 then [] else k.feedBad [a, b]
  let pa := k.panel a.sp a.reg a.bytes
  let pb := k.panel b.sp b.reg b.bytes
  let r1 := runSteps cfg a.fmt b.fmt l s pa pb (s - 1) 0 (bk.outs, 0#10)
  let r2 := runSteps cfg a.fmt b.fmt l s pa pb (min s 1) (s - 1) r1
  { pc := k.pc, bank := bank, mid := { bk with outs := r1.1, poison := bk.poison || !bad.isEmpty },
    final := { bk with outs := r2.1, poison := bk.poison || !bad.isEmpty }, flags := r2.2, bad := bad }

/-- An MXMMA issued: the array takes it, or it waits in the feed behind the one ahead (R279). -/
def Core.pushMx (k : Core) (x : MxFlight) : Core :=
  let k' := if k.mxq.isEmpty then k.setAbank x.bank x.mid else k
  { k' with mxq := k.mxq ++ [x] }

/-- One MXMMA; `fed` says whether the MXMMA that waits in the feed, if there is one, has begun to feed (R279). -/
def Core.mxmma (k : Core) (fed : Bool) (a b kr : Reg) (bank : BitVec 2) (start sa sb : Bool) (fn : BitVec 6) : Core × Ending :=
  if !fed || (k.arun.map (fun x => x.reads.contains bank)) == some true then (k, .wait false)
  else if fn != 0#6 then illegal k
  else match k.mxcfg with
    | none => illegal k
    | some cfg =>
      match cfmtOf cfg.fmta, cfmtOf cfg.fmtb, mxClass cfg.fmta cfg.sca with
      | some fa, some fb, some (_, l) =>
        let kn := (k.reg kr).toNat
        if kn % l != 0 || 4096 < kn / l then (k, .trap .illegal (k.reg kr))
        else
          let s := kn / l
          let k := if sa || sb then k.drain else k
          let oa : MxOperand := ⟨sa, a, fa, cfg.sca, panelBytes s l fa.width cfg.sca⟩
          let ob : MxOperand := ⟨sb, b, fb, cfg.scb, panelBytes s l fb.width cfg.scb⟩
          let regsOk := s == 0 || ((sa || regOperandOk a oa.bytes) && (sb || regOperandOk b ob.bytes))
          let tagOk := start || (k.bankAhead bank).tag.isNone || (k.bankAhead bank).tag == some (cfg.mode, cfg.base)
          if !regsOk || !tagOk then illegal k
          else match (if s == 0 then none else k.mxAddrFail [oa, ob]) with
            | some e => (k, e)
            | none => (k.pushMx (k.mxFlight cfg bank start l s oa ob), .retire 0#10)
      | _, _, _ => illegal k

/-- Whether the MXMMA behind the one in the array has begun to feed: with two or more that have not completed it may have or not, which is a matter
of cycles that no command shows, and so a free value (R279). -/
def State.fedBy (s : State) (c : CoreId) : State × Bool :=
  if (s.core c).mxq.length < 2 then (s, true)
  else
    let (s, n) := s.draw
    (s, Config.free n % 2 == 1)

/-- MXMMA: a further one stalls at issue until the one that waits in the feed begins to feed (R279). -/
def execMxmma (c : CoreId) (a b kr : Reg) (bank : BitVec 2) (start sa sb : Bool) (fn : BitVec 6) (s : State) : Res :=
  let (s, fed) := s.fedBy c
  .next (s.coreInstr c 4 (fun k => k.mxmma fed a b kr bank start sa sb fn))

/-- Flags of a matrix instruction at its completion: raised at its address, and with PAM 1 an enabled one raises ARITH
at the present boundary (09:R404). -/
def Core.lateFlags (k : Core) (fl : Flags) (at_ : BitVec 20) : Core :=
  let k := k.raise fl at_
  let en := fl &&& k.fmode.ten
  if k.fmode.pam && en != 0#10 then k.takeTrap .arith (ArithRec.word ⟨en, at_, at_⟩) k.pcWord else k

/-- The pending interrupt of scratchpad words found uncorrectable, if there are any. -/
def Core.raiseBad (k : Core) (bad : List Nat) : Core :=
  bad.foldl (fun k w => k.raiseMemErr .scratchpad (w - spadBase) (BitVec.ofNat 64 w)) k

/-- The last K-step of the MXMMA in the array is added to its bank (R280), and the one behind it begins. -/
def Core.mxComplete (k : Core) : Core :=
  match k.mxq with
  | [] => k
  | x :: rest =>
    let k := { k.setAbank x.bank x.final with mxq := rest }
    let k := match rest with
      | y :: _ => k.setAbank y.bank y.mid
      | [] => k
    (k.raiseBad x.bad).lateFlags x.flags x.pc

def execMxmmaComplete (c : CoreId) (s : State) : Res := .next (s.ownChange c Core.mxComplete)

/-! ## MXEPI (07:R311 to R315) -/

/-- The parts of the parameter block that are read (R314). -/
def epiParts (act : Nat) (rs cs bi : Bool) : List (Nat × Nat) :=
  (if rs then [(0, 128)] else []) ++ (if cs then [(128, 128)] else []) ++ (if bi then [(256, 128)] else []) ++
    (if act == 2 then [(384, 8)] else [])

/-- Check 5 of R315: every byte read, in rising order, lies in DMEM or in one readable scratchpad region; a Kernel read of the DFSA is the
privilege fault, and everything else the bounds fault, at the lowest failing address. -/
def Core.blockFail (k : Core) (parts : List (Nat × Nat)) : Option (Cause × Nat) :=
  match parts with
  | [] => none
  | (a, _) :: _ =>
    if placeOf a = Place.spad then (k.spadFail false parts).map (fun x => (.bounds, x))
    else if placeOf a = Place.dmem || placeOf a = Place.dfsa then
      let lim := if k.level == .kernel then dfsaBase else 0x40000
      (parts.find? (fun p => lim < p.1 + p.2)).map (fun p =>
        let x := max lim p.1
        (if x < 0x40000 then .privilege else .bounds, x))
    else some (.bounds, a)

/-- FP32 parameters read at an address. -/
def Core.params (k : Core) (a n : Nat) : List Half := (unpackBytes 4 n (k.load a (4 * n))).map (BitVec.ofNat 32)

/-- A word of some part that holds an uncorrectable error. -/
def Core.partsBad (k : Core) (parts : List (Nat × Nat)) : Option (Nat × Nat) :=
  firstFail (parts.map (fun p => (k.badWord p.1 p.2).map (fun w => (w, (if placeOf p.1 = Place.spad then spadBase else 0) + w))))

/-- MXEPI. DESIGN CHOICE: a parameter address gA + offset past 2^64 does not wrap, and fails as out of bounds (R314). -/
def Core.mxepi (k : Core) (a : Reg) (ofmt act : BitVec 3) (rs cs bi : Bool) (rsv : BitVec 8) (fn : BitVec 4) :
    Core × Ending :=
  let parts := epiParts act.toNat rs cs bi
  if fn != 0#4 || rsv != 0#8 || 5 ≤ act.toNat then illegal k
  else if ofmt == 7#3 && (rs || cs || bi || act != 0#3) then illegal k
  else if parts.isEmpty && a != 0#5 then illegal k
  else
    let k := k.drain
    let base := (k.reg a).toNat
    let abs := parts.map (fun p => (base + p.1, p.2))
    if base % 8 != 0 then (k, .trap .align (k.reg a))
    else match k.blockFail abs, k.partsBad abs with
      | some (c, x), _ => (k, .trap c (BitVec.ofNat 64 x))
      | none, some (w, x) => (k, .memerr (memKindAt base) w (BitVec.ofNat 64 x))
      | none, none =>
        let lim := if act == 2#3 then k.params (base + 384) 2 else []
        let e : EpiCfg :=
          { ofmt := ofmt, act := act,
            rs := if rs then some (k.params base 32) else none,
            cs := if cs then some (k.params (base + 128) 32) else none,
            bias := if bi then some (k.params (base + 256) 32) else none,
            lo := lim.getD 0 0#32, hi := lim.getD 1 0#32 }
        ({ k with epi := some e }, .retire 0#10)

def execMxepi (c : CoreId) (a : Reg) (ofmt act : BitVec 3) (rs cs bi : Bool) (rsv : BitVec 8) (fn : BitVec 4)
    (s : State) : Res :=
  .next (s.coreInstr c 4 (fun k => k.mxepi a ofmt act rs cs bi rsv fn))

/-! ## The epilogue (07:R324 to R331) -/

/-- The target of an OFMT other than WIDE, and its bytes (R313). -/
def ofmtTarget (o : Nat) : CFmt :=
  match o with
  | 0 => .fp fp64
  | 1 => .fp fp32
  | 2 => .fp bf16
  | 3 => .fp fp16
  | 4 => .fp e5m2
  | 5 => .fp e4m3
  | _ => .int 8

def ofmtBytes (o : Nat) : Nat := if o == 7 then 32 else (ofmtTarget o).width / 8

/-- A parameter's value, or the neutral element when it is absent. -/
def paramAt (p : Option (List Half)) (i : Nat) : Option Num := p.map (fun l => fp32.decode ((l.getD i 0#32).toNat))

/-- R325: z of output (r, c), exactly. -/
def epiZ (e : EpiCfg) (v : Num) (r c : Nat) : Num × Flags :=
  let mulBy := fun (x : Num × Flags) (p : Option Num) =>
    match p with
    | none => x
    | some s => let (y, f) := Num.mul x.1 s; (y, x.2 ||| f)
  let x := mulBy (mulBy (v, 0#10) (paramAt e.rs r)) (paramAt e.cs c)
  match paramAt e.bias c with
  | none => x
  | some b => let (y, f) := Num.add false x.1 b; (y, x.2 ||| f)

/-- R326, R327: the activation, as an exact value. -/
def epiAct (e : EpiCfg) (z : Num) : Num × Flags :=
  match e.act.toNat with
  | 0 => (z, 0#10)
  | 1 => (if z.isNan then z else if Num.cmp z (numZero false) == .gt then z else numZero false, 0#10)
  | 2 =>
    let lo := fp32.decode e.lo.toNat
    let hi := fp32.decode e.hi.toNat
    if z.isNan then (z, sigNv [lo, hi])
    else
      let (a, f) := Num.minMax true z lo
      let (b, g) := Num.minMax false a hi
      (b, f ||| g)
  | n =>
    let f := if e.ofmt == 0#3 then fp64 else fp32
    let (p, fl) := f.round .rne 0 z
    let (y, g) := actRun (n == 3) f p
    (f.decode y, fl ||| g)

/-- One output through the epilogue to its code (R325 to R329). -/
def epiOut (e : EpiCfg) (v : Num) (i : Nat) (rm : RMode) (rnd : Nat) : Nat × Flags :=
  let (z, f1) := epiZ e v (i / 32) (i % 32)
  let (y, f2) := epiAct e z
  let (c, f3) := convertElem (.fp fp64) (ofmtTarget e.ofmt.toNat) y rm rnd
  (c, f1 ||| f2 ||| f3)

/-- R330: the wide record of an output. -/
def Bank.record (b : Bank) (i : Nat) : Nat :=
  let o := b.out i
  match b.tag with
  | some (.exact, base) =>
    if b.poison then Wide.toNat ⟨0#192, 0#12, 3#2, false, false, 0#40⟩
    else if o.spc == 3#2 then Wide.toNat ⟨0#192, 0#12, 3#2, o.inx, o.rng, o.mg⟩
    else Wide.toNat ⟨o.total, base, o.spc, o.inx, o.rng, o.mg⟩
  | _ => 0

/-- DMODE of a tag (07:R304). -/
def dmode (t : Option (AccMode × BitVec 12)) : Nat :=
  match t with
  | none => 0
  | some (.chunk, _) => 1
  | some (.exact, _) => 2
  | some (.direct64, _) => 3

/-- R321: the record of an output in debug mode, with the raw state of its bank. DESIGN CHOICE: a NaN or poisoned output of an EXACT bank is written raw
too, with BASE the bank's ACC_BASE, not in the canonical form of R330. -/
def Bank.debugRecord (b : Bank) (i : Nat) : Nat :=
  let o := b.out i
  (match b.tag with
   | some (.exact, base) => Wide.toNat ⟨o.total, base, o.spc, o.inx, o.rng, o.mg⟩
   | _ => o.total.toNat % 2 ^ 64) +
    2 ^ 248 * dmode b.tag + 2 ^ 250 * b2n b.poison

/-- An output's value in a drain. -/
def Bank.drainValue (b : Bank) (i : Nat) : Num := b.value i

/-! ## MXDRAIN (07:R317 to R323) -/

/-- The 32 rows of an access: addresses and lengths (R318). DESIGN CHOICE: a row address past 2^64 does not wrap, and fails as out of bounds. -/
def drainParts (d p n : Nat) : List (Nat × Nat) := (List.range 32).map (fun r => (d + r * p, 32 * n))

/-- Checks 5 and 6 of R319. -/
def Core.drainAddrFail (k : Core) (d p : Word) (n : Nat) (wr : Bool) : Option Ending :=
  if d.toNat % 32 != 0 then some (.trap .align d)
  else if p.toNat % 32 != 0 || p.toNat < 32 * n then some (.trap .align p)
  else
    (k.spadFail wr (drainParts d.toNat p.toNat n)).map (fun a => .trap .bounds (BitVec.ofNat 64 a))

/-- R320: an earlier instruction that the MXDRAIN waits for. -/
def Core.drainWaits (k : Core) (bank : BitVec 2) : Bool :=
  k.bankBusy [bank] || (k.arun.map (fun x => x.reads.contains bank)) == some true

/-- The codes of a drain's outputs and its flags. -/
def Core.drainOuts (k : Core) (lc : Nat) (dbg : Bool) (e : EpiCfg) (b : Bank) (sr : Bool) : List Nat × Flags :=
  let st := (k.stoD.toNat + (k.drains.filter DrainFlight.sr).length) % 2 ^ 14 * 2 ^ 18
  let one := fun i =>
    if e.ofmt == 7#3 then (if dbg then b.debugRecord i else b.record i, b.outFlags i)
    else
      let (c, f) := epiOut e (b.drainValue i) i (if sr then .sto else .rne) (if sr then k.rnd24 lc 3 (st + i) else 0)
      (c, f ||| b.outFlags i)
  let rs := (List.range 1024).map one
  (rs.map Prod.fst, rs.foldl (fun f r => f ||| r.2) 0#10)

/-- Rows of codes stored. -/
def Core.storeRows (k : Core) (d p n : Nat) (cs : List Nat) : Core :=
  (List.range 32).foldl (fun k r => k.store (d + r * p) (((cs.drop (32 * r)).take 32).flatMap (leBytes n))) k

/-- The tag of a bank once every earlier instruction has completed. -/
def Core.tagAhead (k : Core) (b : BitVec 2) : Option (AccMode × BitVec 12) :=
  if k.arun.any (fun x => x.rel.contains b) then none else (k.bankAhead b).tag

/-- The drain form (R321). Checks 1 to 4 of R319 come before the waits of R320, the others after them; check 3 reads the tag that the bank has when
the earlier instructions are done. DESIGN CHOICE: the n of R329 counts
every SR = 1 MXDRAIN that issued before this one, one that has not completed yet too, so that it does not depend on timing. -/
def Core.mxdrain (k : Core) (lc : Nat) (dbg : Bool) (d p : Reg) (rsv : BitVec 4) (bank : BitVec 2) (sr : Bool)
    (fn : BitVec 8) : Core × Ending :=
  if fn != 0#8 || rsv != 0#4 then illegal k
  else match k.epi with
    | none => illegal k
    | some e =>
      let tag := k.tagAhead bank
      let wide := e.ofmt == 7#3
      let exact := match tag with
        | some (.exact, _) => true
        | _ => false
      if wide && (sr || !(exact || (dbg && tag.isSome))) then illegal k
      else if k.drainWaits bank then (k, .wait false)
      else
        let k := k.drain
        let b := k.abank bank
        let n := ofmtBytes e.ofmt.toNat
        match k.drainAddrFail (k.reg d) (k.reg p) n true with
        | some x => (k, x)
        | none =>
          let (cs, fl) := k.drainOuts lc dbg e b sr
          let k' := (k.storeRows (k.reg d).toNat (k.reg p).toNat n cs).setAbank bank Bank.empty
          ({ k' with drains := k'.drains ++ [⟨k.pc, bank, false, fl, [], sr⟩] }, .retire 0#10)

/-- R322: the output that a record loads under ACC_BASE `base`, with the flags. -/
def fillOut (base : BitVec 12) (v : Nat) : AccOut × Flags :=
  let r := Wide.ofNat v
  let o : AccOut := ⟨0#192, 3#2, r.inx, r.rng, r.mg, none⟩
  let fl := flagIf r.inx fINEXACT ||| flagIf r.rng fRANGE
  if r.spc == 0#2 && r.base == base then ({ o with total := r.total, spc := 0#2 }, fl)
  else if r.spc == 1#2 || r.spc == 2#2 then ({ o with spc := r.spc }, fl)
  else (o, fl ||| flagIf (r.spc == 0#2) fNV)

/-- The fill form (R322). DESIGN CHOICE: a record that holds an uncorrectable word is loaded, and sets flags, from the bytes as stored; the bank is poisoned
in any case. -/
def Core.mxfill (k : Core) (d p : Reg) (rsv : BitVec 4) (bank : BitVec 2) (sr : Bool) (fn : BitVec 8) : Core × Ending :=
  if fn != 0#8 || rsv != 0#4 || sr then illegal k
  else match k.mxcfg with
    | none => illegal k
    | some cfg =>
      if cfg.mode != .exact then illegal k
      else if k.drainWaits bank then (k, .wait false)
      else
        let k := k.drain
        match k.drainAddrFail (k.reg d) (k.reg p) 32 false with
        | some x => (k, x)
        | none =>
          let parts := drainParts (k.reg d).toNat (k.reg p).toNat 32
          let recs := parts.flatMap (fun a => unpackBytes 32 32 (k.load a.1 a.2))
          let rs := recs.map (fillOut cfg.base)
          let bad := parts.flatMap (fun p => k.badWords p.1 p.2)
          let b : Bank := ⟨some (cfg.mode, cfg.base), !bad.isEmpty, rs.map Prod.fst⟩
          let fl := rs.foldl (fun f r => f ||| r.2) 0#10
          let k' := k.setAbank bank b
          ({ k' with drains := k'.drains ++ [⟨k.pc, bank, true, fl, bad, false⟩] }, .retire 0#10)

/-- Debug mode is on with SCOPE bit 0 (19:R786). -/
def State.debugAcc (s : State) : Bool := s.sec.debug && s.sec.scope.getLsbD 0

def execMxdrainDrain (c : CoreId) (d p : Reg) (rsv : BitVec 4) (bank : BitVec 2) (sr : Bool) (fn : BitVec 8)
    (s : State) : Res :=
  .next (s.coreInstr c 4 (fun k => k.mxdrain c.val s.debugAcc d p rsv bank sr fn))

def execMxdrainFill (c : CoreId) (d p : Reg) (rsv : BitVec 4) (bank : BitVec 2) (sr : Bool) (fn : BitVec 8)
    (s : State) : Res :=
  .next (s.coreInstr c 4 (fun k => k.mxfill d p rsv bank sr fn))

/-- The oldest MXDRAIN in flight completes (R323): its flags, its interrupt, its count (R329). -/
def Core.drainComplete (k : Core) : Core :=
  match k.drains with
  | [] => k
  | x :: rest =>
    let k := { k with drains := rest, stoD := if x.sr then k.stoD + 1#14 else k.stoD }
    (k.raiseBad x.bad).lateFlags x.flags x.pc

def execMxdrainComplete (c : CoreId) (s : State) : Res := .next (s.ownChange c Core.drainComplete)

end Sys2Proof.Machine
end

