-- ==== Sys2Proof/Machine/Reduce.lean ====
section
/-! DEFINITION. Reductions into a result block (08:R335 to R353), VSOFTMAX (R355 to R360), VSAMPLE (R361 to R368) and VPREFIX (R369,
R370). -/

namespace Sys2Proof.Machine

/-! ## The result block (R336 to R340) -/

/-- The six reductions. -/
inductive RedOp where
  | sum | ssq | max | min | argmax | meanvar
  deriving DecidableEq, Repr

def RedOp.fn : RedOp → Nat
  | .sum => 0
  | .ssq => 1
  | .max => 2
  | .min => 3
  | .argmax => 4
  | .meanvar => 5

/-- What a block accumulates: two wide records, an extreme value's code with its index, the count, ANYNAN. -/
structure Block where
  rec1   : Wide
  rec2   : Wide
  ext    : Nat
  idx    : Nat
  count  : Nat
  anyNan : Bool
  deriving DecidableEq, Repr

/-- The fields of a control word (R340). -/
structure Control where
  base   : BitVec 12
  base2  : BitVec 12
  acc    : Bool
  idxoff : Nat
  deriving DecidableEq, Repr

def controlOf (w : Word) : Control :=
  { base := BitVec.ofNat 12 w.toNat, base2 := BitVec.ofNat 12 (bitsN w.toNat 16 12), acc := bitN w.toNat 12,
    idxoff := bitsN w.toNat 32 32 }

/-- R341. -/
def RedOp.controlOk (o : RedOp) (w : Word) (vl : Nat) : Bool :=
  let c := controlOf w
  bitsN w.toNat 13 3 == 0 && bitsN w.toNat 28 4 == 0 &&
  (match o with
   | .sum | .ssq => c.base2 == 0#12 && c.idxoff == 0
   | .max | .min => c.base == 0#12 && c.base2 == 0#12 && c.idxoff == 0
   | .argmax => c.base == 0#12 && c.base2 == 0#12 && c.idxoff + vl ≤ 0xFFFFFFFF
   | .meanvar => c.idxoff == 0)

def Wide.zero (base : BitVec 12) : Wide := ⟨0#192, base, 0#2, false, false, 0#40⟩

/-- R349: the identity block. -/
def RedOp.identity (o : RedOp) (f : FFmt) (c : Control) : Block :=
  { rec1 := Wide.zero c.base, rec2 := Wide.zero c.base2,
    ext := if o = .min then f.infCode else f.signed true f.infCode, idx := 0xFFFFFFFF, count := 0, anyNan := false }

/-- The block that stands in a vector register. -/
def Core.blockIn (k : Core) (r : Reg) (f : FFmt) : Block :=
  let bs := k.vregs.getN (r.toNat * vregBytes) 96
  let at_ := fun o n => leNat ((bs.drop o).take n)
  { rec1 := Wide.ofNat (at_ 0 32), rec2 := Wide.ofNat (at_ 32 32), ext := at_ 64 8 % 2 ^ f.width, idx := at_ 72 4,
    count := at_ 80 8, anyNan := bitN (at_ 88 8) 1 }

/-! ## Terms (R342 to R346) -/

/-- One term D added to a record under `base` (R342, R306). -/
def termAdd (base : BitVec 12) (r : Wide) (d : Num) : Wide × Flags :=
  let (o, f1) := exactStep base.toInt AccOut.zero d
  let (s, f2) := wadd r ⟨o.total, base, o.spc, o.inx, o.rng, o.mg⟩
  let fin := match d with
    | .fin _ _ _ => true
    | _ => false
  (s, f1 ||| f2 ||| flagIf (fin && 2 ^ 39 ≤ s.mg.toNat) fRANGE)

/-- x² exactly. -/
def Num.sq (x : Num) : Num := (Num.mul x x).1

/-- R346: whether element value `x` at index `i` replaces the kept pair. -/
def replaces (f : FFmt) (x : Num) (i : Nat) (b : Block) : Bool :=
  let y := f.decode b.ext
  if y.isNan then true
  else match Num.cmp x y with
    | .gt => true
    | .lt => false
    | .eq => if x.negative == y.negative then decide (i < b.idx) else y.negative

/-- One active element reduced. -/
def RedOp.step (o : RedOp) (f : FFmt) (c : Control) (b : Block) (i a : Nat) : Block × Flags :=
  let x := f.decode a
  let nv := sigNv [x]
  let b := { b with count := (b.count + 1) % 2 ^ 64, anyNan := b.anyNan || x.isNan }
  match o with
  | .sum => let (r, g) := termAdd c.base b.rec1 x; ({ b with rec1 := r }, g ||| nv)
  | .ssq => let (r, g) := termAdd c.base b.rec1 x.sq; ({ b with rec1 := r }, g ||| nv)
  | .max => (if x.isNan then b else { b with ext := (f.minMax true b.ext a).1 }, nv)
  | .min => (if x.isNan then b else { b with ext := (f.minMax false b.ext a).1 }, nv)
  | .argmax =>
    let i' := c.idxoff + i
    (if !x.isNan && replaces f x i' b then { b with ext := a, idx := i' } else b, nv)
  | .meanvar =>
    let (r, g) := termAdd c.base b.rec1 x
    let (q, h) := termAdd c.base2 b.rec2 x.sq
    ({ b with rec1 := r, rec2 := q }, g ||| h ||| nv)

/-- The active elements in index order. -/
def reduceElems (act : Nat → Bool) (g : Block → Nat → Nat → Block × Flags) :
    Nat → List Nat → Block × Flags → Block × Flags
  | _, [], acc => acc
  | i, a :: as, (b, fl) =>
    if act i then
      let (b', h) := g b i a
      reduceElems act g (i + 1) as (b', fl ||| h)
    else reduceElems act g (i + 1) as (b, fl)

/-! ## Derived fields (R344, R348) -/

/-- The value of a record (07:R305). An exact zero has the sign of 03:R140: −0 in rounding toward −∞ (`rdn`) where non-zero values
were added, which MG tells, since each adds at least 1 to it (07:R301); +0 otherwise. DESIGN CHOICE (log 151): a record to which only
zeros were added, or only values whose |q| is 0, is +0 in every mode. -/
def Wide.value (rdn : Bool) (r : Wide) : Num :=
  match r.spc.toNat with
  | 0 => Num.ofInt r.total.toInt r.base.toInt (rdn && r.mg != 0#40)
  | 1 => .inf false
  | 2 => .inf true
  | _ => .nan false

/-- n × S2 − S1² of a block, exactly; a difference of equal non-zero values is −0 in rounding toward −∞ (03:R140). -/
def spreadOf (rdn : Bool) (n s1 s2 : Num) : Num :=
  let a := (Num.mul n s2).1
  (Num.add (rdn && !a.isZero) a s1.sq.neg).1

/-- R348: mean and variance codes, and the flags of their rounding. A variance below zero is +0. -/
def meanVar (f : FFmt) (rm : RMode) (b : Block) : (Nat × Nat) × Flags :=
  let nan := f.nanCode
  let n := b.count
  let nn : Num := .fin false n 0
  let rdn := decide (rm = .rdn)
  let s1 := b.rec1.value rdn
  let mean := f.finish rm (Num.div s1 nn)
  if n == 0 then ((nan, nan), 0#10)
  else if b.rec1.spc == 3#2 || b.rec2.spc == 3#2 then ((nan, nan), 0#10)
  else if b.rec1.spc != 0#2 then (((f.round rm 0 s1).1, nan), fNV)
  else if b.rec2.spc == 1#2 then ((mean.1, f.infCode), mean.2)
  else if b.rec2.spc == 2#2 then ((mean.1, nan), fNV ||| mean.2)
  else
    let d := spreadOf rdn nn s1 (b.rec2.value rdn)
    let v := if d.negative && !d.isZero then numZero false else d
    let (c, g) := f.finish rm (Num.div v (nn.sq))
    ((mean.1, c), mean.2 ||| g)

/-- The bytes 64 to 79 of a block and the flags of their rounding. -/
def RedOp.derived (o : RedOp) (f : FFmt) (rm : RMode) (b : Block) : (Nat × Nat) × Flags :=
  match o with
  | .sum | .ssq => let (c, g) := f.round rm 0 (b.rec1.value (decide (rm = .rdn))); ((c, 0), g)
  | .max | .min => ((b.ext, 0), 0#10)
  | .argmax => ((b.ext, b.idx % 2 ^ 32), 0#10)
  | .meanvar => meanVar f rm b

/-- The 96 bytes of a block (R336). -/
def RedOp.bytes (o : RedOp) (b : Block) (d : Nat × Nat) : List Byte :=
  let r1 := match o with
    | .sum | .ssq | .meanvar => b.rec1.toNat
    | _ => 0
  let r2 := if o = .meanvar then b.rec2.toNat else 0
  leBytes 32 r1 ++ leBytes 32 r2 ++ leBytes 8 d.1 ++ leBytes 8 d.2 ++ leBytes 8 b.count ++
    leBytes 8 (b2n (b.count == 0) + 2 * b2n b.anyNan)

/-- R337, R341 and the checks of R170, R171. -/
def Core.redOk (k : Core) (o : RedOp) (f : VFields) (w : Nat) : Bool :=
  f.fn.toNat == o.fn && maskFieldOk f && k.maskLenOk f.m && k.operandOk f.va w && k.disjoint f.vd 0 f.va w &&
  o.controlOk (k.reg f.vb) k.vl.toNat

/-- R352: the starting block combined with the identity records of the control word, so that a block whose BASE differs
gives the canonical NaN record and NV even when no element is active (R353); a NaN as extreme value becomes canonical. -/
def RedOp.combineStart (o : RedOp) (fm : FFmt) (c : Control) (b : Block) : Block × Flags :=
  match o with
  | .sum | .ssq => let (r, g) := wadd b.rec1 (Wide.zero c.base); ({ b with rec1 := r }, g)
  | .meanvar =>
    let (r, g) := wadd b.rec1 (Wide.zero c.base)
    let (q, h) := wadd b.rec2 (Wide.zero c.base2)
    ({ b with rec1 := r, rec2 := q }, g ||| h)
  | .max | .min | .argmax => ({ b with ext := if (fm.decode b.ext).isNan then fm.nanCode else b.ext }, 0#10)

/-- R352: the block that the elements are reduced into. -/
def Core.startBlock (k : Core) (o : RedOp) (f : VFields) (fm : FFmt) (c : Control) (hi : Option Nat) : Block × Flags :=
  if c.acc || (k.vcur != 0#18 && k.vl != 0#18) then
    let b := k.blockIn f.vd fm
    if k.vcur.toNat < k.vend hi then o.combineStart fm c b else (b, 0#10)
  else (o.identity fm c, 0#10)

/-- The block written to vD (R336); with VL 0 and ACC 1 only bytes 64 to 79 and the status are rewritten (R350). -/
def Core.putBlock (k : Core) (o : RedOp) (r : Reg) (keep : Bool) (b : Block) (d : Nat × Nat) : Mem :=
  let at_ := r.toNat * vregBytes
  let bs := o.bytes b d
  if keep then (k.vregs.put (at_ + 64) ((bs.drop 64).take 16)).put (at_ + 88) (bs.drop 88)
  else k.vregs.put at_ bs

/-- R349: a reduction that completes (`done`) with a count of 0 writes the identity block; at VL 0 the block stays (R350). -/
def RedOp.atEnd (o : RedOp) (fm : FFmt) (c : Control) (done : Bool) (b : Block) : Block :=
  if done && b.count == 0 then o.identity fm c else b

/-- One reduction (R342 to R352). -/
def Core.reduce (k : Core) (o : RedOp) (f : VFields) (hi : Option Nat) : Core × Ending :=
  match k.ewFmt with
  | none => illegal k
  | some fm =>
    if !k.redOk o f fm.width then illegal k
    else
      let c := controlOf (k.reg f.vb)
      let (b, fl) := reduceElems (k.isActive f (k.vend hi)) (o.step fm c) 0 (k.vget f.va fm.width k.vl.toNat)
        (k.startBlock o f fm c hi)
      let b := o.atEnd fm c (hi.isNone && k.vl != 0#18) b
      let (d, g) := o.derived fm k.rm b
      let k' := { k with vregs := k.putBlock o f.vd (c.acc && k.vl == 0#18) b d }
      let fl := if hi.isSome then fl
        else if k.hasWork then fl ||| g ||| flagIf (b.count == 0) fEMPTY
        else 0#10
      (k'.setCur hi, .retire fl)

/-! ## VSOFTMAX (R355 to R360) -/

/-- The largest of a list of finite values and −∞. -/
def largest (xs : List Num) : Num := xs.foldl (fun m x => if Num.cmp m x == .lt then x else m) (.inf true)

/-- e^(x − m) in fixed point, of values with x ≤ m; −∞ gives 0. -/
def softWeight (m x : Num) : Int :=
  match (Num.add false x m.neg).1 with
  | .fin neg a e => let b := expNum false neg a e; fxOf false b.1 b.2
  | _ => 0

/-- The absolute part of the bound of R358. -/
def softAbs (f : FFmt) : Int := if f.mb == 23 then -26 else -55

/-- One output of an ordinary row: inside its bound and in [+0, 1] (R358, R359). -/
def softOut (f : FFmt) (row i : Nat) (t : Num) : Nat :=
  let c := boundedCode f ⟨4, some (softAbs f)⟩ t (Config.approx 32 f.mb row i)
  let x := f.decode c
  if x.negative || Num.cmp x (numOne false) == .gt then (f.round .rne 0 t).1 else c

/-- The codes of the active elements, packed to name the row (R357: they decide the outcome). -/
def rowKey (w : Nat) (xs : List (Bool × Nat)) : Nat := packBits (w + 1) ((xs.filter Prod.fst).map (fun x => 1 + 2 * x.2))

/-- Each element's place among the active elements of the row. -/
def activeRanks : Nat → List (Bool × Nat) → List Nat
  | _, [] => []
  | n, x :: xs => n :: activeRanks (if x.1 then n + 1 else n) xs

/-- The outputs of a row (an inactive element marked false), its log-sum-exp, and the flags (R357, R358). -/
def softmaxRow (f : FFmt) (row : List (Bool × Nat)) : List Nat × Nat × Flags :=
  let act := (row.filter Prod.fst).map (fun x => f.decode x.2)
  let fin := act.filter (fun x => !x.isInf)
  let posInf := act.filter (fun x => x.isInf && !x.negative)
  if act.any Num.isNan then
    (row.map (fun _ => f.nanCode), f.nanCode, flagIf (act.any Num.isSig) fNV)
  else if !posInf.isEmpty then
    let (q, g) := f.div .rne (f.round .rne 0 (numOne false)).1 (f.round .rne 0 (.fin false posInf.length 0)).1
    (row.map (fun x => if x.1 && x.2 == f.infCode then q else 0), f.infCode, g &&& fNX)
  else if fin.isEmpty then (row.map (fun _ => 0), f.signed true f.infCode, fMASKED)
  else
    let m := largest act
    let ws := row.map (fun x => if x.1 then softWeight m (f.decode x.2) else 0)
    let sum := ws.foldl (· + ·) 0
    let key := rowKey f.width row
    let one := (f.round .rne 0 (numOne false)).1
    let outs := List.zipWith (fun (x : Bool × Nat) (wi : Int × Nat) =>
      let (w, i) := wi
      if !x.1 || (f.decode x.2).isInf then 0
      else if fin.length == 1 then one
      else softOut f key i (fxNum (w * 2 ^ fxP / sum))) row (List.zip ws (activeRanks 0 row))
    let t := if fin.length == 1 then m else lseNum m fin
    let lse := boundedCode f ⟨4, none⟩ t (Config.approx 33 f.mb key 0)
    (outs, lse, flagIf (fin.length != 1 || Num.cmp (f.decode lse) m != .eq) fNX)

def Core.vsoftmax (k : Core) (f : VFields) : Core × Ending :=
  match k.ewFmt with
  | none => illegal k
  | some fm =>
    let w := fm.width
    if f.fn.toNat != 0x08 || !maskFieldOk f || !k.maskLenOk f.m || !k.operandOk f.vd w || !k.operandOk f.va w ||
        !k.sameOrDisjoint f.vd f.va w then illegal k
    else
      let n := k.vl.toNat
      if n == 0 then
        ((k.setReg f.vb (BitVec.ofNat 64 (fm.signed true fm.infCode))).setCur none, .retire 0#10)
      else
        let act := { k with vcur := 0#18 }.isActive f n
        let row := List.zipWith (fun i x => (act i, x)) (List.range n) (k.vget f.va w n)
        let (outs, lse, fl) := softmaxRow fm row
        (((k.vput f.vd w outs).setReg f.vb (BitVec.ofNat 64 lse)).setCur none, .retire fl)

/-! ## VSAMPLE (R361 to R368) -/

/-- A candidate: its index, its scaled logit, its weight. -/
structure Cand where
  i : Nat
  z : Num
  w : Nat
  deriving DecidableEq, Repr

/-- A candidate inserted into a list ordered by `before`, among equals after those already there. -/
def insertCand (before : Cand → Cand → Bool) (c : Cand) : List Cand → List Cand
  | [] => [c]
  | d :: ds => if before c d then c :: d :: ds else d :: insertCand before c ds

/-- The list in the order of `before`; equals keep their order. -/
def sortCands (before : Cand → Cand → Bool) (keep : Nat) (cs : List Cand) : List Cand :=
  cs.foldl (fun acc c => (insertCand before c acc).take keep) []

/-- The parameter block (R362). -/
structure Sampling where
  temp : Nat
  topp : Nat
  topk : Nat
  base2 : Bool
  draw : Nat
  deriving DecidableEq, Repr

/-- The 32-bit word of a parameter block that breaks R362, if one does. -/
def samplingFail (bs : List Byte) : Option Nat :=
  let w := fun o => leNat ((bs.drop o).take 4)
  let t := fp32.decode (w 0)
  let p := fp32.decode (w 4)
  let tBad := t.isNan || t.isInf || (t.negative && !t.isZero)
  let pBad := p.isNan || p.isZero || p.negative || Num.cmp p (numOne false) == .gt
  let w8 := w 8
  if tBad then some 0
  else if pBad then some 4
  else if 1024 < w8 % 65536 || bitsN w8 17 7 != 0 || bitsN w8 24 8 != 0 then some 8
  else if w 12 != 0 then some 12
  else if w 20 != 0 then some 20
  else if w 24 != 0 then some 24
  else if w 28 != 0 then some 28
  else none

def samplingOf (bs : List Byte) : Sampling :=
  let w := fun o => leNat ((bs.drop o).take 4)
  { temp := w 0, topp := w 4, topk := w 8 % 65536, base2 := bitN (w 8) 16, draw := w 16 }

/-- The candidates of a row of logits (R364). -/
def candidates (p : Sampling) : Nat → List (Bool × Nat) → List Cand
  | _, [] => []
  | i, (a, x) :: rest =>
    let more := candidates p (i + 1) rest
    if !a || (fp32.decode x).isNan then more
    else
      let z := if (fp32.decode p.temp).isZero then fp32.decode x else fp32.decode (fp32.div .rne x p.temp).1
      if z.isInf && z.negative then more else ⟨i, z, 0⟩ :: more

/-- floor(w × 2^32) of an FP32 code of a value in [0, 1]. -/
def weight32 (c : Nat) : Nat :=
  match fp32.decode c with
  | .fin _ m e => let k := e + 32; if 0 ≤ k then m * 2 ^ k.toNat else m / 2 ^ (-k).toNat
  | _ => 0

/-- The weight of a kept candidate. -/
def candWeight (p : Sampling) (zmax z : Num) : Nat :=
  if zmax.isInf then (if z.isInf then 2 ^ 32 else 0)
  else
    let d := (fp32.round .rne 0 (Num.add false z zmax.neg).1).1
    weight32 (Apx.run (if p.base2 then .exp2 else .exp) fp32 d).1

/-- The shortest leading run whose weights reach `tau`. -/
def reachTau (tau : Nat) : Nat → List Cand → List Cand
  | _, [] => []
  | acc, c :: cs => if tau ≤ acc + c.w then [c] else c :: reachTau tau (acc + c.w) cs

/-- ceil(TOPP × total). -/
def tauOf (p : Sampling) (total : Nat) : Nat :=
  match fp32.decode p.topp with
  | .fin _ m e => let n := m * total; if 0 ≤ e then n * 2 ^ e.toNat else (n + 2 ^ (-e).toNat - 1) / 2 ^ (-e).toNat
  | _ => total

def sumW (cs : List Cand) : Nat := cs.foldl (fun s c => s + c.w) 0

/-- The lowest kept index whose cumulative weight exceeds `t`. -/
def pick (t : Nat) : Nat → List Cand → Option Nat
  | _, [] => none
  | acc, c :: cs => if t < acc + c.w then some c.i else pick t (acc + c.w) cs

def zAbove (a b : Cand) : Bool := Num.cmp a.z b.z == .gt
def wAbove (a b : Cand) : Bool := b.w < a.w
def iBelow (a b : Cand) : Bool := a.i < b.i

/-- R364 after the candidates are known and there is one: the token index. -/
def chooseToken (p : Sampling) (u : Nat) (cs : List Cand) : Nat :=
  let n := cs.length
  if (fp32.decode p.temp).isZero then ((sortCands zAbove 1 cs).head?.map Cand.i).getD 0
  else
    let kept := if p.topk == 0 then cs else sortCands iBelow n (sortCands zAbove p.topk cs)
    let zmax := largest (kept.map Cand.z)
    let kept := kept.map (fun c => { c with w := candWeight p zmax c.z })
    let kept := if p.topp == 0x3F800000 then kept
      else sortCands iBelow n (reachTau (tauOf p (sumW kept)) 0 (sortCands wAbove n kept))
    (pick (u * sumW kept / 2 ^ 64) 0 kept).getD 0

/-- The lower of two failures. -/
def lowerFail (a b : Option (Cause × Nat)) : Option (Cause × Nat) :=
  match a, b with
  | some x, some y => if y.2 < x.2 then some y else some x
  | some x, none => some x
  | none, y => y

/-- The lowest uncorrectable word among those VSAMPLE reads, with its memory, offset and address. -/
def Core.sampleBad (k : Core) (act : Nat → Bool) (a b n : Nat) : Option (Nat × Nat × Nat) :=
  let cand := (b, 32) :: (List.range n).filterMap (fun i => if act i then some (a + 4 * i, 4) else none)
  let hits := cand.filterMap (fun p => (k.badWord p.1 p.2).map (fun w =>
    (p.1, w, (if placeOf p.1 = Place.spad then spadBase else 0) + w)))
  match hits with
  | [] => none
  | h :: hs => some (hs.foldl (fun m x => if x.2.2 < m.2.2 then x else m) h)

/-- VSAMPLE. DESIGN CHOICE: with both gA and gB misaligned, TRV names gA; and logits and parameter block may lie in different regions or memories, each
checked by itself (R363). -/
def Core.vsample (k : Core) (lc : Nat) (f : VFields) : Core × Ending :=
  let n := k.vl.toNat
  if f.fn.toNat != 0x10 || !maskFieldOk f || k.ewBits != 32 || n % 256 != 0 || !k.maskLenOk f.m then illegal k
  else if n == 0 then ((k.setReg f.vd 0xFFFFFFFF#64).setCur none, .retire 0#10)
  else
    let k := k.drain
    let a := k.reg f.va
    let b := k.reg f.vb
    let act := { k with vcur := 0#18 }.isActive f n
    if a.toNat % 4 != 0 then (k, .trap .align a)
    else if b.toNat % 8 != 0 then (k, .trap .align b)
    else match lowerFail (k.blockFail [(a.toNat, 4 * n)]) (k.blockFail [(b.toNat, 32)]) with
      | some (c, x) => (k, .trap c (BitVec.ofNat 64 x))
      | none =>
        let bs := k.load b.toNat 32
        match samplingFail bs, k.sampleBad act a.toNat b.toNat n with
        | some o, _ => (k, .trap .illegal (b + BitVec.ofNat 64 o))
        | none, some (at_, w, x) => (k, .memerr (memKindAt at_) w (BitVec.ofNat 64 x))
        | none, none =>
          let p := samplingOf bs
          let xs := unpackBytes 4 n (k.load a.toNat (4 * n))
          let row := List.zipWith (fun i x => (act i, x)) (List.range n) xs
          let nv := flagIf (row.any (fun r => r.1 && (fp32.decode r.2).isSig)) fNV
          let cs := candidates p 0 row
          let k := k.setCur none
          if cs.isEmpty then (k.setReg f.vd 0xFFFFFFFF#64, .retire (nv ||| fEMPTY))
          else (k.setReg f.vd (BitVec.ofNat 64 (chooseToken p (k.draw64 lc 4 p.draw) cs)), .retire nv)

/-! ## VPREFIX (R369, R370) -/

/-- The first index from `i` that is inactive or differs. -/
def firstDiff (act : Nat → Bool) : Nat → List Nat → List Nat → Nat
  | i, a :: as, b :: bs => if act i && a == b then firstDiff act (i + 1) as bs else i
  | i, _, _ => i

def Core.vprefix (k : Core) (f : VFields) : Core × Ending :=
  if f.fn.toNat != 0x11 || !maskFieldOk f || k.ewBits != 32 || !k.maskLenOk f.m || !k.operandOk f.va 32 ||
      !k.operandOk f.vb 32 then illegal k
  else
    let n := k.vl.toNat
    let act := { k with vcur := 0#18 }.isActive f n
    let i := firstDiff act 0 (k.vget f.va 32 n) (k.vget f.vb 32 n)
    ((k.setReg f.vd (BitVec.ofNat 64 i)).setCur none, .retire 0#10)

/-! ## The commands -/

def execVrsum (c : CoreId) (f : VFields) (s : State) : Res := .next (s.vecInstr c (fun k => k.reduce .sum f))
def execVrssq (c : CoreId) (f : VFields) (s : State) : Res := .next (s.vecInstr c (fun k => k.reduce .ssq f))
def execVrmax (c : CoreId) (f : VFields) (s : State) : Res := .next (s.vecInstr c (fun k => k.reduce .max f))
def execVrmin (c : CoreId) (f : VFields) (s : State) : Res := .next (s.vecInstr c (fun k => k.reduce .min f))
def execVrargmax (c : CoreId) (f : VFields) (s : State) : Res := .next (s.vecInstr c (fun k => k.reduce .argmax f))
def execVmeanvar (c : CoreId) (f : VFields) (s : State) : Res := .next (s.vecInstr c (fun k => k.reduce .meanvar f))
def execVsoftmax (c : CoreId) (f : VFields) (s : State) : Res := .next (s.vecInstr c (fun k _ => k.vsoftmax f))
def execVsample (c : CoreId) (f : VFields) (s : State) : Res := .next (s.vecInstr c (fun k _ => k.vsample c.val f))
def execVprefix (c : CoreId) (f : VFields) (s : State) : Res := .next (s.vecInstr c (fun k _ => k.vprefix f))

end Sys2Proof.Machine
end

