-- ==== Sys2Proof/Machine/Runs.lean ====
section
/-! DEFINITION. Runs of cores: RUN and its end (15:R638 to R644), asynchronous interrupts (09:R374, R393 to R397), core resets and
their decision (09:R388 to R392, R406), replay (14:R605 to R608) and failover (18:R747 to R751). -/

namespace Sys2Proof.Machine

/-! ## RUN (15:R638 to R641) -/

/-- A core as its first Kernel instruction finds it (R638, R639). CYCLE, STL_ISSUE and INSTRET hold what the resident code spent, which the spec does
not give; DESIGN CHOICE: it passes no sync point, so that STL_SYNC is 0. -/
def Core.begin_ (k : Core) (entry : BitVec 20) (spint : BitVec 16) (w1 w2 : Word) : Core :=
  { k.resetRegs with
    tlvl := ⟨false, true, 1#2, .kernel⟩
    banks := #v[TrapBank.reset 0#9, TrapBank.reset 0x1E2#9, TrapBank.reset 0x1E1#9]
    spK := 0x3EC00#64
    spR := 0x3F800#64
    spF := 0x3FC00#64
    pc := entry
    cycle := Config.resident 0
    stlIssue := Config.resident 1
    instret := Config.resident 2
    seed := #v[w1.setWidth 32, (w1 >>> 32).setWidth 32, w2.setWidth 32, (w2 >>> 32).setWidth 32]
    spint := spint
    spintFrom := 0#64
    spintDone := false
    active := true
    held := false
    resetReq := none
    decided := none
    resets := 0
    elogD := []
    elogS := []
    replayD := []
    replayS := []
    foreign := [] }

/-- A core starts, and its safe-point state at the start of the RUN is its first checkpoint (14:R600). -/
def State.startCore (s : State) (x : Context) (w1 w2 : Word) (c : CoreId) : State :=
  let s := (s.updCore c (fun k => k.begin_ x.entry (x.spintUs.setWidth 16) w1 w2)).gate c false
  let q := s.takeCkpt c
  s.updCore c (fun k => { k with ckpt := some q, ckptSlot := false })

/-- The channels of a loadable at the start of a RUN: counts at 0, descriptors queued before left out of them (11:R459),
stream-prefetch mode (11:R491). -/
def State.freshChans (s : State) (x : Context) : State :=
  x.chans.foldl (fun s ch => s.updChan ch (fun k =>
    { k with ticket := 0#32, done := 0#32, errs := 0#32, prefetch := true, asked := [],
             queue := k.queue.map (fun d => { d with old := true }) })) s

/-- The replay set of a core put back, with its marks. -/
def Core.putReplay (k : Core) (spans : List Span) (q : Checkpoint) : Core :=
  let inside (a : Nat) : Bool := spans.any (fun g => g.base ≤ a && a < g.base + g.size)
  { k with
    spad := q.replaySet.foldl (fun (m : Mem) e => m.put e.1 [e.2]) (k.spad.filter (fun e => !inside e.1))
    badSpad := q.badSpad.foldl addMark (k.badSpad.filter (fun w => !inside w)) }

/-- The registers, DMEM and replay set of a checkpoint put back, banks empty (14:R605). -/
def Core.restore (k : Core) (spans : List Span) (q : Checkpoint) : Core :=
  { (k.resetRegs.putReplay spans q) with
    pc := q.pc, gregs := q.gregs, spK := q.spK, spR := q.spR, spF := q.spF, banks := q.banks, tlvl := q.tlvl,
    fflags := q.fflags, fmode := q.fmode, vl := q.vl, ew := q.ew, grp := q.grp, vcur := q.vcur, asc := q.asc, seed := q.seed,
    spint := q.spint, vregs := q.vregs, masks := q.masks, slots := q.slots, mxcfg := q.mxcfg, epi := q.epi, dmem := q.dmem,
    badDmem := q.badDmem, cycle := q.cycle, stlIssue := q.stlIssue, stlSync := q.stlSync, instret := q.instret,
    spintFrom := q.since, spintDone := false, halted := false, active := true, decided := none, resetReq := none }

/-- The spans that a context declares as a core's replay set. -/
def State.spansOf (s : State) (c : CoreId) : List Span := ((s.ctxOf c).map (fun x => x.replaySpans c)).getD []

/-- A core of a paused RUN resumes at its checkpoint (R641). -/
def State.resumeCore (s : State) (c : CoreId) : State :=
  match (s.core c).ckpt with
  | none => s
  | some q => (s.updCore c (fun k => { k.restore (s.spansOf c) q with held := false })).gate c false

/-- Whether RUN starts, resumes or is refused, with its reason (R629, R638, R641). -/
def runReason (x : Option Context) (e : CmdEntry) : Nat :=
  match x with
  | none => 3
  | some x =>
    let mask : BitVec 32 := BitVec.ofNat 32 (CmdCount e)
    match x.st with
    | .running => 3
    | .loaded => if CmdFlag1 e then 3 else if mask &&& ~~~x.mask != 0#32 then 0x0B else 0
    | .paused =>
      if CmdFlag1 e then (if x.pausedRun.all (fun r => r.cores != mask) then 0x0B else 0)
      else if mask &&& ~~~x.mask != 0#32 then 0x0B else 0

/-- RUN. -/
def State.runCmd (s : State) (q : QueueId) : State :=
  match s.working q 2 with
  | none => s
  | some f =>
    if f.started then s
    else
      let r := runReason (s.cmdCtx q) f.entry
      if r != 0 then s.refuse q r
      else match s.cmdCtx q with
        | none => s
        | some x =>
          if !s.dataPlane then s
          else
            let mask : BitVec 32 := BitVec.ofNat 32 (CmdCount f.entry)
            let s := s.awake.begin_ q
            let s := { s with boot := { s.boot with runSeen := true } }
            if CmdFlag1 f.entry then
              let exits := (x.pausedRun.map PausedRec.exits).getD []
              let s := s.updCtx x.pasid (fun x => { x with st := .running, run := some ⟨some q, f.seq, mask, exits⟩, pausedRun := none })
              let s := x.chans.foldl (fun s ch => s.updChan ch (fun k => { k with prefetch := true })) s
              (coresOf mask).foldl (fun s c => if exits.any (fun e => e.1 == c) then s else s.resumeCore c) s
            else
              let s := s.updCtx x.pasid (fun x => { x with st := .running, run := some ⟨some q, f.seq, mask, []⟩, pausedRun := none })
              (coresOf mask).foldl (fun s c => s.startCore x f.entry.w1 f.entry.w2 c) (s.freshChans x)

def execRun (q : QueueId) (s : State) : Res := .next (s.runCmd q)

/-! ## The end of a RUN (R642) -/

/-- The SIGPOSTs of a core that have not taken effect do so in order while they may. -/
def State.flushPosts (s : State) (c : CoreId) : State :=
  (s.core c).posts.foldl (fun s _ => s.sigpostEffect c) s

/-- The exit value of RESULT2: that of the lowest-numbered core whose exit value is not 0. -/
def RunRec.exit (r : RunRec) : Word :=
  ((coresOf r.cores).findSome? (fun c => (r.exits.find? (fun e => e.1 == c && e.2 != 0#64)).map Prod.snd)).getD 0#64

/-- Every core of the RUN has ended, and every descriptor that those cores queued has completed. -/
def State.runOver (s : State) (r : RunRec) : Bool :=
  (coresOf r.cores).all (fun c => r.exits.any (fun e => e.1 == c) && (s.ownDescs c).isEmpty)

/-- The RUN of a context ends with a status: its command is done and the context leaves RUNNING. -/
def State.endRun (s : State) (p : Pasid) (r : RunRec) (status result : Nat) (r2 : Word) (st : CtxState) : State :=
  let s := match r.queue with
    | some q => s.finish q (statusWord status 0 0 result) r2
    | none => s
  s.updCtx p (fun x => { x with st := st, run := none })

/-- RUN_COMPLETE: the RUN of the context of a queue, started from that queue or brought by an evacuation. -/
def State.runComplete (s : State) (q : QueueId) : State :=
  match (s.cmdCtx q).bind (fun x => x.run.map (fun r => (x, r))) with
  | none => s
  | some (x, r) =>
    if r.queue.all (fun p => p == q) && s.runOver r then
      ((coresOf r.cores).foldl State.flushPosts s).endRun x.pasid r 0 x.sigErrs.toNat r.exit .loaded
    else s

def execRunComplete (q : QueueId) (s : State) : Res := .next (s.runComplete q)

/-! ## Abort (R644) -/

/-- A core as a reset by abort leaves it: out of its RUN and clock-gated. -/
def State.stopCore (s : State) (c : CoreId) : State :=
  (s.updCore c (fun k => { k.resetRegs with halted := true, active := false, held := false, resetReq := none, decided := none })).gate
    c true

/-- The loadable of a context is aborted: its cores reset, the descriptors that its cores and DMA commands queued end (11:R498), the RUN
completes with ABORTED. Pins stay (15:R644; 11:R487 says otherwise, log 95). -/
def State.abort (s : State) (p : Pasid) : State :=
  match (s.ctx p).bind Context.run with
  | none => s
  | some r =>
    let s := s.endDescs (fun d => d.fromCtx && d.pasid == p)
    let s := (coresOf r.cores).foldl State.stopCore s
    s.endRun p r 2 0 0#64 .loaded

/-! ## Interrupts (09:R371, R393 to R397) -/

/-- R393: the core may take the interrupt. -/
def Core.mayTake (k : Core) (c : Cause) : Bool :=
  let t := k.target c
  !k.dfault && (k.level.num < t.num || (k.level == t && k.tlvl.ie))

/-- R396: the pending interrupts in their order, each with its TRV. -/
def Core.pendings (k : Core) : List (Cause × Word) :=
  (if k.pHalt then [(Cause.debugHalt, 0#64)] else []) ++
  (match k.pMemErr with | some v => [(Cause.memErrAsync, v)] | none => []) ++
  (match k.pNotice with | some v => [(Cause.notice, v.setWidth 64)] | none => []) ++
  (match k.pSpint with | some v => [(Cause.spintOver, v)] | none => [])

/-- A taken cause is no longer pending. -/
def Core.clearPending (k : Core) : Cause → Core
  | .debugHalt => { k with pHalt := false }
  | .memErrAsync => { k with pMemErr := none }
  | .notice => { k with pNotice := none }
  | .spintOver => { k with pSpint := none }
  | _ => k

/-- The interrupt that the core takes now. -/
def Core.interrupt (k : Core) : Option (Cause × Word) := k.pendings.find? (fun p => k.mayTake p.1)

/-- The elements of a strip or an element block of an instruction that may be interrupted (04:R203, R831; 05:R240). DESIGN CHOICE: a VCVT from one
6-bit format to the other, for which R831 gives no strip, has the strips of 1,024 elements too. -/
def Core.stripElems (k : Core) (r : Running) : Nat :=
  match r.op.toNat with
  | 0x35 =>
    let s := 8 * b2n r.f.m + r.f.mkr.toNat
    let d := r.f.fn.toNat / 8
    let w (n : Nat) : Nat := ((cfmtOf n).map CFmt.width).getD 8
    let m := max (w s) (w d)
    if m == 6 then 1024 else 8192 / m
  | 0x36 => if r.f.fn.toNat == 0x18 then 32 else 8192 / k.ewBits
  | 0x37 => 8192
  | 0x3D => match k.slot (slotOf r.f) with
    | some p => p.block
    | none => 128
  | _ => 8192 / k.ewBits

/-- The own effect of an instruction that may be interrupted, up to an end. -/
def Core.runPart (k : Core) (c : CoreId) (direct : Bool) (r : Running) (hi : Option Nat) : Option (Core × Ending) :=
  let f := r.f
  match r.op.toNat, f.fn.toNat with
  | 0x30, 0 => some (k.vmem .vld f hi)
  | 0x30, 1 => some (k.vmem .vlds f hi)
  | 0x30, 2 => some (k.vmem .vst f hi)
  | 0x30, 3 => some (k.vmem .vsts f hi)
  | 0x30, 4 => some (k.vmem .vgath f hi)
  | 0x30, 5 => some (k.vmem .vscat f hi)
  | 0x31, n => some (if n < 0x10 then k.vFpArith f hi else k.vFpCompare f hi)
  | 0x32, n => some (if n < 0x10 then k.vIntArith f hi else k.vIntCompare f hi)
  | 0x33, _ => some (k.vFixed f hi)
  | 0x34, 0 => some (k.vcmprs f hi)
  | 0x34, 1 => some (k.vxpand f hi)
  | 0x34, 2 => some (k.vmov f hi)
  | 0x35, _ => some (k.vcvt c.val f hi)
  | 0x36, 0 => some (k.reduce .sum f hi)
  | 0x36, 1 => some (k.reduce .ssq f hi)
  | 0x36, 2 => some (k.reduce .max f hi)
  | 0x36, 3 => some (k.reduce .min f hi)
  | 0x36, 4 => some (k.reduce .argmax f hi)
  | 0x36, 5 => some (k.reduce .meanvar f hi)
  | 0x36, 0x18 => some (k.vwadd f hi)
  | 0x37, 8 => some (k.maskScan f hi 8 mpopcOf)
  | 0x37, 9 => some (k.maskScan f hi 9 mfirstOf)
  | 0x37, n => some (if n < 4 then k.maskLogic f hi else k.maskFill f hi)
  | 0x3D, _ => some (k.arunRun c.val direct f hi)
  | _, _ => none

/-- The first element of the first strip not started, or of an ARUN's first element block not started: strips end at multiples of their
elements (04:R203), and an ARUN's first block starts at VCUR (05:R240). DESIGN CHOICE: the strips of an MPOPC or MFIRST, too, are counted from
VCUR's strip (log 196). -/
def Core.stripEnd (k : Core) (r : Running) : Nat :=
  let e := k.stripElems r
  if r.op == 0x3D#6 then k.vcur.toNat + r.started * e else (k.vcur.toNat / e + r.started) * e

/-- What stopping the youngest instruction leaves: nothing stopped; stopped, with the core after its started strips; the instruction done, all
its strips having started; or a trap of its own, which comes first (04:R205, R207, 09:R396). -/
inductive Stopped where
  | none
  | at_ (k : Core)
  | done (k : Core) (e : Ending)
  | first (k : Core) (e : Ending)

/-- The youngest instruction is stopped at a strip boundary (R394). -/
def Core.stopRunning (k : Core) (c : CoreId) (direct : Bool) : Option Running → Stopped
  | none => .none
  | some r =>
    let hi := k.stripEnd r
    let all := k.vl.toNat ≤ hi
    if r.started == 0 || k.arun.isSome || k.pamWaits || (k.fetchCheck 4).isSome then .none
    else match k.runPart c direct r (if all then none else some hi) with
      | none => .none
      | some (_, .wait _) => .none
      | some (k', .retire fl) => if all then .done k' (.retire fl) else .at_ (k'.partDone k.vcur fl)
      | some (k', e) => .first k' e

/-- The core enters the interrupt that it takes now, if there is one. -/
def Core.takePending (k : Core) : Core :=
  match k.interrupt with
  | none => k
  | some (cause, v) => (k.clearPending cause).enter cause v k.pcWord

/-- An interrupt is taken, with the youngest instruction stopped when it may be. -/
def State.takeInterrupt (s : State) (c : CoreId) (running : Option Running) : State :=
  let k := s.core c
  if !s.issues c then s
  else match k.interrupt with
    | none => s
    | some (cause, v) =>
      match k.stopRunning c (s.direct c) running with
      | .none => s.ownChange c Core.takePending
      | .at_ k' => s.ownChange c (fun _ => (k'.clearPending cause).enter cause v k.pcWord)
      | .done k' e =>
        let (k', e) := k.continued (k', e)
        ((s.setCore c k').endInstr c k 4 e).ownChange c Core.takePending
      | .first k' e => (s.setCore c k').endInstr c k 4 e

def execInterruptTaken (c : CoreId) (running : Option Running) (s : State) : Res := .next (s.takeInterrupt c running)

/-- SPINT_OVER becomes pending (R374): once for each interval, with the cycles since its start. -/
def State.spintOver (s : State) (c : CoreId) : State :=
  let k := s.core c
  let n := k.cycle.toNat - k.spintFrom.toNat
  if !s.issues c || k.spint == 0#16 || n ≤ k.spint.toNat * 2048 || k.spintDone || k.dfault then s
  else s.setCore c { k with spintDone := true, pSpint := match k.pSpint with
                                                         | some v => some v
                                                         | none => some (natW n) }

def execSpintOver (c : CoreId) (s : State) : Res := .next (s.spintOver c)

/-! ## Core resets and their decision (09:R388 to R392, R406; 14:R608) -/

/-- An internal self-check fails: the core stops, and its reset is to be decided (R388, R390). -/
def State.selfCheck (s : State) (c : CoreId) : State :=
  if !s.runs || s.gated.getLsbD c.val then s
  else s.updCore c (fun k => { k with
    halted := true
    resetReq := some { hw := true, df := k.dfault, nest := false, int := false, cause := 0xFF#8, pc := k.pc } })

def execSelfCheckFailure (c : CoreId) (s : State) : Res := .next (s.selfCheck c)

/-- What asks for the reset of a core: a pending request, or the handler of a MEMERR or MEMERR_ASYNC (R392). -/
def Core.resetAsked (k : Core) : Option ResetReq :=
  match k.resetReq with
  | some r => some r
  | none =>
    let b := k.bank k.level
    let cause := b.trc.toNat % 256
    if k.active && !k.dfault && k.level != .kernel && (cause == 0x06 || cause == 0x40) then
      some { hw := true, df := false, nest := false, int := cause == 0x40, cause := BitVec.ofNat 8 cause, pc := b.trpc.setWidth 20 }
    else none

/-- R608: the two conditions of a replay. -/
def State.replayable (s : State) (c : CoreId) : Bool :=
  let k := s.core c
  (k.elogD ++ k.replayD).all (fun l => !k.foreign.contains l.ch && !((s.chan l.ch).queue.any (fun d => d.queue.isSome && !d.old)))

/-- The reset asks for a spare core and the die has none left (R391; 18:R758). -/
def State.lacksSpare (s : State) (c : CoreId) (r : ResetReq) : Bool :=
  let n := (s.core c).resets + 1
  r.hw && n < 3 && s.replayable c && !(r.cause != 0xFF#8 && n == 1) && (s.rep.spareCores (dieOf c)).isEmpty

/-- A failure has found no spare core: a logical core is lost (18:R758). -/
def State.loseCore (s : State) : State := ({ s with rep := { s.rep with coreLost := true } }).recompute

/-- The decisions of R391. -/
inductive Decision where
  | same | spare | abort
  deriving DecidableEq, Repr

/-- R391, with R608 and the spares left on the die. -/
def State.decide_ (s : State) (c : CoreId) (r : ResetReq) : Decision :=
  let n := (s.core c).resets + 1
  if !r.hw || 3 ≤ n || !s.replayable c then .abort
  else if r.cause != 0xFF#8 && n == 1 then .same
  else if (s.rep.spareCores (dieOf c)).isEmpty then .abort
  else .spare

def Decision.res : Decision → Nat
  | .same => 0
  | .spare => 1
  | .abort => 2

/-- The core is reset: its descriptors end, and it stays in reset until the decision is carried out. -/
def State.applyReset (s : State) (c : CoreId) : State :=
  (s.endDescs (fun d => d.core == some c)).updCore c (fun k =>
    { k.resetRegs with halted := true, resetReq := none, resets := k.resets + 1 })

/-- The context whose RUN in progress has the core, which has not ended. -/
def State.runOf (s : State) (c : CoreId) : Option Context :=
  (s.ctxOf c).filter (fun x => x.run.any (fun r => r.cores.getLsbD c.val && !(r.exits.any (fun e => e.1 == c))))

/-- A core reset is journalled and decided. -/
def State.coreReset (s : State) (c : CoreId) : State :=
  match (s.core c).resetAsked with
  | none => s
  | some r =>
    match s.runOf c with
    | none =>
      (s.trapEntry c (trapSummary 3 r.hw r.df r.nest r.int c r.cause r.pc)).applyReset c
    | some x =>
      let d := s.decide_ c r
      let lost := s.lacksSpare c r
      let seq := s.journal.tail
      let s := (s.trapEntry c (trapSummary d.res r.hw r.df r.nest r.int c r.cause r.pc)).applyReset c
      match d with
      | .abort => (if lost then s.loseCore else s).abort x.pasid
      | .same => s.updCore c (fun k => { k with decided := some (false, seq) })
      | .spare => s.updCore c (fun k => { k with decided := some (true, seq) })

def execCoreReset (c : CoreId) (s : State) : Res := .next (s.coreReset c)

/-! ## Replay (14:R605 to R607) -/

/-- The channel counts of the checkpoint, for the channels that the core queued on since; the descriptors that R498 ended are
left out of them, and stream-prefetch mode begins. -/
def State.restoreChans (s : State) (c : CoreId) (q : Checkpoint) : State :=
  let used := ((s.core c).elogD ++ (s.core c).replayD).map LogD.ch
  q.chans.foldl (fun s n =>
    s.updChan n.ch (fun x =>
      let x := { x with prefetch := true }
      if used.contains n.ch then
        { x with ticket := n.ticket, done := n.done, errs := n.errs,
                 queue := x.queue.map (fun d => { d with old := d.old || d.core == some c }) }
      else x)) s

/-- The core replays from its current checkpoint, with its effect log before it. -/
def State.replayCore (s : State) (c : CoreId) : State :=
  match (s.core c).ckpt with
  | none => s
  | some q =>
    let spans := s.spansOf c
    let s := s.restoreChans c q
    let s := s.updCore c (fun k =>
      { k.restore spans q with elogD := [], elogS := [], replayD := k.elogD ++ k.replayD, replayS := k.elogS ++ k.replayS })
    let s := s.gate c false
    let p := s.pasidOf c
    -- a SAVE or EVACUATE goes on waiting, its NOTICE raised again (15:R645) and its deadline counted anew (18:R751)
    let waits (f : Flight) : Bool := f.started && f.done.isNone && (CmdOpc f.entry == 5 || CmdOpc f.entry == 7)
    let t := s.xtal
    let code (x : Queue) : Option (BitVec 8) :=
      if x.pasid == p then (x.cur.filter waits).map (fun f => if CmdOpc f.entry == 5 then 1#8 else 2#8) else none
    let s := match s.queues.toList.findSome? code with
      | some n => s.updCore c (·.raiseNotice n)
      | none => s
    { s with queues := s.queues.map (fun (x : Queue) => if x.pasid == p then
        { x with cur := x.cur.map (fun f => if waits f then { f with since := t } else f) } else x) }

def execReplay (c : CoreId) (s : State) : Res :=
  .next (if s.dataPlane && (s.core c).decided.any (fun d => !d.1) then s.awake.replayCore c else s)

/-! ## Failover (18:R747 to R750) -/

/-- Another core of the same die waits for a spare with an earlier TRAP entry. -/
def State.spareTaken (s : State) (c : CoreId) (seq : Word) : Bool :=
  (List.range 32).any (fun i =>
    let d : CoreId := Fin.ofNat 32 i
    d != c && dieOf d == dieOf c && (s.core d).decided.any (fun x => x.1 && x.2.toNat < seq.toNat))

/-- The core map with a logical core on another physical core, and the failed one retired. -/
def Repair.move (r : Repair) (c : CoreId) (spare : Nat) : Repair :=
  let old := (r.map[c]).pcore
  let d := dieOf c
  { r with map := r.map.set c ⟨true, BitVec.ofNat 5 spare⟩
           retired := r.retired.set d (r.retired[d] ||| BitVec.ofNat 18 (2 ^ old.toNat))
           rowsSpared := r.rowsSpared.set c []
           movedMarks := r.movedMarks.set c []
           patrolS := r.patrolS.set c Patrol.reset }

/-- The failed core's memories stay on it when the logical core has moved to another (18:R748). -/
def State.leaveCore (s : State) (c : CoreId) : State :=
  let k := s.core c
  { s with left := s.left ++ [⟨c, (s.rep.map[c]).pcore, k.imem, k.dmem, k.spad⟩] }

/-- The device wipes the memories that failed cores left (R748, the last step). -/
def State.wipeLeft (s : State) : State := { s with left := [] }

/-- A logical core moves to a spare and replays; with none left its loadable is aborted. -/
def State.failover (s : State) (c : CoreId) : State :=
  match (s.core c).decided with
  | some (true, seq) =>
    if s.spareTaken c seq then s
    else match (s.rep.spareCores (dieOf c)).head? with
      | none =>
        let old := ((s.journal.entries.find? (fun e => e.seq == seq)).map JEntry.status).getD 0#64
        ((s.trapEntry c (old &&& 0x3FFFFFFFFFFFFFFF#64 ||| 0x8000000000000000#64)).loseCore).abort (s.pasidOf c)
      | some p =>
        let rep := s.rep.move c p
        let byte := fields [(7, 1, (dieOf c).val), (6, 1, 1), (0, 5, p)]
        let n := s.journal.tail
        let s := s.devEntry 0x11#5 (wordOf [(8, 8, byte), (0, 5, c.val)]) (s.pasidOf c) ((seq.toNat : Int) - n.toNat)
        let s := ({ s.leaveCore c with rep := rep }).event 8 [n]
        s.recompute.replayCore c
  | _ => s

def execFailover (c : CoreId) (s : State) : Res := .next (if s.dataPlane then s.awake.failover c else s)

end Sys2Proof.Machine
end

