-- ==== Sys2Proof/Machine/Moves.lean ====
section
/-! DEFINITION. Contexts that stop, move and end: SAVE and RESTORE (14:R610, R611; 15:R645, R648 to R650; 19:R775, R780), EVACUATE
(15:R651; 18:R752 to R757; 19:R781), ZEROIZE (15:R652; 19:R782 to R785), and the completion of commands (15:R623, R660). -/

namespace Sys2Proof.Machine

/-! ## Stopping the cores of a context -/

/-- The cores of a RUN in progress that have not ended. -/
def Context.live (x : Context) : List CoreId := match x.run with
  | some r => (coresOf r.cores).filter (fun c => !(r.exits.any (fun e => e.1 == c)))
  | none => []

/-- Those that have not stopped at a safe point. -/
def State.waiting (s : State) (x : Context) : List CoreId := x.live.filter (fun c => !(s.core c).held)

/-- NOTICE is raised on each core that is waited for (R645). -/
def State.raiseNotices (s : State) (x : Context) (code : BitVec 8) : State :=
  (s.waiting x).foldl (fun s c => s.updCore c (·.raiseNotice code)) s

/-- A stopped core goes on; one that EVACUATE reset replays (18:R755). -/
def State.goOn (s : State) (c : CoreId) : State :=
  if !(s.core c).held then s
  else
    let s := s.updCore c (fun k => { k with held := false })
    if (s.core c).halted then s.replayCore c else s

/-- Every stopped core of a context resumes. -/
def State.resumeStopped (s : State) (x : Context) : State :=
  (x.live.foldl State.goOn s).updCtx x.pasid (fun x => { x with quiet := false })

/-- A core whose context leaves it: out of its RUN and clock-gated. -/
def State.parkCore (s : State) (c : CoreId) : State :=
  (s.updCore c (fun k => { k with active := false, held := false })).gate c true

/-- An earlier SAVE, RESTORE or EVACUATE of the context is in flight. -/
def State.moving (s : State) (q : QueueId) (seq : Word) : Bool :=
  s.queues.any (fun x => match x.cur with
    | some f => x.pasid == (s.queue q).pasid && f.done.isNone && f.seq.toNat < seq.toNat &&
        (CmdOpc f.entry == 5 || CmdOpc f.entry == 6 || CmdOpc f.entry == 7)
    | none => false)

/-- Why a SAVE or EVACUATE is refused that finds no admitted context: a RESTORE has moved it out of NONE and is in flight (R626, R630), or it is in a
state that does not allow the command. -/
def State.absentReason (s : State) (q : QueueId) (seq : Word) : Nat := if s.moving q seq then 7 else 3

/-! ## What a context holds, as it is saved or moved (14:R610, 18:R754) -/

/-- An HBM address in a declared region. -/
def Context.inHbm (x : Context) (a : Nat) : Bool := x.hbm.any (fun g => g.base ≤ a && a < g.base + g.size)

/-- The lines of the shared caches that lie in the regions of a context. -/
def State.linesOf (s : State) (x : Context) : List (Nat × List Byte) :=
  s.caches.toList.flatMap (fun c => (c.lines.map (fun l => (lineAddr l.set_ l.tag, l.data))).filter (fun p => x.inHbm p.1))

/-- The granules of its HBM regions that a context has written, or that a cache holds. -/
def State.granulesOf (s : State) (x : Context) : List Nat :=
  let gs := (s.hbmKeys.filter (fun p => p.2 == x.hbmKey && x.inHbm (p.1 * 256))).map Prod.fst
  (s.linesOf x).foldl (fun gs l => addMark gs (l.1 / 256)) gs

/-- Granules read by line requests of class 7 (10:R424, R428), in rising order; one that cannot be read gives free bytes (log 161). -/
def State.readGranules (s : State) : List Nat → State × Mem
  | [] => (s, [])
  | g :: gs =>
    let (s, r) := s.lineRead 7#3 (g * 256) 256 false
    let (s, n) := if r.status == stOk then (s, 0) else s.draw
    let bs := if r.status == stOk then r.bytes else (List.range 256).map (Config.freeByte n)
    let (s, m) := State.readGranules s gs
    (s, m.put (g * 256) bs)

/-- A core's memory as the device's own transfers read it: no byte of a marked word is delivered (10:R420), and free bytes stand in its place
(log 161). -/
def State.readOut (s : State) (m : MemKind) (c : CoreId) (mem : Mem) : List Nat → State × Mem
  | [] => (s, mem)
  | w :: ws =>
    let (s, n) := (s.noteRead c m w).draw
    s.readOut m c (mem.put w ((List.range 8).map (Config.freeByte n))) ws

/-- A scratchpad address in a region of a core. -/
def Context.inSpad (x : Context) (c : CoreId) (a : Nat) : Bool :=
  (x.regionsOf c).any (fun g => g.base * 4096 ≤ a && a < (g.base + g.size) * 4096)

/-- A core as it is saved: whole scratchpad for an evacuation. -/
def State.savedCore (s : State) (x : Context) (whole : Bool) (resume : List CoreId) (c : CoreId) : State × SavedCore :=
  let k := s.core c
  let go := resume.contains c
  let saved (a : Nat) : Bool := whole || x.inSpad c a
  let (s, imem) := s.readOut .imem c (k.imem.filter (fun e => e.1 < 0xF0000)) (k.badImem.filter (fun w => w < 0xF0000))
  let (s, dmem) := s.readOut .dmem c k.dmem k.badDmem
  let (s, spad) := s.readOut .scratchpad c (k.spad.filter (fun e => saved e.1)) (k.badSpad.filter saved)
  let v : SavedCore := { core := c, ckpt := if go then k.ckpt else none, logD := if go && k.halted then k.elogD else [],
                         logS := if go && k.halted then k.elogS else [], imem := imem, dmem := dmem, spad := spad }
  (s, v)

def State.savedCores (s : State) (x : Context) (whole : Bool) (resume : List CoreId) : List CoreId → State × List SavedCore
  | [] => (s, [])
  | c :: cs =>
    let (s, v) := s.savedCore x whole resume c
    let (s, vs) := State.savedCores s x whole resume cs
    (s, v :: vs)

/-- The core mask and exit values of the RUN in progress or paused. -/
def Context.runState (x : Context) : Option (BitVec 32) × List (CoreId × Word) :=
  match x.run, x.pausedRun with
  | some r, _ => (some r.cores, r.exits)
  | none, some r => (some r.cores, r.exits)
  | none, none => (none, [])

/-- The cores that are to resume. -/
def Context.resumes (x : Context) : List CoreId :=
  ((x.runState.1.map coresOf).getD []).filter (fun c => !(x.runState.2.any (fun e => e.1 == c)))

/-- A context's content, read by the device's own transfers. -/
def State.transferOf (s : State) (x : Context) (seq : Word) (evac keyed : Bool) : State × Transfer :=
  let gs := s.granulesOf x
  let (s, hbm) := s.readGranules gs
  let (s, cores) := s.savedCores x evac x.resumes (coresOf x.mask)
  let t : Transfer := { pasid := x.pasid, source := s.deviceId, srcSeq := seq, lo := x.lo, counters := x.counters, running := x.st == .running,
                        run := x.runState.1, exits := x.runState.2,
                        secret := if evac then (s.sec.secrets.find? (fun k => k.1 == x.pasid)).map Prod.snd else none, keyed := keyed,
                        cores := cores, granules := gs, hbm := hbm,
                        streams := if evac then s.fab.receivers.filter (fun r => x.ins.any (fun i => i.win == r.win)) else [] }
  (s, t)

/-- The bytes of a save image: it holds a checkpoint for each core that is to resume. -/
def State.saveBytes (s : State) (x : Context) : Nat :=
  let cs := coresOf x.mask
  let n := (cs.filter (fun c => x.resumes.contains c && (s.core c).ckpt.isSome)).length
  (Config.saveSize n (cs.length - n) (((x.lo.table.filter (fun r => r.type == 3#8)).map (fun r => r.b.toNat * 4096)).foldl (· + ·) 0)
    (((x.lo.table.filter (fun r => r.type == 4#8)).map (fun r => r.c.toNat)).foldl (· + ·) 0) x.lo.table.length).toNat

/-! ## SAVE (15:R648, R649) -/

/-- The RUN of a context is paused by SAVE: its command completes with PAUSED. -/
def State.pauseRun (s : State) (x : Context) : State :=
  match x.run with
  | none => s
  | some r =>
    let s := (coresOf r.cores).foldl State.parkCore s
    (s.endRun x.pasid r 3 0 0#64 .paused).updCtx x.pasid (fun x => { x with pausedRun := some ⟨r.cores, r.exits⟩ })

/-- The header of a save image of `n` bytes (19:R780), with its nonce drawn from the random source; the places of the nonce and of the body length
in it are the model's (log 180). -/
def saveHeader (keyed : Bool) (draw n : Nat) : List Byte :=
  leBytes 4 0x56534B57 ++ leBytes 2 1 ++ leBytes 2 (b2n keyed) ++ leBytes 12 (Config.random draw) ++ leBytes 8 (n - 80) ++ List.replicate 36 0#8

/-- A SAVE whose cores have all stopped writes its image; `reach`: its buffer can be reached (R621). -/
def State.saveEnd (s : State) (q : QueueId) (reach : Bool) : State :=
  match s.working q 5, s.cmdCtx q with
  | none, _ => s
  | some _, none => s.refuse q 3
  | some f, some x =>
    if x.st == .loaded then s.refuse q 3
    else if !(s.waiting x).isEmpty || !s.hostOpen then s
    else if !reach then (s.resumeStopped x).unreached q f.entry.w1 true
    else
      let n := s.saveBytes x
      let (s, t) := s.transferOf x f.seq false f.keyed
      let s := (needsOf f.entry.w1.toNat n true false).foldl (fun s m => (s.cmdXlat x.pasid m.va true).1) s
      let (s, d) := s.drawKey
      ((s.emit (.saveImage x.pasid f.entry.w1.toNat n (saveHeader f.keyed d n) t)).pauseRun x).finish q 0#64 (natW n)

def State.saveCmd (s : State) (q : QueueId) (reach : Bool) : State :=
  match s.working q 5 with
  | none => s
  | some f =>
    if f.started then s.saveEnd q reach
    else match s.cmdCtx q with
      | none => s.refuse q (s.absentReason q f.seq)
      | some x =>
        if x.st == .loaded then s.refuse q 3
        else if s.moving q f.seq then s.refuse q 7
        else if f.entry.w1.toNat % 4096 != 0 then s.refuse q 0x0B
        else
          let n := s.saveBytes x
          if f.entry.w2.toNat < n then s.refuseWith q (statusWord 1 5 0x0D 0) (natW n)
          else if !s.dataPlane then s
          else
            let s := s.awake.begin_ q
            let t := s.xtal
            let keyed := s.sec.secrets.any (fun k => k.1 == x.pasid)
            let s := s.updFlight q (fun f => { f with since := t, keyed := keyed })
            (s.raiseNotices x 1#8).saveEnd q reach

def execSave (q : QueueId) (reach : Bool) (s : State) : Res := .next (s.saveCmd q reach)

/-- The time that a SAVE or EVACUATE allows its cores: 4 × SPINT_US µs. -/
def Context.deadline (x : Context) (f : Flight) : Nat := f.since + 4000 * x.spintUs.toNat

/-- A core that is waited for is to be replayed: the deadline counts from the start of its replay (18:R751). -/
def State.deciding (s : State) (x : Context) : Bool := (s.waiting x).any (fun c => (s.core c).decided.isSome)

/-- SAVE_TIMEOUT (R649). -/
def State.saveTimeout (s : State) (q : QueueId) : State :=
  match s.working q 5, s.cmdCtx q with
  | some f, some x =>
    if f.started && !(s.waiting x).isEmpty && x.deadline f ≤ s.xtal && !s.deciding x then
      (s.resumeStopped x).finish q (statusWord 8 0 0 0) 0#64
    else s
  | _, _ => s

def execSaveTimeout (q : QueueId) (s : State) : Res := .next (s.saveTimeout q)

/-! ## Restoring (15:R650, 18:R754) -/

/-- The memories and the safe-point state of a core as they were saved. -/
def State.restoreCore (s : State) (x : Context) (whole : Bool) (v : SavedCore) : State :=
  s.updCore v.core (fun k =>
    let inside (a : Nat) : Bool := whole || (x.regionsOf v.core).any (fun g => g.base * 4096 ≤ a && a < (g.base + g.size) * 4096)
    { k.resetRegs with
      imem := v.imem.put 0xF0000 Config.residentCode.toList
      badImem := []
      torn := []
      dmem := v.dmem
      badDmem := []
      spad := v.spad.foldl (fun (m : Mem) e => m.put e.1 [e.2]) (k.spad.filter (fun e => !inside e.1))
      badSpad := k.badSpad.filter (fun w => !inside w)
      ckpt := v.ckpt
      ckptNew := none
      elogD := v.logD
      elogS := v.logS
      replayD := []
      replayS := []
      foreign := []
      active := false
      held := false
      decided := none
      resetReq := none
      resets := 0 })

/-- The channel counts of the checkpoints: of several that name one channel, the one with the most tickets. -/
def State.restoreCounts (s : State) (q : Checkpoint) : State :=
  q.chans.foldl (fun s n => s.updChan n.ch (fun x =>
    if x.ticket.toNat ≤ n.ticket.toNat then { x with ticket := n.ticket, done := n.done, errs := n.errs } else x)) s

/-- The context and everything it carries, from a transfer, in a state. -/
def State.restoreCtx (s : State) (x : Context) (pins : List TlbEntry) (t : Transfer) (whole : Bool) : State :=
  let s := s.assign x pins t.lo.clusters
  let s := t.cores.foldl (fun s v => s.restoreCore x whole v) s
  let s := (t.cores.filterMap SavedCore.ckpt).foldl State.restoreCounts s
  t.granules.foldl (fun s g => (s.lineWrite 7#3 (g * 256) (t.hbm.getN (g * 256) 256)).1) s

/-- RESTORE. `size`: the image's size by its header; `authentic`: its tag verifies under the key that its KSRC names. -/
def State.restoreCmd (s : State) (q : QueueId) (size : Nat) (authentic : Bool) (img : Option Transfer) (pages : List (List AtsReply)) : State :=
  match s.working q 6 with
  | none => s
  | some f =>
    let p := (s.queue q).pasid
    if s.admitting f.seq || !s.dataPlane || !s.hostOpen then s
    else match img with
      | none => (((s.awake).begin_ q).unreached q f.entry.w1).dropCtx p
      | some t =>
        let s := if size != CmdCount f.entry then s else s.cmdRead p f.entry.w1.toNat size
        if size != CmdCount f.entry then (s.refuse q 4).dropCtx p
        else if !authentic || (t.keyed && !s.sec.secrets.any (fun k => k.1 == p)) then (s.refuse q 9).dropCtx p
        else match s.admission p t.lo pages with
          | some (r, res) => ((if res == 12 then s.askPins t.lo p pages else s).refuse q r res).dropCtx p
          | none =>
            let pins := (s.pinSet t.lo p pages).getD []
            let s := ((s.askPins t.lo p pages).awake).begin_ q
            let (s, key) := s.drawKey
            let x := { t.lo.context p .paused key with counters := t.counters, pausedRun := t.run.map (fun m => ⟨m, t.exits⟩) }
            (s.restoreCtx x pins t false).finish q 0#64 0#64

def execRestore (q : QueueId) (size : Nat) (authentic : Bool) (img : Option Transfer) (pages : List (List AtsReply)) (s : State) : Res :=
  .next (s.restoreCmd q size authentic img pages)

/-! ## What a context holds is released (15:R637, 11:R487, 19:R773) -/

/-- A descriptor of a context that leaves (11:R457, R498): counted no more, and its record goes to no device address (R477). -/
def Desc.leave (d : Desc) : Desc :=
  { d with old := true, words := if (tileOf d.words).chost then d.words else d.words.set 6 0#64 }

/-- Windows with their streams, pins, classes, channels, regions and the journal key are released; the context is NONE. -/
def State.release (s : State) (x : Context) : State :=
  let p := x.pasid
  let s := { s with fab := { s.fab with
    receivers := s.fab.receivers.filter (fun r => !x.ins.any (fun i => i.win == r.win))
    streams := s.fab.streams.filter (fun y => y.pasid != p) } }
  let s := { s with tlbs := s.tlbs.map (fun (l : List TlbEntry) => l.map (fun (e : TlbEntry) => if e.pasid == p then { e with pinned := false } else e)) }
  let s := s.endDescs (fun d => d.pasid == p)
  let s := { s with ctxs := s.ctxs.filter (fun y => y.pasid != p) }
  let s := x.classes.foldl (fun s h =>
    if s.ctxs.any (fun y => y.classes.any (fun g => g.cls == h.cls)) then s else s.setClass h.cls ScClass.reset) s
  let s := x.chans.foldl (fun s c => s.updChan c (fun (k : Chan) =>
    { k with owner := none, queue := k.queue.map Desc.leave, asked := [], prefetch := false,
             wait := if k.wait == .remote then .none else k.wait })) s
  let s := (coresOf x.mask).foldl (fun s c => s.updCore c (fun k => { k with regions := [] })) s
  ({ s with sec := { s.sec with jkeys := s.sec.jkeys.filter (fun k => k.1 != p) } }).pruneKeys

/-- The other commands of a context in flight complete with a status. -/
def State.endCommands (s : State) (p : Pasid) (but : Option QueueId) (status : Nat) : State :=
  (List.range 64).foldl (fun s i =>
    let r : QueueId := Fin.ofNat 64 i
    if some r == but || (s.queue r).pasid != p then s
    else match s.flight r with
      | some f => if f.done.isNone then s.finish r (statusWord status 0 0 0) 0#64 else s
      | none => s) s

/-! ## EVACUATE (15:R651, 18:R752 to R757, 19:R781) -/

/-- R752: the device stands by for a context of a coupling and modes. -/
def State.standsBy (s : State) (coupling modes : BitVec 8) : Bool :=
  s.ctxs.isEmpty && !s.safeHold && s.patina < 4 && (match s.secPolicy with
    | some g => bitN g.couplingAllow.toNat coupling.toNat && modes &&& ~~~g.modesAllow == 0#8
    | none => false)

/-- An enquiry is answered (R752). -/
def execStandbyEnquiry (src : BitVec 16) (coupling modes : BitVec 8) (s : State) : Res :=
  .next (s.sendMgmt (s.mgmtMsg src mgmtStandby [natW (b2n (s.standsBy coupling modes))]))

/-- REDIRECT goes to every destination of the route table (R756). -/
def State.sendRedirects (s : State) (new : BitVec 16) : State :=
  ((s.settings.map ImageSettings.routes).getD []).foldl (fun s r =>
    s.sendMgmt (s.mgmtMsg r.dest mgmtRedirect [s.deviceId.setWidth 64, new.setWidth 64])) s

/-- A link in UP joins the device directly with another. -/
def State.joined (s : State) (dest : BitVec 16) : Bool := s.links.any (fun l => l.st == .up && l.partner == dest)

/-- Why the source refuses an EVACUATE before it asks the peer: reason and resource (R626, R629, R651, R753, R781). -/
def State.evacRefused (s : State) (q : QueueId) (f : Flight) : Option (Nat × Nat) :=
  let dest : BitVec 16 := f.entry.w2.setWidth 16
  match s.cmdCtx q with
  | none => some (s.absentReason q f.seq, 0)
  | some x =>
    if s.moving q f.seq then some (7, 0)
    else if dest == s.deviceId || 0x7FFF < dest.toNat then some (8, 0)
    else if !x.host.isEmpty then some (6, 0x0C)
    else if s.unreachable dest || (s.secPolicy.any SecPolicy.evacDirect && !s.joined dest) then some (8, 0)
    else none

/-- Why an EVACUATE is refused. -/
def State.evacReason (s : State) (q : QueueId) (f : Flight) (peer : PeerReply) : Option (Nat × Nat) :=
  match s.evacRefused q f with
  | some r => some r
  | none => if !peer.reachable || !peer.standsBy then some (8, 0) else none

/-- The peer is asked whether it stands by for the context (R752). -/
def State.enquire (s : State) (q : QueueId) (f : Flight) : State :=
  match s.evacRefused q f, s.cmdCtx q with
  | none, some x =>
    s.sendMgmt (s.mgmtMsg (f.entry.w2.setWidth 16) mgmtEnquiry [natW (b2n x.direct), x.modes.setWidth 64])
  | _, _ => s

/-- An EVACUATE ends once every core has stopped: the context goes to the peer and is NONE here. -/
def State.evacEnd (s : State) (q : QueueId) (peer : PeerReply) : State :=
  match s.working q 7, s.cmdCtx q with
  | none, _ => s
  | some _, none => s.refuse q 3
  | some f, some x =>
    if !(s.waiting x).isEmpty then s
    else
      let dest : BitVec 16 := f.entry.w2.setWidth 16
      let (s, t) := s.transferOf x f.seq true false
      let s := (s.emit (.transfer dest t)).endCommands x.pasid (some q) 5
      let s := (coresOf x.mask).foldl State.parkCore s
      let s := s.release x
      -- senders not yet redirected get no answer, so that they send again (R754)
      let s := { s with fab := { s.fab with quiet := s.fab.quiet.filter (fun w => !x.ins.any (fun i => i.win == w)) ++ x.ins.map InWin.win } }
      (s.sendRedirects dest).finish q 0#64 peer.entrySeq

def State.evacCmd (s : State) (q : QueueId) (peer : PeerReply) : State :=
  match s.working q 7 with
  | none => s
  | some f =>
    if f.started then s.evacEnd q peer
    else match s.evacReason q f peer, s.cmdCtx q with
      | some (r, res), _ => (s.enquire q f).refuse q r res
      | none, none => s
      | none, some x =>
        if !s.dataPlane then s
        else
          let s := (s.enquire q f).awake.begin_ q
          let t := s.xtal
          let s := s.updFlight q (fun f => { f with since := t })
          (s.raiseNotices x 2#8).evacEnd q peer

def execEvacuate (q : QueueId) (peer : PeerReply) (s : State) : Res := .next (s.evacCmd q peer)

/-- What the reset of R755 finds: a request that waits, a double fault's first cause, or no trap at all, whose CAUSE, INT and PC are free values and
whose class is software (R390; log 107). -/
def State.evacReq (s : State) (c : CoreId) : State × ResetReq :=
  let k := s.core c
  match k.resetReq with
  | some r => (s, r)
  | none =>
    if k.dfault then (s, k.chainReq false)
    else
      let (s, n) := s.draw
      let v := Config.free n
      (s, { hw := false, df := false, nest := false, int := decide (0x40 ≤ v % 256), cause := BitVec.ofNat 8 v, pc := BitVec.ofNat 20 (v / 256) })

/-- R389, R406: the TRAP entry of a core that R755 resets; no decision of R391 is taken here, so RES is 0b11. -/
def State.evacTrap (s : State) (c : CoreId) : State :=
  let (s, r) := s.evacReq c
  s.trapEntry c (trapSummary 3 r.hw r.df r.nest r.int c r.cause r.pc)

/-- R755: a core that has not stopped in time is reset, to be replayed by the peer; where it cannot replay, the EVACUATE
ends with TIMEOUT. -/
def State.evacTimeout (s : State) (q : QueueId) (c : CoreId) : State :=
  match s.working q 7, s.cmdCtx q with
  | some f, some x =>
    if !f.started || !(s.waiting x).contains c || s.xtal < x.deadline f || s.deciding x then s
    else if s.replayable c then
      (((s.evacTrap c).applyReset c).updCore c (fun k =>
        { k with held := true, elogD := k.elogD ++ k.replayD, elogS := k.elogS ++ k.replayS, replayD := [], replayS := [] })).updCtx
        x.pasid (fun x => { x with quiet := true })
    else (s.resumeStopped x).finish q (statusWord 8 0 0 0) 0#64
  | _, _ => s

def execEvacuateSafePointTimeout (q : QueueId) (c : CoreId) (s : State) : Res := .next (s.evacTimeout q c)

/-- A core of a context that was RUNNING at the source resumes; one that the source reset replays. -/
def State.arriveCore (s : State) (v : SavedCore) : State :=
  if v.logD.isEmpty && v.logS.isEmpty then s.resumeCore v.core else s.replayCore v.core

/-- R754: the peer takes a context that it stands by for and can admit. -/
def State.evacIn (s : State) (t : Transfer) : State :=
  let p := t.pasid
  if !s.dataPlane || !s.standsBy (BitVec.ofNat 8 t.lo.coupling) (BitVec.ofNat 8 t.lo.modes) || (s.admission p t.lo []).isSome then s
  else
    let s := s.awake
    let (s, key) := s.drawKey
    let st : CtxState := if t.running then .running else if t.run.isSome then .paused else .loaded
    let x : Context :=
      { t.lo.context p st key with
        counters := t.counters
        run := if t.running then t.run.map (fun m => ⟨none, 0#64, m, t.exits⟩) else none
        pausedRun := if t.running then none else t.run.map (fun m => ⟨m, t.exits⟩) }
    let s := ({ s with ctxs := s.ctxs ++ [x] }).restoreCtx x [] t true
    let s := { s with fab := { s.fab with receivers := s.fab.receivers ++ t.streams }
                      sec := { s.sec with
                        jkeys := s.sec.jkeys.filter (fun k => k.1 != p)
                        secrets := match t.secret with
                          | some v => s.sec.secrets.filter (fun (k : Pasid × BitVec 256) => k.1 != p) ++ [(p, v)]
                          | none => s.sec.secrets } }
    let s := (s.journalKey p).1
    let n := s.journal.tail
    let s := s.devEntry 0x12#5 (wordOf [(48, 16, t.source.toNat), (0, 48, t.srcSeq.toNat)]) p 0
    let s := if t.running then (t.cores.filter (fun v => v.ckpt.isSome)).foldl State.arriveCore s else s
    s.sendMgmt (s.mgmtMsg t.source mgmtTaken [n])

def execEvacuateIn (t : Transfer) (s : State) : Res := .next (s.evacIn t)

/-! ## ZEROIZE (15:R652, 19:R782) -/

/-- The rows of a core's slab that do not read back as zero after four rewrites (R784): a fact of the part, which the cold
start found with its other inputs. -/
def State.stuckRows (s : State) (c : CoreId) : List Nat :=
  ((s.boot.inputs.map StartInputs.stuck).getD []).filterMap (fun x =>
    if x.1 == dieOf c && x.2.1 == s.rep.map[c].pcore && x.2.2 < 22528 then some x.2.2 else none)

/-- The read-back of a wipe (R784): a row with a word that four rewrites did not clear is counted in ECC_CNT and spared under
R745, and the row it leaves serves no more; with no spare row left it stays. -/
def State.readBack (s : State) (c : CoreId) : State :=
  (s.stuckRows c).foldl (fun s r => if s.rep.rowsSpared[c].contains r then s else s.noteRead c .scratchpad (r * 4096)) s

/-- A core that has been reset: its registers, scratchpad, IMEM and DMEM written with zeros and read back. -/
def State.wipeCore (s : State) (c : CoreId) : State :=
  (({ s with left := s.left.filter (fun x => x.core != c) }).updCore c (fun k =>
    { k with
      vregs := []
      masks := Vector.replicate 8 0#65536
      imem := []
      dmem := []
      spad := []
      torn := []
      badImem := []
      badDmem := []
      badSpad := []
      ckpt := none
      elogD := []
      elogS := []
      replayD := []
      replayS := []
      foreign := [] })).readBack c

/-- The shared-cache lines of a context's HBM regions leave without write-back. -/
def State.dropLines (s : State) (x : Context) : State :=
  { s with caches := s.caches.map (fun (c : Cache) => { c with lines := c.lines.filter (fun l => !x.inHbm (lineAddr l.set_ l.tag)) }) }

/-- The actions of R782 on a context, in the table's order: cores, descriptors, memories, cache lines, and what the end of
residence releases (R783). -/
def State.wipe (s : State) (x : Context) : State :=
  let s := (coresOf x.mask).foldl State.stopCore s
  let s := s.endDescs (fun d => d.pasid == x.pasid)
  let s := (coresOf x.mask).foldl State.wipeCore s
  let s := (s.dropLines x).release x
  { s with sec := { s.sec with secrets := s.sec.secrets.filter (fun (k : Pasid × BitVec 256) => k.1 != x.pasid) } }

def State.zeroizeCmd (s : State) (q : QueueId) : State :=
  match s.working q 8 with
  | none => s
  | some _ =>
    match s.ctx (s.queue q).pasid with
    | none => (s.begin_ q).finish q 0#64 0#64
    | some x =>
      if !s.dataPlane then s
      else ((s.awake.begin_ q).wipe x |>.endCommands x.pasid (some q) 4).finish q 0#64 0#64

def execZeroize (q : QueueId) (s : State) : Res := .next (s.zeroizeCmd q)

/-- Every resident context is zeroized, and its commands complete with ZEROIZED (19:R788). -/
def State.wipeAll (s : State) : State := s.ctxs.foldl (fun s x => (s.wipe x).endCommands x.pasid none 4) s

/-! ## Completion (R623, R660) -/

/-- A started DMA, SIGNAL, FENCE or SAVE whose condition now holds has its work done. -/
def State.settled (s : State) (q : QueueId) : State :=
  if (s.working q 5).any Flight.started then s.saveEnd q true
  else match s.working q 4 with
  | some f => if f.started then s.signalEnd q f (f.entry.w2.setWidth 8) else s
  | none => match s.working q 0x0A with
    | some f => if f.started && !f.fence.any s.inFlight then s.finish q 0#64 0#64 else s
    | none => s.dmaEnd q

/-- A command completes: record, interrupt, journal. A command that never started takes all three times at once. One whose completion address
cannot be reached ends with TRANSLATION and leaves no record (R621). -/
def State.commandComplete (s : State) (q : QueueId) (reach : Bool) : State :=
  let s := s.settled q
  match s.flight q with
  | none => s
  | some f => match f.done with
    | none => s
    | some (st, r2) =>
      if f.entry.w6 != 0#64 && !s.hostOpen then s
      else
        let x := s.queue q
        let lost := f.entry.w6 != 0#64 && !reach
        let st := if lost then statusWord 7 0 0 0 else st
        let s := if lost then s.unreachedAt q f.entry.w6 true false
          else if f.entry.w6 == 0#64 then s
          else s.cmdWrite x.pasid f.entry.w6.toNat (wordsBytes [f.seq, st, r2, f.entry.w7])
        let s := if CmdIrq f.entry then s.emit (.msix x.vec) else s
        let t := natW s.time
        -- the entry of a refused command has taken its times already
        let s := { s with journal := s.journal.upd f.seq (fun e => if e.phase == Phase.completed then e else
          { e with phase := .completed, status := st, tDone := t, tStart := if e.phase == Phase.accepted then t else e.tStart }) }
        s.setQueue q { x with cur := none }

def execCommandComplete (q : QueueId) (reach : Bool) (s : State) : Res := .next (s.commandComplete q reach)

end Sys2Proof.Machine
end

