-- ==== Sys2Proof/Machine/Power.lean ====
section
/-! DEFINITION. Power, clocks and temperature (16): the governor and level changes, droop, throttling, Quench, Floor, Drydown
following, the Temper table, sleep states and energy credit. -/

namespace Sys2Proof.Machine

def State.setPower (s : State) (p : Power) : State := { s with power := p }

def State.updPower (s : State) (f : Power → Power) : State := s.setPower (f s.power)

/-! ## Levels (R669, R676 to R680, R689, R703) -/

/-- The highest level of the mode. -/
def State.modeTop (s : State) : Nat := if s.policy.openMode then 7 else 5

/-- The level that the device may run at: its local level, under the group level where the group policy is enabled (R703). -/
def State.runLevel (s : State) : BitVec 3 := if s.gvalid then s.groupLevel.1 else s.localLevel

/-- The core rails of both dies are set for a level over AVSBus, from the Temper tables (R668, R669, 21:R814). -/
def State.setRails (s : State) (l : BitVec 3) : State :=
  let mv (d : DieId) : Nat := ((s.power.temper[d])[l.toNat]).vapp.toNat
  (s.emit (.avs 0 (mv 0))).emit (.avs 1 (mv 1))

/-- While the rails are at retention voltage or off, a level is noted alone: what ends that state sets the rails for it (21:R814). -/
def State.levelRails (s : State) (l : BitVec 3) : State := if s.dataPlane then s.setRails l else s

/-- A device in Planish mode that runs at P5 or above and leaves it downward (R679). -/
def State.departs (s : State) (l : BitVec 3) : Bool := !s.policy.openMode && l.toNat < 5 && 5 ≤ s.power.level.toNat

/-- The frequency switches to a level, and the voltage follows a fall (R669), or a rise to another level that is given up; leaving P5 downward in
Planish mode sets DEPART (R679). -/
def State.applyLevel (s : State) (l : BitVec 3) : State :=
  let settle := l.toNat < s.power.level.toNat || s.power.rising.any (fun r => r.1 != l)
  let departs := s.departs l
  let s := s.updPower (fun p => { p with level := l, rising := none, depart := p.depart || departs })
  if settle then s.levelRails l else s

/-- A level is requested: deferred while the clock is stretched (R689); a fall switches at once; a rise first raises the
core rails of both dies, AVS0 and AVS1 (R669), unless they are at retention voltage or off. -/
def State.requestLevel (s : State) (l : BitVec 3) : State :=
  let p := s.power
  if p.stretched then s.setPower { p with deferred := some l }
  else if l.toNat ≤ p.level.toNat then (if l == p.level && p.rising.isNone then s else s.applyLevel l)
  else if p.rising.any (fun r => r.1 == l) then s
  else
    let s := s.updPower (fun p => { p with riseTick := some (tickNo s.xtal) })
    if s.dataPlane then (s.updPower (fun p => { p with rising := some (l, 3#3) })).setRails l else s.applyLevel l

/-- The level falls to what the device may run at. -/
def State.fitLevel (s : State) : State :=
  if s.runLevel.toNat < s.power.level.toNat then s.requestLevel s.runLevel else s

def State.powered (s : State) : Bool := s.pstate != .off

/-- A rise waits for nothing more: the frequency switches, to no more than the device may run at. -/
def State.finishRise (s : State) : State :=
  match s.power.rising with
  | some (l, 0#3) =>
    if s.power.stretched then s
    else if s.runLevel.toNat < l.toNat then s.applyLevel s.runLevel
    else s.applyLevel l
  | _ => s

/-- VOLTAGE_SLEW_COMPLETE of regulator AVSn. -/
def execVoltageSlewComplete (reg : Fin 3) (s : State) : Res :=
  let bit : BitVec 3 := BitVec.ofNat 3 (2 ^ reg.val)
  .next (s.updPower (fun p => { p with rising := p.rising.map (fun r => (r.1, r.2 &&& ~~~bit)) })).finishRise

/-- What a climb towards `l` reaches now: one step up from the current level, one per tick, held back for 64 ticks after a sustained
droop (R679, R680, R690); otherwise it stays at a rise under way. -/
def State.upTo (s : State) (l : Nat) : BitVec 3 :=
  let p := s.power
  let held := match p.rising with
    | some r => r.1.toNat
    | none => p.level.toNat
  BitVec.ofNat 3 (min l (if s.xtal < p.noRaise || !s.tickDue p.riseTick then held else p.level.toNat + 1))

/-- LEVEL_CHANGE: the level moves for a cause alone (R678 to R680): down to what the device may run at, or one step up towards it. -/
def State.levelChange (s : State) (l : BitVec 3) : State :=
  let down := s.runLevel.toNat < s.power.level.toNat
  if !s.powered || s.pstate == .quench then s
  else if l == (if down then s.runLevel else s.upTo s.runLevel.toNat) then s.requestLevel l
  else s

def execLevelChange (level : BitVec 3) (s : State) : Res := .next (s.levelChange level)

/-- The cap of a sustained droop ends after 64 ticks. -/
def State.droopOver (s : State) : State :=
  if s.xtal < s.power.noRaise then s else s.updPower (fun p => { p with droopCap := 7#3 })

/-- LEVEL_CLIMB (R679, R699, R701): one level per tick towards what the device may run at. -/
def State.climb (s : State) : State :=
  let s := s.droopOver
  let p := s.power
  if !s.powered || p.floorOn || s.pstate == .quench then s
  else if p.level.toNat < s.runLevel.toNat then s.requestLevel (s.upTo s.runLevel.toNat)
  else s.setPower { p with climbing := false }

def execLevelClimb (s : State) : Res := .next s.climb

/-- GROUP_LEVEL_APPLY (R703): the member goes to the lower of its local level and the group level: down at once, up one level per tick (log 176). -/
def State.groupApply (s : State) : State :=
  if !s.gvalid then s
  else
    let g := s.groupLevel
    let s := { s with fab := { s.fab with grpLevel := g.1, grpSource := g.2 } }
    if !s.powered || s.power.floorOn || s.pstate == .quench then s
    else if s.runLevel.toNat < s.power.level.toNat then s.requestLevel s.runLevel
    else if s.power.level.toNat < s.runLevel.toNat then (s.updPower (fun p => { p with climbing := true })).climb
    else s

def execGroupLevelApply (s : State) : Res := .next s.groupApply

/-! ## The governor (R682 to R685) -/

/-- The measurement of a tick (R682): its average power in watts. -/
def Power.measure (p : Power) (w : Nat) : Power :=
  { p with tickW := BitVec.ofNat 16 (min w 65535),
           ticks := (p.ticks ++ [BitVec.ofNat 16 (min w 65535)]).drop (p.ticks.length + 1 - 2048),
           energy := p.energy + w }

/-- R683, with the ticks above PL2 of R684; powers in watts, the balance in watts times ticks. -/
def Power.burstStep (p : Power) (w now : Nat) : Power :=
  let b : Int := p.balance + (w - 2200 : Int)
  let starts := !p.burst && p.armed && 2200 < w
  let burst := p.burst || starts
  let armed := p.armed && !starts
  let t0 := if starts then now else p.t0
  let burst := burst && !(2000000000 ≤ now - t0 || b ≤ 0)
  let repaid := !burst && b ≤ 0
  { p with balance := if repaid then 0 else b, burst := burst, armed := armed || repaid, t0 := t0,
           overPl2 := if burst && 2400 < w then p.overPl2 + 1 else 0 }

/-- The cap on the level that follows from the 1 s average (R679, R685): above PL1, and no burst, the level falls. -/
def State.powerCapOf (s : State) (target : BitVec 3) : BitVec 3 :=
  if 2200 < s.power.avg1s && !s.power.burst then BitVec.ofNat 3 (min target.toNat (s.power.level.toNat - 1))
  else if s.policy.openMode then target else 7#3

/-- GOVERNOR_TICK, once per tick: `target` is the level to which the caps and the governor's prediction bring it (R680, R684, R685). -/
def State.governor (s : State) (w : Nat) (target : BitVec 3) : State :=
  if !s.powered || !s.tickDue s.power.govTick then s
  else
    let now := s.xtal
    let s := s.droopOver.updPower (fun p => { p with govTick := some (tickNo now) })
    if s.policy.openMode then
      let s := s.updPower (fun p => p.burstStep w now)
      let cap := s.powerCapOf target
      let s := s.updPower (fun p => { p with powerCap := cap })
      if s.power.floorOn || s.pstate == .quench then s
      else s.requestLevel (s.upTo s.runLevel.toNat)
    else
      let cap := s.powerCapOf target
      let s := s.updPower (fun p => { p with powerCap := cap })
      if s.pstate == .quench then s else s.fitLevel

def execGovernorTick (power : Nat) (target : BitVec 3) (s : State) : Res := .next (s.governor power target)

/-- PL2_EXCESS_LIMIT (R684): at the 20th tick to a level whose predicted power fits PL2, then one further level a tick. -/
def State.pl2Excess (s : State) (fit : BitVec 3) : State :=
  let p := s.power
  if !p.burst || p.overPl2 < 20 || !s.tickDue p.pl2Tick then s
  else
    let l := BitVec.ofNat 3 (if p.overPl2 == 20 then min fit.toNat (p.level.toNat - 1) else p.level.toNat - 1)
    (s.setPower { p with powerCap := l, pl2Tick := some (tickNo s.xtal) }).fitLevel

def execPl2ExcessLimit (fit : BitVec 3) (s : State) : Res := .next (s.pl2Excess fit)

/-! ## Droop (R687 to R690) -/

/-- DROOP_DETECT: a detector becomes active; a stretch begins unless one is under way. -/
def State.droop (s : State) (d : DieId) (i : Fin 64) : State :=
  let p := s.power
  if !s.dataPlane || p.droops.any (fun x => x.1 == d && x.2.1 == i) then s
  else s.setPower { p with droops := p.droops ++ [(d, i, s.xtal)], stretched := true,
                           stretch := if p.stretched then p.stretch else satAdd p.stretch 1 }

def execDroopDetect (d : DieId) (i : Fin 64) (s : State) : Res := .next (s.droop d i)

/-- DROOP_STRETCH_END: no detector has been active for 8 cycles; a deferred change is applied. -/
def State.stretchEnd (s : State) : State :=
  let p := s.power
  if !p.stretched then s
  else
    let s := s.setPower { p with droops := [], stretched := false, deferred := none }
    match p.deferred with
    | some l => (s.requestLevel l).finishRise
    | none => s.finishRise

def execDroopStretchEnd (s : State) : Res := .next s.stretchEnd

/-- SUSTAINED_DROOP (R690): a detector has been active for 50 µs; it counts once. -/
def State.sustained (s : State) (d : DieId) (i : Fin 64) : State :=
  let p := s.power
  if !(p.droops.any (fun x => x.1 == d && x.2.1 == i && x.2.2 + 50000 ≤ s.xtal)) then s
  else
    let below := p.level.toNat - 1
    let l := BitVec.ofNat 3 (match p.deferred with
      | some v => min below v.toNat
      | none => below)
    let s := s.setPower { p with
      droops := p.droops.filter (fun x => !(x.1 == d && x.2.1 == i))
      deferred := none
      sustain := satAdd p.sustain 1
      droopCap := l
      noRaise := s.xtal + ticksNs 64 }
    s.applyLevel l

def execSustainedDroop (d : DieId) (i : Fin 64) (s : State) : Res := .next (s.sustained d i)

/-! ## Temperature (R692 to R696) -/

/-- Sensors `lo` to `lo + n − 1` of a list. -/
def sensors (l : List Int) (lo n : Nat) : List Int := (l.drop lo).take n

/-- A throttle with its time of cooling after a sample: it begins when a sensor reaches the threshold, and ends when every
sensor has read at least 3 °C below it for one whole tick. -/
def throttle (now : Nat) (thr : Int) (l : List Int) (on : Bool) (cool : Option Nat) : Bool × Option Nat :=
  let cool := coolFrom now (l.all (fun t => t ≤ thr - 3)) cool
  (if l.any (fun t => thr ≤ t) then true else on && !tickSince now cool, cool)

/-- The throttles of quadrant `q` of die `d` after a sample. -/
def Quad.sample (k : Quad) (now : Nat) (t : Temps) (d q : Nat) : Quad :=
  let a := throttle now 105 (sensors (t.die.getD d []) (20 * q) 20) k.core k.coreCool
  let b := throttle now 95 (sensors (t.tier.getD d []) (8 * q) 8) k.tier k.tierCool
  let c := throttle now 95 (sensors t.hbm (4 * d + q) 1) k.stack k.stackCool
  { k with core := a.1, coreCool := a.2, tier := b.1, tierCool := b.2, stack := c.1, stackCool := c.2 }

/-- Every sensor is at or above its Quench limit by `m` (R693). -/
def overLimit (t : Temps) (m : Int) (some_ : Bool) : Bool :=
  let f (lim : Int) (v : Int) : Bool := if some_ then lim + m ≤ v else v ≤ lim + m
  let q (lim : Int) (l : List Int) : Bool := if some_ then l.any (f lim) else l.all (f lim)
  let l := [t.die.map (q 115), t.tier.map (q 105), [q 105 t.hbm], [q 100 t.optic]].flatten
  if some_ then l.any id else l.all id

/-- Some sensor has reached its Quench limit. -/
def reachesQuench (t : Temps) : Bool := overLimit t 0 true

/-- Every sensor reads at least 15 °C below its Quench limit. -/
def belowQuench (t : Temps) : Bool := overLimit t (-15) false

/-- What QUENCH_EXIT waits for holds now (R699): cool sensors, and QUENCH_N high or ignored; a device that drives the line
itself does not wait for it (21:R824). -/
def State.quenchClears (s : State) : Bool :=
  belowQuench s.power.temps && (!s.power.quenchN || !s.power.quenchInLow || !s.policy.quenchFollow)

/-- Since when it has held. -/
def State.countQuench (s : State) : State :=
  if s.pstate == .quench then s.updPower (fun p => { p with quenchCool := coolFrom s.xtal s.quenchClears p.quenchCool }) else s

/-- THERMAL_SAMPLE. -/
def State.sampleTemps (s : State) (t : Temps) : State :=
  let now := s.xtal
  let die (d : Nat) (p : Power) : Bool × Option Nat :=
    throttle now 105 (sensors (t.die.getD d []) 80 16) (p.die.toList.getD d false) (p.dieCool.toList.getD d none)
  let s := s.updPower (fun p =>
    { p with temps := t
             quads := Vector.ofFn (fun (i : Fin 8) => (p.quads[i]).sample now t (i.val / 4) (i.val % 4))
             die := #v[(die 0 p).1, (die 1 p).1]
             dieCool := #v[(die 0 p).2, (die 1 p).2] })
  s.countQuench

def execThermalSample (t : Temps) (s : State) : Res := .next (if s.powered then s.sampleTemps t else s)

/-- The local limit falls by one level. -/
def State.lowerLocal (s : State) : State :=
  let top := s.modeTop
  s.updPower (fun p => { p with localCap := BitVec.ofNat 3 (min p.localCap.toNat top - 1) })

def Quad.throttled (k : Quad) : Bool := k.core || k.tier || k.stack

/-- R695: one tick of edge skipping. -/
def Quad.step (k : Quad) : Quad :=
  let k :=
    if k.throttled then { k with ratio := if 4 < k.ratio then k.ratio - 1 else k.ratio, upTicks := 0 }
    else if 16 ≤ k.ratio then { k with upTicks := 0 }
    else if 3 ≤ k.upTicks then { k with ratio := k.ratio + 1, upTicks := 0 }
    else { k with upTicks := k.upTicks + 1 }
  { k with below := if k.ratio < 16 then k.below + 1 else 0 }

/-- EDGE_SKIP_STEP: at a tick boundary, with the local limit of a die that is hot outside its quadrants (R693). -/
def State.edgeSkip (s : State) : State :=
  if !s.powered || !s.tickDue s.power.skipTick then s
  else
    let now := tickNo s.xtal
    let s := s.updPower (fun p =>
      let qs := p.quads.map Quad.step
      { p with quads := qs, skipTick := some now, noSkip := if qs.all (fun k => 16 ≤ k.ratio) then p.noSkip + 1 else 0 })
    if s.power.die.any id then s.lowerLocal.fitLevel else s

def execEdgeSkipStep (s : State) : Res := .next s.edgeSkip

/-- THERMAL_CONVERSION (R696). -/
def State.convert (s : State) : State :=
  if s.power.quads.any (fun k => 8 ≤ k.below) then
    let s := s.lowerLocal.updPower (fun p =>
      { p with quads := p.quads.map (fun k => { k with ratio := 16, below := 0, upTicks := 0 }), therm := satAdd p.therm 1 })
    let s := s.fitLevel
    s.event 4 [s.pwrStat]
  else s

def execThermalConversion (s : State) : Res := .next s.convert

/-- LOCAL_LIMIT_RISE (R696). -/
def execLocalLimitRise (s : State) : Res :=
  .next (if 64 ≤ s.power.noSkip && s.power.localCap.toNat < s.modeTop then
      s.updPower (fun p => { p with localCap := p.localCap + 1#3, noSkip := 0 })
    else s)

/-! ## Quench (R697 to R700, 21:R824) -/

/-- The top-note rails at their settings of run or of retention (21:R814, R819). -/
def State.runRails (s : State) : State := (s.setRails s.power.level).emit (.avs 2 750)

def State.retentionRails (s : State) : State := ((s.emit (.avs 0 550)).emit (.avs 1 550)).emit (.avs 2 600)

/-- The device enters Quench: the clocks stop, the top-note rails go to retention voltage, the links leave UP with CAUSE 0x1; every bit of
state is held. `own`: through its own sensors, when it drives QUENCH_N. -/
def State.enterQuench (s : State) (own : Bool) : State :=
  let departs := s.departs 0#3
  let s := if s.dataPlane then s.retentionRails else s
  let s := (List.range 35).foldl (fun s i => s.leaveUp (Fin.ofNat 35 i) 1#4) s
  let s := { s with pstate := .quench
                    power := { s.power with quenchFrom := s.pstate, quenches := satAdd s.power.quenches 1, rising := none,
                                            stretched := false, droops := [], deferred := none, quenchCool := none,
                                            quenchN := !own, depart := s.power.depart || departs } }
  s.countQuench.event 2 [s.pwrStat]

/-- A device whose own sensors trip while it follows drives the line too. -/
def State.quenchEntry (s : State) (t : Temps) : State :=
  if !s.powered || !reachesQuench t then s
  else
    let s := s.updPower (fun p => { p with temps := t })
    if s.pstate == .quench then s.updPower (fun p => { p with quenchN := false, quenchCool := none }) else s.enterQuench true

def execQuenchEntry (t : Temps) (s : State) : Res := .next (s.quenchEntry t)

/-- QUENCH_FOLLOW: QUENCH_N is sampled low. -/
def State.quenchLow (s : State) : State :=
  let s := (s.updPower (fun p => { p with quenchInLow := true })).countQuench
  if s.powered && s.pstate != .quench && s.policy.quenchFollow then s.enterQuench false else s

def execQuenchFollow (s : State) : Res := .next s.quenchLow

/-- QUENCH_N_RISE. -/
def execQuenchNRise (s : State) : Res := .next (s.updPower (fun p => { p with quenchInLow := false })).countQuench

/-! ## Floor (R701) -/

/-- VR_ALERT: the frequency is that of Floor, stretch or not (R691). -/
def State.vrAlert (s : State) : State :=
  if !s.powered then s
  else
    let was := s.power.floorOn
    let s := s.updPower (fun p => { p with alertLow := true, floorHold := none, floored := true, deferred := none,
                                           floors := if was then p.floors else satAdd p.floors 1 })
    let s := s.applyLevel 0#3
    if was then s else s.event 3 [s.pwrStat]

def execVrAlert (s : State) : Res := .next s.vrAlert

def execVrAlertNReturnsHigh (s : State) : Res :=
  .next (if s.power.alertLow then s.updPower (fun p => { p with alertLow := false, floorHold := some s.xtal }) else s)

/-- FLOOR_HOLD_END: 64 ticks after VR_ALERT_N returned high. -/
def State.floorEnd (s : State) : State :=
  if s.power.floorHold.any (fun t => t + ticksNs 64 ≤ s.xtal) then
    let s := s.updPower (fun p => { p with floorHold := none, floored := false, climbing := true })
    s.event 3 [s.pwrStat]
  else s

def execFloorHoldEnd (s : State) : Res := .next s.floorEnd

/-! ## The Temper table (R672 to R675) -/

/-- TEMPER_MONITOR_ADJUST: the monitors ask for `ask` mV at level `n` of die `d`; above VNOM the level is AGED. -/
def State.monitor (s : State) (d : DieId) (n : BitVec 3) (ask : Nat) : State :=
  let i : Fin 8 := Fin.ofNat 8 n.toNat
  let t := (s.power.temper[d])[i]
  let put (s : State) (t : Temper) : State :=
    s.updPower (fun p => { p with temper := p.temper.set d ((p.temper[d]).set i t) })
  let v := t.vapp.toNat
  let lo := t.vnom.toNat - t.trim.toNat
  let v' := if ask < v then max lo (v - 1) else if v < ask then min t.vnom.toNat (v + 1) else v
  let free := t.hour.all (fun h => h + hourNs ≤ s.xtal)
  let moves := free && v' != v
  let t := if moves then { t with vapp := BitVec.ofNat 10 v', hour := some s.xtal } else t
  -- the level in force, or the one that a rise goes to, takes its new voltage at once (R673)
  let force := match s.power.rising with
    | some r => r.1
    | none => s.power.level
  let s := if moves && n == force && s.dataPlane then s.emit (.avs (Fin.castLE (by decide) d) v') else s
  if t.vnom.toNat < ask && !t.aged then
    ((put s { t with aged := true }).event 5 [natW d.val, n.setWidth 64]).recompute
  else put s t

def execTemperMonitorAdjust (d : DieId) (n : BitVec 3) (ask : Nat) (s : State) : Res :=
  .next (if s.powered then s.monitor d n ask else s)

/-! ## Sleep and wake (R705 to R708, 01:R41 to R45) -/

/-- A command that needs the data plane is in flight: any but QUERY and FENCE. -/
def Queue.needsData (x : Queue) : Bool := match x.cur with
  | some f => f.done.isNone && CmdOpc f.entry != 9 && CmdOpc f.entry != 0x0A
  | none => false

/-- R706. An inbound request is served at once, and idleness counts from it (`State.reqIn`). -/
def State.isIdle (s : State) : Bool :=
  !s.ctxs.any (fun x => x.st == .running) && !s.queues.any Queue.needsData && s.chans.all (fun c => c.queue.isEmpty)

/-- Some link of the link map is UP. -/
def State.linkUp (s : State) : Bool := s.links.any (fun l => l.st == .up)

/-- The links' logic stops: links that were not UP go back to DOWN. -/
def State.linksStop (s : State) : State :=
  (List.range 35).foldl (fun s i => s.linkDown (Fin.ofNat 35 i) 1#4) s

/-- RETENTION_ENTRY. -/
def execRetentionEntry (s : State) : Res :=
  let ms := s.policy.idleRetMs
  .next (if s.pstate == .idle && s.isIdle && ms != 0 && s.power.idleSince + ms * 1000000 ≤ s.xtal && !s.linkUp then
      ({ s.linksStop with pstate := .retention, power := { s.power with rising := none }, boot := { s.boot with lnkEn := false } }).retentionRails
    else s)

/-- A channel that has lost its power: answers still to come are for descriptors that are no more (11:R498). -/
def Chan.dropped (x : Chan) : Chan :=
  { Chan.reset with owedAts := x.owe.owedAts + x.asked.length, owedPrg := x.owe.owedPrg }

/-- The top-note domain loses its power: cores, vector and accumulator state, IMEM, DMEM, scratchpad, cache lines and
translations are lost (01:R41). -/
def State.dropTopNote (s : State) : State :=
  let s := s.linksStop
  State.settle { s with
    left := []
    ring := { s.ring with held := s.ring.held.map (fun (e : RingEntry) => { e with chan := none }) }
    cores := Vector.replicate 32 Core.reset
    gated := 0xFFFFFFFF#32
    caches := s.caches.map (fun (c : Cache) => { c with lines := [], noted := [] })
    tlbs := Vector.replicate 16 []
    chans := s.chans.map Chan.dropped }

/-- The power state goes to `p`; in Quench, which only QUENCH_EXIT ends, the device goes there when it ends (R699). -/
def State.toPState (s : State) (p : PState) : State :=
  if s.pstate == .quench then s.updPower (fun q => { q with quenchFrom := p }) else { s with pstate := p }

/-- Heart only (01:R41). A start or wake of the data plane under way is given up. -/
def State.enterHeartOnly (s : State) : State :=
  let s := s.dropTopNote.toPState .heartOnly
  { s with power := { s.power with rising := none },
           boot := { s.boot with lnkEn := false, tnEn := false, wait := .done, waking := none, depth := Vector.replicate 8 none } }

/-- HEART_ONLY_ENTRY: only while no loadable is resident (01:R43), and no wake is under way. -/
def execHeartOnlyEntry (s : State) : Res :=
  let sec := s.policy.idleHeartS
  .next (if (s.pstate == .idle || s.pstate == .retention) && s.boot.wait == .done && s.isIdle && sec != 0 &&
      s.power.idleSince + sec * 1000000000 ≤ s.xtal && s.ctxs.isEmpty then s.enterHeartOnly
    else s)

/-! ## Energy (R709) -/

/-- ENERGY_CREDIT, once per tick: the energy of a tick, in mJ, by the share of cores that each resident context holds. -/
def State.credit (s : State) (mj : Nat) : State :=
  if !s.tickDue s.power.creditTick then s
  else
  let now := tickNo s.xtal
  let s := s.updPower (fun p => { p with creditTick := some now })
  (s.ctxs.filter (fun x => !x.loading)).foldl (fun s x => match lowestCore x.mask with
    | some n => s.updPower (fun p => { p with slots := p.slots.set n (p.slots[n] + mj * (coresOf x.mask).length) })
    | none => s) s

def execEnergyCredit (energyMj : Nat) (s : State) : Res := .next (s.credit energyMj)

end Sys2Proof.Machine
end

