-- ==== Sys2Proof/Machine/Startup.lean ====
section
/-! DEFINITION. Start-up and the Niley image (17), the reset chain and regulators (21:R813 to R823), die-to-die alignment (14:R582 to
R584), warm reset, power-down, and staging (17:R732 to R734, 20:R804 to R806). -/

namespace Sys2Proof.Machine

def State.updBoot (s : State) (f : Boot → Boot) : State := { s with boot := f s.boot }

/-! ## Safe hold (17:R726, R727) -/

/-- The device enters Safe hold: the top-note domain in heart only, retry status stopped (R729), BOOT sent. -/
def State.enterHold (s : State) (cause : BitVec 8) : State :=
  let s := { s.enterHeartOnly with boot := { s.enterHeartOnly.boot with hold := cause, ready := true } }
  s.event 0xA [s.boot.stat]

/-- A report bit of BOOT_STAT (40 + i). -/
def State.report (s : State) (i : Nat) : State := s.updBoot (fun b => { b with report := b.report ||| BitVec.ofNat 8 (2 ^ i) })

def State.stage (s : State) (n : Nat) : State := s.updBoot (fun b => { b with stage := BitVec.ofNat 4 n })

/-! ## Steps 11 to 13 -/

/-- A link has been through step 11: trained or tried, or with no light while its module is not on its way to ON. -/
def State.linkTried (s : State) (l : LinkId) : Bool :=
  let k := s.link l
  match k.st with
  | .down => k.cause != 0#4 || (l.val < 32 && !([FeedState.check, .warming, .on, .switching].contains (s.feed (feedOf l)).st))
  | .train => false
  | _ => true

/-- Steps 11 and 12 end when every link of the link map is UP, DOWN or in HOLD, and step 13 is reached: a REDIRECT naming the device itself goes
out (18:R756). -/
def State.bootLinks (s : State) : State :=
  if s.boot.wait != .links then s
  else
    let ls := (List.finRange 35).filter s.linkMapped
    if !ls.all s.linkTried then s
    else if ls.any (fun l => (s.link l).st == .attest) then s.stage 11
    else
      let s := (s.stage 13).updBoot (fun b => { b with wait := .done })
      (s.sendRedirects s.deviceId).event 0xA [s.boot.stat]

/-- The data plane is released: it runs again after a wake; at a start it is left idle with no context resident, and links and modules follow by
their own commands (steps 11 and 12). -/
def State.bootLast (s : State) : State :=
  let b := s.boot
  let s := s.updBoot (fun b => { b with wait := if 13 ≤ b.stage.toNat then .done else .links, waking := none })
  let s := s.updPower (fun p => { p with idleSince := s.xtal })
  let s := (s.toPState (if b.waking.any (· != .idle) then .run else .idle)).recompute
  if 13 ≤ b.stage.toNat then s else s.bootLinks

/-! ## Step 10: die-to-die alignment (14:R582, R583) -/

/-- The depth at which a lane group's crossing FIFO is read, so that a marker leaves it in cycle 24: for one that arrives by cycle 20. -/
def markerDepth (arrival : Option Nat) : Option Nat := (arrival.filter (fun n => n ≤ 20)).map (fun n => 24 - n)

/-- Markers have arrived by cycle 20 on every lane group. -/
def markersOk (arrivals : List (Option Nat)) : Bool := arrivals.length == 8 && arrivals.all (fun a => (markerDepth a).isSome)

/-- Exchanges that fail: the fourth ends in Safe hold. Contexts held through retention or service are zeroized first, since none may be resident
in heart only (01:R43, log 123). -/
def State.d2dFailed (s : State) : State :=
  let k := s.boot.d2dFails + 1
  let s := s.updBoot (fun b => { b with d2dFails := k })
  if 4 ≤ k then s.wipeAll.enterHold 8#8 else s

/-- Both dies report aligned over the base-note sideband: a lane group's depth is known at each of the four that a die receives. -/
def Boot.dieAligned (b : Boot) (d : DieId) : Bool := (List.range 4).all (fun i => (b.depth.toList.getD (4 * (1 - d.val) + i) none).isSome)

def Boot.aligned (b : Boot) : Bool := b.dieAligned 0 && b.dieAligned 1

/-- The top-note domain is released: retry status stops at a start (R729). -/
def State.d2dAligned (s : State) : State :=
  ((if s.boot.stage.toNat < 10 then s.stage 10 else s).updBoot (fun b => { b with d2dFails := 0, ready := b.ready || b.waking.isNone })).bootLast

/-- One exchange: each lane group's depth, then the outcome. In Quench the data-plane clocks stand, and none is made. -/
def State.exchange (s : State) (arrivals : List (Option Nat)) : State :=
  let waits := s.boot.wait == .d2d
  if s.pstate == .quench || !(waits || (s.dataPlane && !s.boot.aligned)) then s
  else
    let s := s.updBoot (fun b => { b with depth := Vector.ofFn (fun (i : Fin 8) => (arrivals[i.val]?).bind markerDepth) })
    if !markersOk arrivals then s.d2dFailed
    else if waits then s.d2dAligned
    else s.updBoot (fun b => { b with d2dFails := 0 })

/-- Step 10, with the exchanges that the start found. -/
def State.bootD2d (s : State) : State :=
  let s := s.updBoot (fun b => { b with wait := .d2d })
  ((s.boot.inputs.map StartInputs.d2d).getD []).foldl (fun s a => if s.boot.wait == .d2d then s.exchange a else s) s

/-- D2D_MARKER_EXCHANGE: at reset exit, and again after retention or a lane group's retrain (R584). -/
def execD2dMarkerExchange (arrivals : List (Option Nat)) (s : State) : Res := .next (s.exchange arrivals)

/-- D2D_LANE_FAILURE: the lane group takes a spare lane and retrains (R584, 18:R738). -/
def State.laneFailure (s : State) (g : Fin 8) : State :=
  if !s.dataPlane then s
  else
    let n := s.rep.d2dLeft[g]
    ({ s with rep := { s.rep with d2dLeft := s.rep.d2dLeft.set g (n - 1) }, boot := { s.boot with depth := s.boot.depth.set g none } }).recompute

def execD2dLaneFailure (g : Fin 8) (s : State) : Res := .next (s.laneFailure g)

/-! ## Steps 8 and 9: top-note power, self-test, HBM (R728) -/

/-- The spare that serves a logical core whose physical core failed self-test. -/
def Repair.serveSpare (r : Repair) (i : Nat) : Option Repair :=
  let c : CoreId := Fin.ofNat 32 i
  let d := dieOf c
  if r.good[d].getLsbD (r.map[c]).pcore.toNat then some r
  else match (r.spareCores d).head? with
    | some p => some { r with map := r.map.set c ⟨true, BitVec.ofNat 5 p⟩ }
    | none => none

/-- Every logical core on a core that passed self-test; none when a die lacks good cores. -/
def Repair.selfTest (r : Repair) (bist : List (BitVec 18)) : Option Repair :=
  let r := { r with good := #v[r.good[0] &&& ~~~(bist.getD 0 0#18), r.good[1] &&& ~~~(bist.getD 1 0#18)] }
  (List.range 32).foldl (fun o i => o.bind (fun (r : Repair) => r.serveSpare i)) (some r)

/-- The SRAM structures that self-test found failed are repaired (R728). -/
def Repair.fixSram (r : Repair) (l : List SramFail) : Repair :=
  l.foldl (fun (r : Repair) f =>
    if r.sram[f.die].contains (f.structure_, f.needs) then r else { r with sram := r.sram.set f.die (r.sram[f.die] ++ [(f.structure_, f.needs)]) }) r

/-- Steps 8 and 9: self-test, with the spares that it takes, and the HBM stacks. -/
def State.bootBist (s : State) : State :=
  match s.boot.inputs with
  | none => s
  | some i =>
    match s.rep.selfTest i.bist with
    | none => (({ s with rep := { s.rep with coreLost := true } }).recompute).enterHold 6#8
    | some r =>
      if i.sram.any (fun f => f.has < f.needs) then s.enterHold 6#8
      else
        let s := if r.map != s.rep.map then s.report 5 else s
        let s := { s with rep := r.fixSram i.sram }
        let s := if s.boot.stage.toNat < 8 then s.stage 8 else s
        if !i.hbmOk then s.enterHold 7#8 else (if s.boot.stage.toNat < 9 then s.stage 9 else s).bootD2d

/-- LNK_EN is raised once TN_PG is high (21:R817). -/
def State.bootLink (s : State) : State :=
  let s := s.updBoot (fun b => { b with lnkEn := true, pgSince := s.xtal })
  if (s.boot.inputs.any StartInputs.lnkPg) then s.bootBist else s.updBoot (fun b => { b with wait := .linkPg })

/-- The top-note rails get their settings and TN_EN is raised (21:R814, R817). Without a clock on REFIN the data-plane PLL does not lock, which
counts as TN_PG low (21:R820). -/
def State.bootTop (s : State) : State :=
  let s := s.runRails.updBoot (fun b => { b with tnEn := true, pgSince := s.xtal })
  if (s.boot.inputs.any (fun i => i.tnPg && i.refIn)) then s.bootLink else s.updBoot (fun b => { b with wait := .topPg })

/-! ## WAKE (01:R39, R41; 14:R584; 16:R706; 21:R817, R818) -/

/-- An exit from retention towards `p` raises LNK_EN, waits for LNK_PG, and aligns the die-to-die interface. -/
def State.wakeRetained (s : State) (p : PState) : State :=
  let up := s.boot.lnkEn
  let s := s.runRails.updBoot (fun b => { b with waking := some p, depth := Vector.replicate 8 none })
  if up then s.bootD2d
  else
    let s := s.updBoot (fun b => { b with lnkEn := true, pgSince := s.xtal })
    if s.boot.inputs.any StartInputs.lnkPg then s.bootD2d else s.updBoot (fun b => { b with wait := .linkPg })

/-- WAKE: the data plane runs again; from heart only it starts cold, by steps 8 to 10 (R41). A device whose start-up is not over, or that is in
Safe hold, does not wake. -/
def State.wake (s : State) : State :=
  if (s.boot.wait != .done && s.boot.wait != .links) || s.boot.hold != 0#8 then s
  else match s.pstate with
    | .idle => { s with pstate := .run }
    | .retention => s.wakeRetained .retention
    | .heartOnly => (s.updBoot (fun b => { b with waking := some .heartOnly })).bootTop
    | _ => s

def execWake (s : State) : Res := .next s.wake

/-! ## The end of Quench (16:R699) -/

/-- QUENCH_EXIT: after 64 ticks QUENCH_N is released and the device goes back to where it was, at Floor, from which the level climbs. The data
plane leaves retention by an alignment of the die-to-die interface (14:R584), then goes on. -/
def State.quenchExit (s : State) : State :=
  if s.pstate == .quench && s.quenchClears && s.power.quenchCool.any (fun t => t + ticksNs 64 ≤ s.xtal) then
    let back := s.power.quenchFrom
    let s := s.updPower (fun p => { p with level := 0#3, quenchN := true, quenchCool := none, climbing := true, idleSince := s.xtal })
    let s := { s with pstate := if back = PState.heartOnly then .heartOnly else .retention }
    let s := if s.boot.wait == .d2d then (if back = PState.heartOnly then s else s.runRails).bootD2d
      else if back = PState.heartOnly || s.boot.wait == .linkPg then s
      else s.wakeRetained (if back = PState.run then .run else .idle)
    s.event 2 [s.pwrStat]
  else s

def execQuenchExit (s : State) : Res := .next s.quenchExit

/-! ## Step 7: firmware; the alias key is drawn (19:R763) and the regulators' limits are written (21:R816) -/

/-- The alias certificate of a start, from the draws of its key and of its signature's number (19:R763, R765). -/
def State.makeAlias (s : State) (k n : Nat) : AliasCert :=
  let pub := publicKey (scalarOf k)
  let ext := s.aliasExtension
  { key := pub, ext := ext,
    sig := ecdsaSign ((s.boot.inputs.map (fun i => (StartInputs.root i).identity)).getD 0#384).toNat (scalarOf n) (sha384 (Config.aliasTbs pub ext)) }

def State.bootFirmware (s : State) : State :=
  let (s, k) := s.drawKey
  let (s, n) := s.drawKey
  let s := { s with sec := { s.sec with aliasKey := k, aliasCert := some (s.makeAlias k n) } }
  let s := (s.emit (.pmbus 0 1400)).emit (.pmbus 1 1400)
  if s.boot.inputs.any StartInputs.fwRuns then
    (({ s with mgmt := { s.mgmt with fwrun := true } }).stage 7).bootTop
  else s.updBoot (fun b => { b with wait := .firmware, pgSince := s.xtal })

/-! ## Steps 5 and 6: the image (R718 to R724) -/

/-- Links of the link map leave UNMAPPED (12:R508). -/
def mapLinks (g : ImageSettings) (v : Vector Link 35) : Vector Link 35 :=
  g.linkMap.foldl (fun (v : Vector Link 35) e => v.set e.1 { v[e.1] with st := .down }) v

/-- The image of a flash slot that is valid under the key that the fuses name. -/
def State.slotImage (s : State) (x : Slot) : Option SlotImage :=
  validSlot ((s.boot.inputs.map (fun i => (StartInputs.root i).imageKeyHash)).getD 0#384) x

def State.bootImage (s : State) : State :=
  match s.boot.inputs with
  | none => s
  | some i =>
    -- step 5 is complete once an image has been read whole
    let s := if (readImage s.boot.slotA).isSome || (readImage s.boot.slotB).isSome then s.stage 5 else s
    let a := s.slotImage s.boot.slotA
    let b := s.slotImage s.boot.slotB
    match chooseSlot a b (StartInputs.root i).bootSel with
    | none => s.enterHold 4#8
    | some (useB, m, conflict, invalid) =>
      let s := if conflict then s.report 0 else s
      let s := if invalid then s.report 1 else s
      let s := (s.stage 6).updBoot (fun x => { x with
        slot := useB, image := some m, version := m.version, other := otherState (if useB then a else b) m.version })
      let s := { s with links := mapLinks m.settings s.links }
      if m.settings.quadSlot.any (fun q => q != s.boot.qslot) then s.enterHold 9#8 else s.bootFirmware

/-! ## Step 4: heart domain (21:R817, R822) -/

/-- HRT_PG is high: QRST_OUT_N rises, the heart domain starts, and the keys of the start and JOURNAL_ID are drawn (19:R772,
15:R665). A start whose fuses failed ends here, in Safe hold (R716, R717, R726). -/
def State.heartUp (s : State) : State :=
  let s := s.updBoot (fun b => { b with qrstOut := true })
  let (s, a) := s.drawKey
  let (s, b) := s.drawKey
  let (s, j) := s.drawKey
  let s := { s with sec := { s.sec with devHbm := a, devSave := b }, journal := { s.journal with ident := natW (Config.random j) } }
  if s.boot.failed != 0#8 then s.enterHold s.boot.failed else (s.stage 4).bootImage

def State.bootHeart (s : State) : State :=
  let s := s.updBoot (fun b => { b with hrtEn := true, pgSince := s.xtal })
  if s.boot.inputs.any StartInputs.hrtPg then s.heartUp else s.updBoot (fun b => { b with wait := .heartPg })

/-! ## Step 3: fuses (R715 to R717) -/

/-- A die's Temper table from its fuses: VAPP starts at VNOM − TRIM. -/
def temperOf (l : List TemperEntry) : Vector Temper 8 :=
  Vector.ofFn (fun i =>
    let e := l.getD i.val ⟨0#10, 0#6⟩
    ⟨e.vnom, e.trim, e.vnom - e.trim.setWidth 10, false, none⟩)

/-- The repair map of a die in force (18:R740): of its two spare lanes, a die-to-die lane group keeps those that test did not use. -/
def Repair.setDie (r : Repair) (d : DieId) (m : RivetMap) : Repair :=
  let lanes {α : Type} (v : Vector α 8) (f : List Nat → α) : Vector α 8 :=
    Vector.ofFn (fun i => if i.val / 4 == d.val then f (m.d2dLanes.getD (i.val % 4) []) else v[i])
  { r with good := r.good.set d m.good, repaired := r.repaired.set d (Vector.ofFn (fun i => m.repaired.getD i.val ArrayFix.none)),
           d2dLeft := lanes r.d2dLeft (fun l => 2 - l.length), d2dTest := lanes r.d2dTest (fun l => 2 - l.length), d2dLanes := lanes r.d2dLanes id,
           sram := r.sram.set d m.sram,
           map := Vector.ofFn (fun i => if i.val / 16 == d.val then ⟨false, m.serve.getD (i.val % 16) 0#5⟩ else r.map[i]) }

/-- The Rivet map of a die is chosen; a Safe-hold cause where it cannot be trusted (R716). -/
def State.senseRivet (s : State) (f : Fuses) (d : DieId) : State × BitVec 8 :=
  match chooseRivet f.rivet with
  | .conflict => (s, 1#8)
  | .lost => (s, 2#8)
  | .use m deg => ({ (if deg then s.report (2 + d.val) else s) with rep := s.rep.setDie d m }, 0#8)

/-- The Temper table of a die is chosen (R717). -/
def State.senseTemper (s : State) (f : Fuses) (d : DieId) : State × BitVec 8 :=
  match chooseTemper f.temper with
  | .use t deg => ((if deg then s.report 4 else s).updPower (fun p => { p with temper := p.temper.set d (temperOf t) }), 0#8)
  | _ => (s, 3#8)

/-- The fuses of one die. -/
def State.senseDie (s : State) (f : Fuses) (d : DieId) : State × BitVec 8 :=
  let r := s.senseRivet f d
  let t := r.1.senseTemper f d
  (t.1, if r.2 != 0#8 then r.2 else t.2)

/-- Step 3: both dies' blocks are sensed. Where they cannot be trusted the heart domain starts all the same, and Safe hold follows (log 123). -/
def State.bootFuses (s : State) : State :=
  match s.boot.inputs with
  | none => s
  | some i =>
    let r0 := s.senseDie (i.fuses.getD 0 ⟨0, 0#32, 0#8, [], [], none⟩) 0
    let r1 := r0.1.senseDie (i.fuses.getD 1 ⟨1, 0#32, 0#8, [], [], none⟩) 1
    let cause := if r0.2 != 0#8 then r0.2 else r1.2
    ((if cause == 0#8 then r1.1.stage 3 else r1.1).updBoot (fun b => { b with failed := cause })).bootHeart

/-! ## Steps 1 and 2 (21:R813, R822, R823) -/

/-- After step 2 the device waits for its turn in the reset chain. -/
def State.bootChain (s : State) : State :=
  let s := s.stage 2
  if s.boot.qrstIn then s.bootFuses else s.updBoot (fun b => { b with wait := .chain, chainFrom := s.xtal })

/-- What the base-note domain's trip logic holds through a requested cold restart (01:R38, R40): the lines QUENCH_N and VR_ALERT_N, and Quench and
Floor themselves. -/
def Power.tripLogic (p : Power) (quench : Bool) : Power :=
  let floor := p.alertLow || p.floorHold.isSome
  { Power.reset with
    temps := p.temps, quenchN := p.quenchN, quenchInLow := p.quenchInLow, quenchCool := p.quenchCool, quenchFrom := .heartOnly, alertLow := p.alertLow,
    floorHold := p.floorHold, floored := p.floored, level := if floor || quench then 0#3 else Power.reset.level, climbing := p.climbing && !floor && !quench }

/-- The state that a cold start begins from: reset, with what waits and what left kept, and the flash, as the board may have rewritten it. -/
def State.coldState (s : State) (i : StartInputs) : State :=
  let r := State.reset
  { r with pending := s.pending, out := s.out, us := s.us, fresh := s.fresh, keys := s.keys, ats := s.ats, pri := s.pri,
           pstate := .heartOnly, boot := { r.boot with inputs := some i, pwrgd := true, xspiRstN := true, slotA := i.slotA.getD s.boot.slotA,
                                                       slotB := i.slotB.getD s.boot.slotB } }

/-- COLD_START: power-good with no supply before; straps are sampled, and the steps run as far as their waits are over. -/
def State.coldStart (s : State) (i : StartInputs) : State :=
  if s.boot.pwrgd then s
  else
    -- slot 0 passes its reference clock on (21:R821)
    let s := ((s.coldState i).stage 1).updBoot (fun b => { b with
      qslot := i.qslot, qrstIn := i.qrstIn, refOut := if i.qslot == 0#2 && i.refIn then 7#3 else 0#3 })
    if i.crystal then (s.updBoot (fun b => { b with crystal := true })).bootChain
    else s.updBoot (fun b => { b with wait := .crystal })

def execColdStart (i : StartInputs) (s : State) : Res := .next (s.coldStart i)

/-- CRYSTAL_STABLE: the device time counter starts at 0. -/
def execCrystalStable (s : State) : Res :=
  .next (if s.boot.wait == .crystal then
      (({ s with time := 0 }).updBoot (fun b => { b with crystal := true })).bootChain
    else s)

/-- QRST_IN_RELEASE. -/
def execQrstInRelease (s : State) : Res :=
  let s := s.updBoot (fun b => { b with qrstIn := true })
  .next (if s.boot.wait == .chain then s.bootFuses else s)

/-- QRST_IN_TIMEOUT: 1 s after step 2. -/
def execQrstInTimeout (s : State) : Res :=
  .next (if s.boot.wait == .chain && s.boot.chainFrom + 1000000000 ≤ s.xtal then s.bootFuses else s)

/-- REGULATOR_POWER_GOOD of group H (0), T (1) or L (2). -/
def execRegulatorPowerGood (grp : Fin 3) (s : State) : Res :=
  .next (match s.boot.wait, grp with
    | .heartPg, 0 => s.heartUp
    | .topPg, 1 => if s.boot.inputs.any StartInputs.refIn then s.bootLink else s
    | .linkPg, 2 => if s.boot.waking == some .retention then s.bootD2d else s.bootBist
    | _, _ => s)

/-- POWER_GOOD_TIMEOUT: TN_PG or LNK_PG not high within 20 ms of its enable at step 8; at a wake from retention the wake is late (21:R818). -/
def execPowerGoodTimeout (s : State) : Res :=
  .next (if (s.boot.wait == .topPg || (s.boot.wait == .linkPg && s.boot.waking != some .retention)) && s.boot.pgSince + 20000000 ≤ s.xtal then s.enterHold 6#8 else s)

/-- FW_START_TIMEOUT: 500 ms after step 7 began. -/
def execFwStartTimeout (s : State) : Res :=
  .next (if s.boot.wait == .firmware && s.boot.pgSince + 500000000 ≤ s.xtal then s.enterHold 5#8 else s)

/-- Retry status may have stopped: step 10 is complete or the device is in Safe hold (R729). -/
def Boot.mayAnswer (b : Boot) : Bool := 10 ≤ b.stage.toNat || b.hold != 0#8

/-- PCIE_READY. -/
def execPcieReady (s : State) : Res :=
  .next (if s.boot.mayAnswer && !s.boot.retry then s.updBoot (fun b => { b with ready := true }) else s)

/-- FUNDAMENTAL_RESET_RELEASE: a warm reset by the fundamental reset ends. -/
def execFundamentalResetRelease (s : State) : Res :=
  .next (s.updBoot (fun b => { b with retry := false, ready := b.ready || b.mayAnswer }))

/-- POWER_DOWN: PWRGD falls, the enables drop, and everything is lost but what the flash holds (R733). -/
def execPowerDown (s : State) : Res :=
  .next { State.reset with pending := s.pending, out := s.out, us := s.us, fresh := s.fresh, keys := s.keys, ats := s.ats, pri := s.pri,
                           boot := { State.reset.boot with slotA := s.boot.slotA, slotB := s.boot.slotB } }

/-- The management plane answers: from step 7 on, and in Safe hold (20:R797). -/
def State.mgmtUp (s : State) : Bool := 7 ≤ s.boot.stage.toNat || s.safeHold

/-! ## Requested cold restart (17:R712, R713) -/

/-- The commands whose work is done complete: record, interrupt and journal. -/
def State.completeDone (s : State) : State :=
  (List.finRange 64).foldl (fun s q => if ((s.flight q).bind Flight.done).isSome then s.commandComplete q true else s) s

/-- Every context is zeroized as ZEROIZE does it, and the start begins again at step 3; the base-note domain keeps time, straps and trip logic. The
management plane asks for it, once it answers. -/
def State.coldRestart (s : State) (i : StartInputs) : State :=
  if !s.mgmtUp || s.pstate == .off || s.boot.staging == 1#2 then s
  else
    let s := s.wipeAll.completeDone
    let b := s.boot
    let t := s.coldState i
    let quench := s.pstate == .quench
    (({ t with time := s.time, pstate := if quench then .quench else .heartOnly, power := s.power.tripLogic quench }).stage 2).updBoot (fun x =>
      { x with qslot := b.qslot, qrstIn := b.qrstIn, crystal := true, qrstOut := b.qrstOut, refOut := b.refOut }) |>.bootFuses

/-- REQUESTED_COLD_RESTART. -/
def execRequestedColdRestart (i : StartInputs) (s : State) : Res := .next (s.coldRestart i)

/-! ## Warm reset (17:R735, R736; 15:R663) -/

/-- Commands in flight end: their entries are abandoned, and a WARM_RESET entry is added. -/
def State.abandon (s : State) : State :=
  let t := natW s.time
  let j := { s.journal with entries := s.journal.entries.map (fun (e : JEntry) =>
    if e.phase == .accepted || e.phase == .started then { e with phase := .abandoned, tDone := t } else e) }
  ({ s with journal := j, queues := s.queues.map (fun (q : Queue) => { q with cur := none }) }).devEntry 0x13#5 0#64 0#20 0

/-- The PCIe port and the heart domain are up, from step 4 on (R714, R729). -/
def State.heartOn (s : State) : Bool := 4 ≤ s.boot.stage.toNat || s.safeHold

/-- WARM_RESET. A management request clears the dynamic address too (20:R793). -/
def State.warmReset (s : State) (cause : WarmCause) : State :=
  if !s.heartOn then s
  else
    let s := s.abandon
    let s := s.ctxs.foldl State.wipe s
    let s := (List.finRange 256).foldl State.htgCut s
    let s := { s with
      queues := Vector.replicate 64 Queue.reset
      ring := Ring.reset
      caches := s.caches.map (fun (c : Cache) =>
        { c with flush := false, inv := false, enNext := none, classes := Cache.reset.classes }.setEn true)
      htg := s.htg.map (fun (h : Htg) => { Htg.reset with wrote := h.wrote })
      sec := { s.sec with jkeys := [], secrets := [] }
      mgmt := { s.mgmt with dyn := 0#7 } }
    s.updBoot (fun b => { b with warm := true, retry := cause == .fundamental, ready := b.ready && cause != .fundamental })

def execWarmReset (cause : WarmCause) (s : State) : Res := .next (s.warmReset cause)

/-! ## Staging (17:R732 to R734; 20:R804 to R806) -/

/-- The inactive slot holds what a staging leaves: with no valid image while it is written. -/
def Boot.putSlot (b : Boot) (x : Slot) : Boot :=
  let b := { b with other := 0#2 }
  if b.slot then { b with slotA := x } else { b with slotB := x }

/-- The inactive slot. -/
def Boot.idleSlot (b : Boot) : Slot := if b.slot then b.slotA else b.slotB

/-- A staging begins over PLDM or DOE: the inactive slot is erased. -/
def State.stageStart (s : State) (pldm : Bool) : State :=
  s.updBoot (fun b => { (b.putSlot Slot.erased) with staging := 1#2, path := some pldm, stBytes := 0, stLast := s.xtal })

def State.stagingNow (s : State) : Bool := s.boot.staging == 1#2

/-- A block of the image arrives in its turn, and is written. -/
def State.stageData (s : State) (pldm : Bool) (offset : Nat) (bytes : List Byte) : State :=
  let b := s.boot
  if s.stagingNow && b.path == some pldm && offset == b.stBytes && bytes.length ≤ 4096 && offset + bytes.length ≤ 0x2000000 then
    s.updBoot (fun b => { (b.putSlot { b.idleSlot with bytes := b.idleSlot.bytes ++ bytes }) with stBytes := b.stBytes + bytes.length, stLast := s.xtal })
  else s

def execStagingData (pldm : Bool) (offset : Nat) (bytes : List Byte) (s : State) : Res := .next (s.stageData pldm offset bytes)

/-- The staging ends, with the slot it leaves and its outcome. -/
def State.stageEnd (s : State) (x : Slot) (code : BitVec 2) : State :=
  let s := s.updBoot (fun b => { (b.putSlot x) with staging := code, path := none, update := b.update && code == 3#2,
                                                    other := if code == 3#2 then 2#2 else 0#2 })
  s.event 0xB [s.boot.otherWord]

/-- The written slot is checked: valid (R723), with VERSION above the one in use, or refused and erased. `f` is what its section values hold. -/
def State.stageCheck (s : State) (f : SectionFields) : State :=
  if !s.stagingNow then s
  else
    let x := { s.boot.idleSlot with fields := some f }
    if otherState (s.slotImage x) s.boot.version == 2#2 then s.stageEnd x 3#2 else s.stageEnd Slot.erased 2#2

def execStagingCheck (img : SectionFields) (s : State) : Res := .next (s.stageCheck img)

/-- STAGING_TIMEOUT: no data for 60 s. -/
def execStagingTimeout (s : State) : Res :=
  .next (if s.stagingNow && s.boot.stLast + 60000000000 ≤ s.xtal then s.stageEnd Slot.erased 2#2 else s)

/-- PLDM firmware update commands (DSP0267), as kinds of answers, and their completion codes. -/
def pldmRequestUpdate : Nat := 0x510
def pldmPassTable : Nat := 0x513
def pldmUpdateComponent : Nat := 0x514
def pldmActivate : Nat := 0x51A
def alreadyInUpdateMode : Nat := 0x81
def notInUpdateMode : Nat := 0x80

/-- The data object type of DOE staging (20:R805), and the code of its refusal. -/
def doeStaging : Nat := 0x01
def stagingRefused : Nat := 0x01

/-- An answer of the management plane, while it answers. -/
def State.answer (s : State) (kind code : Nat) (body : List Nat) : State :=
  if s.mgmtUp then s.emit (.reply kind code body) else s

/-- An accepted action waits for its tick edge, and with it the answer to the PLDM request that asked for it (20:R796). -/
def State.pldmBusy (s : State) : Bool := !s.mgmt.actions.isEmpty

/-- A PLDM request (R796): one that arrives before an earlier one is answered is discarded; so is one before step 7 (R797). -/
def State.pldm (s : State) (f : State → State) : State := if !s.mgmtUp || s.pldmBusy then s else f s

/-- REQUEST_UPDATE: refused while a staging runs over any path, or in update mode. -/
def execRequestUpdate (s : State) : Res :=
  .next (s.pldm fun s =>
    if s.stagingNow || s.boot.update then s.answer pldmRequestUpdate alreadyInUpdateMode []
    else (s.updBoot (fun b => { b with update := true })).answer pldmRequestUpdate 0 [])

/-- The component and size are those that the device takes. -/
def componentOk (ident : BitVec 16) (size : Nat) : Bool := ident == 1#16 && size ≤ 0x2000000

/-- PASS_COMPONENT_TABLE: the response byte says whether the component can be updated. -/
def execPassComponentTable (ident : BitVec 16) (size : Nat) (s : State) : Res :=
  .next (s.pldm fun s =>
    if !s.boot.update then s.answer pldmPassTable notInUpdateMode []
    else s.answer pldmPassTable 0 [if componentOk ident size then 0 else 1])

/-- UPDATE_COMPONENT: the inactive slot is erased and the staging begins. -/
def execUpdateComponent (ident : BitVec 16) (size : Nat) (s : State) : Res :=
  .next (s.pldm fun s =>
    if !s.boot.update then s.answer pldmUpdateComponent notInUpdateMode []
    else if !componentOk ident size || s.stagingNow then s.answer pldmUpdateComponent 0 [1]
    else (s.stageStart true).answer pldmUpdateComponent 0 [0])

/-- ACTIVATE_FIRMWARE: a cold start is required; nothing changes but the end of update mode. -/
def execActivateFirmware (s : State) : Res :=
  .next (s.pldm fun s =>
    if !s.boot.update then s.answer pldmActivate notInUpdateMode []
    else (s.updBoot (fun b => { b with update := false })).answer pldmActivate 0 [])

/-- DOE_STAGING_OBJECT: the first object at offset 0 begins a staging, once the firmware runs; an object with no data asks for the check, whose
response holds BOOT_OTHER. A request for a second staging is refused (R732, log 163). -/
def State.doeObject (s : State) (offset : Nat) (bytes : List Byte) (img : SectionFields) : State :=
  if bytes.isEmpty then
    if s.stagingNow && s.boot.path == some false then
      let s := s.stageCheck img
      s.emit (.reply doeStaging 0 [s.boot.otherWord.toNat])
    else s
  else if s.stagingNow && s.boot.path == some false then s.stageData false offset bytes
  else if s.stagingNow then s.answer doeStaging stagingRefused [s.boot.otherWord.toNat]
  else if offset == 0 && s.mgmtUp then (s.stageStart false).stageData false offset bytes
  else s

def execDoeStagingObject (offset : Nat) (bytes : List Byte) (img : SectionFields) (s : State) : Res :=
  .next (s.doeObject offset bytes img)

end Sys2Proof.Machine
end

