-- ==== Sys2Proof/Machine/Security.lean ====
section
/-! DEFINITION. SPDM, tenant secrets, debug authorisation and PCIe IDE (19:R763 to R791): what the device answers to a request, and
what debug mode lets the management plane reach. -/

namespace Sys2Proof.Machine

def State.updSec (s : State) (f : Security → Security) : State := { s with sec := f s.sec }

/-! ## SPDM (R765 to R768) -/

/-- SPDM request codes and error codes (DSP0274 1.3), as kinds and codes of answers; code 0 is success. -/
def spdmChallenge : Nat := 0x83
def spdmMeasurements : Nat := 0xE0
def spdmVendor : Nat := 0xFE
def spdmInvalid : Nat := 0x01
def spdmBusy : Nat := 0x03
def spdmUnexpected : Nat := 0x04
def spdmDecrypt : Nat := 0x06

/-- The words of an answer that one MGMT message carries, beside its kind and code. -/
def spdmChunk : Nat := 28

/-- An SPDM answer: over DOE and MCTP as it is, over a link as MGMT messages between its ends on VC5 (12:R516, R522; log 73). -/
def State.spdm (s : State) (t : Transport) (kind code : Nat) (body : List Nat) : State := match t with
  | .fabric l =>
    if !s.mgmtUp || ((s.link l).st != .up && (s.link l).st != .attest) then s
    else (List.range ((body.length + spdmChunk - 1) / spdmChunk + b2n body.isEmpty)).foldl (fun s i =>
      s.push l (s.mgmtMsg 0xFFFF#16 mgmtSpdm (natW kind :: natW code :: ((body.drop (spdmChunk * i)).take spdmChunk).map natW))) s
  | _ => s.answer kind code body

/-- The value type of a measurement in the DMTF specification: boot ROM, hardware configuration, firmware, firmware configuration; a raw value sets
bit 7 (log 177). -/
def measureType (n : Nat) : Nat := [0, 0, 2, 1, 1, 3, 0x83].getD n 0

/-- A block in DMTF measurement-specification format (R768): index, specification, size, value type, value size, value. -/
def State.measureBlock (s : State) (n : Nat) : List Byte :=
  let v := if n == 6 then leBytes 8 (s.measurement 6) else beBytes 48 (s.measurement n)
  [BitVec.ofNat 8 n, 1#8] ++ leBytes 2 (3 + v.length) ++ [BitVec.ofNat 8 (measureType n)] ++ leBytes 2 v.length ++ v

/-- GET_MEASUREMENTS (R768): index 0 gives the number of blocks, 1 to 6 one block, 0xFF every block; the alias key signs. -/
def State.measure (s : State) (t : Transport) (index : BitVec 8) : State :=
  let blocks (l : List Nat) : List Nat := (l.flatMap s.measureBlock).map BitVec.toNat
  let key := s.sec.aliasKey
  if index == 0#8 then s.spdm t spdmMeasurements 0 [6, key]
  else if index == 0xFF#8 then s.spdm t spdmMeasurements 0 (6 :: blocks [1, 2, 3, 4, 5, 6] ++ [key])
  else if index.toNat ≤ 6 then s.spdm t spdmMeasurements 0 (1 :: blocks [index.toNat] ++ [key])
  else s.spdm t spdmMeasurements spdmInvalid []

def execGetMeasurements (t : Transport) (index : BitVec 8) (s : State) : Res := .next (s.measure t index)

/-- The alias certificate in DER. -/
def AliasCert.bytes (c : AliasCert) : List Byte := Config.aliasDer (Config.aliasTbs c.key c.ext) c.sig

/-- The chain of slot 0 (R765): the intermediate and the DeviceID certificate of the security policy section, then the alias certificate. -/
def State.certChain (s : State) : List Byte :=
  (s.secPolicy.map SecPolicy.chain).getD [] ++ (s.sec.aliasCert.map AliasCert.bytes).getD []

/-- GET_CERTIFICATE (R765): slot 0 alone is provisioned. -/
def execGetCertificate (t : Transport) (slot : BitVec 8) (s : State) : Res :=
  .next (if slot != 0#8 then s.spdm t spdmCertificate spdmInvalid [] else s.spdm t spdmCertificate 0 (s.certChain.map BitVec.toNat))

/-- CHALLENGE: slot 0 is answered with a signature by the alias key. -/
def execChallenge (t : Transport) (slot : BitVec 8) (s : State) : Res :=
  .next (if slot != 0#8 then s.spdm t spdmChallenge spdmInvalid [] else s.spdm t spdmChallenge 0 [s.sec.aliasKey])

/-- A further session fits: at most 4 over DOE and 4 over MCTP (R766). -/
def State.sessionFree (s : State) (t : Transport) : Bool :=
  t.onLink || (s.sec.sessions.filter (fun x => x.via == t)).length < 4

/-- KEY_EXCHANGE. -/
def State.keyExchange (s : State) (t : Transport) (mutualAuth : Bool) : State :=
  if !s.mgmtUp then s
  else if !s.sessionFree t then s.spdm t spdmKeyExchange spdmBusy []
  else
    let (s, n) := s.drawKey
    (s.updSec (fun x => { x with sessions := x.sessions ++ [⟨t, n, mutualAuth, false, n⟩] })).spdm t spdmKeyExchange 0 [n]

def execKeyExchange (t : Transport) (mutualAuth : Bool) (s : State) : Res := .next (s.keyExchange t mutualAuth)

/-- A session of a transport, set up or not. -/
def Session.isIt (x : Session) (t : Transport) (ident : Nat) (set_ : Bool) : Bool :=
  x.via == t && x.ident == ident && x.open_ == set_

def State.updSession (s : State) (t : Transport) (ident : Nat) (f : Session → Session) : State :=
  s.updSec (fun x => { x with sessions := x.sessions.map (fun y => if y.via == t && y.ident == ident then f y else y) })

/-- FINISH: a session begun by KEY_EXCHANGE is set up when what the request carries verifies; otherwise it is over. -/
def State.finishSession (s : State) (t : Transport) (r : FinishReq) : State :=
  if !s.mgmtUp then s
  else if !s.sec.sessions.any (fun x => x.isIt t r.session false) then s.spdm t spdmFinish spdmUnexpected []
  else if r.verifies then (s.updSession t r.session (fun x => { x with open_ := true })).spdm t spdmFinish 0 []
  else (s.updSec (fun x => { x with sessions := x.sessions.filter (fun y => !y.isIt t r.session false) })).spdm t spdmFinish spdmDecrypt []

def execFinish (t : Transport) (req : FinishReq) (s : State) : Res := .next (s.finishSession t req)

/-- KEY_UPDATE: the keys of a session are replaced. -/
def State.keyUpdate (s : State) (t : Transport) (session : Nat) : State :=
  if !s.mgmtUp then s
  else if s.sec.sessions.any (fun x => x.isIt t session true) then
    let (s, n) := s.drawKey
    (s.updSession t session (fun x => { x with key := n })).spdm t spdmKeyUpdate 0 []
  else s.spdm t spdmKeyUpdate spdmUnexpected []

def execKeyUpdate (t : Transport) (session : Nat) (s : State) : Res := .next (s.keyUpdate t session)

/-! ## Tenant secrets (R774) -/

/-- SET_TENANT_SECRET: only in a secure session with mutual authentication. -/
def State.setSecret (s : State) (t : Transport) (session : Option Nat) (p : Pasid) (v : BitVec 256) : State :=
  if !s.mgmtUp then s
  else if session.any (fun n => s.sec.sessions.any (fun x => x.isIt t n true && x.mutualAuth)) then
    (s.updSec (fun x => { x with secrets := x.secrets.filter (fun k => k.1 != p) ++ [(p, v)] })).spdm t spdmVendor 0 []
  else s.spdm t spdmVendor spdmUnexpected []

def execSetTenantSecret (t : Transport) (session : Option Nat) (pasid : Pasid) (secret : BitVec 256) (s : State) : Res :=
  .next (s.setSecret t session pasid secret)

/-! ## Debug authorisation (R786 to R788) -/

/-- The 32 bytes of a nonce, by its draw. -/
def nonceOf (k : Nat) : BitVec 256 := BitVec.ofNat 256 (Config.random k)

/-- How long a nonce is valid: 60 s. -/
def nonceNs : Nat := 60000000000

/-- GET_DEBUG_NONCE. -/
def State.debugNonce (s : State) : State :=
  if !s.mgmtUp then s
  else
    let (s, n) := s.drawKey
    let t := s.xtal
    (s.updSec (fun x => { x with nonce := some (n, t) })).answer spdmVendor 0 [(nonceOf n).toNat]

/-- The requests of debug authorisation travel over DOE or MCTP (R787). -/
def Transport.hosts : Transport → Bool
  | .doe | .mctp => true
  | .fabric _ => false

def execGetDebugNonce (t : Transport) (s : State) : Res := .next (if Transport.hosts t then s.debugNonce else s)

/-- DEBUG_NONCE_EXPIRY: 60 s after it was drawn. -/
def execDebugNonceExpiry (s : State) : Res :=
  .next (if s.sec.nonce.any (fun n => n.2 + nonceNs ≤ s.xtal) then s.updSec (fun x => { x with nonce := none }) else s)

/-- R787: every condition of a token. -/
def State.tokenOk (s : State) (t : DebugToken) : Bool :=
  (match s.secPolicy with
    | some g => g.debugAllow && t.keyHash == g.debugKeyHash
    | none => false) &&
  t.magic == 0x47424457#32 && t.version == 1#16 && t.rsv == 0#8 && t.scope != 0#8 && t.scope.toNat < 4 &&
  s.boot.inputs.any (fun i => RootFuses.deviceHash (StartInputs.root i) == t.device) &&
  s.sec.nonce.any (fun n => nonceOf n.1 == t.nonce && s.xtal < n.2 + nonceNs) && t.sigOk

/-- Every tenant secret and journal key is destroyed; DEV_HBM and DEV_SAVE are replaced; every session closes. -/
def State.dropKeys (s : State) : State :=
  let (s, a) := s.drawKey
  let (s, b) := s.drawKey
  s.updSec (fun x => { x with secrets := [], jkeys := [], devHbm := a, devSave := b, sessions := [] })

/-- A link in UP or ATTEST goes DOWN with CAUSE 0x8, and attests again (R788). -/
def State.debugLink (s : State) (l : LinkId) : State :=
  match (s.link l).st with
  | .up => s.leaveUp l 8#4
  | .attest => s.moveLink l { (s.link l).cleared with st := .down, cause := 8#4 }
  | _ => s

/-- R788: an accepted token, step by step. -/
def State.debugMode (s : State) (scope : BitVec 8) : State :=
  let s := s.wipeAll.dropKeys
  let s := { s with caches := s.caches.map (fun (c : Cache) => { c with lines := [], dwd := false, wwd := false, stale := false }) }
  let s := (List.range 35).foldl (fun s i => s.debugLink (Fin.ofNat 35 i)) s
  s.updSec (fun x => { x with debug := true, scope := scope.setWidth 2 })

/-- DEBUG_ENTER: the nonce is consumed; the token is accepted, or refused and counted. -/
def State.debugEnter (s : State) (tok : DebugToken) : State :=
  if !s.mgmtUp then s
  else
    let ok := s.tokenOk tok
    let s := s.updSec (fun x => { x with nonce := none })
    if ok then (s.debugMode tok.scope).answer spdmVendor 0 []
    else (s.updSec (fun x => { x with denied := satAdd x.denied 1 })).answer spdmVendor spdmInvalid []

def execDebugEnter (t : Transport) (tok : DebugToken) (s : State) : Res := .next (if Transport.hosts t then s.debugEnter tok else s)

/-! ## PCIe IDE (R778, R779) -/

/-- IDE_STREAM_STATE_CHANGE: stream 0 is the link stream, 1 to 4 the selective ones. -/
def execIdeStreamStateChange (stream : Fin 5) (secure : Bool) (s : State) : Res :=
  .next (s.updSec (fun x => { x with ide := x.ide.set stream secure }))

/-! ## Debug access to a core (R789) -/

/-- The core is in the handler of DEBUG_HALT, with debug mode's HALT. -/
def State.debugHalted (s : State) (c : CoreId) : Bool :=
  s.sec.debug && s.sec.scope.getLsbD 1 && s.dataPlane && !s.gated.getLsbD c.val &&
  (s.core c).level == .firmware && !(s.core c).dfault && ((s.core c).bank .firmware).trc == Cause.debugHalt.trc

/-- The size of a core's memory; 0 for a memory that no core has. -/
def coreMemBytes : MemKind → Nat
  | .scratchpad => 0x5800000
  | .imem => 0x100000
  | .dmem => 0x40000
  | _ => 0

/-- What one access does. -/
def State.debugAccess (s : State) (c : CoreId) : DebugAccess → State
  | .readReg r => s.emit (.debugData (leBytes 8 ((s.core c).reg r).toNat))
  | .writeReg r v => s.updCore c (fun k => k.setReg r v)
  | .readCsr n => match csrOf .firmware n.toNat with
    | some r => s.emit (.debugData (leBytes 8 ((s.core c).csrRead (s.csrEnv c) r).toNat))
    | none => s
  | .writeCsr n v => match csrOf .firmware n.toNat with
    | some r => s.updCore c (fun k => k.csrWrite v r)
    | none => s
  | .readVec a n => if a + n ≤ 0x40000 then s.emit (.debugData ((s.core c).vregs.getN a n)) else s
  | .writeVec a bs => if a + bs.length ≤ 0x40000 then s.updCore c (fun k => { k with vregs := k.vregs.put a bs }) else s
  | .readMask i => s.emit (.debugData (leBytes 8192 ((s.core c).masks[i]).toNat))
  | .writeMask i v => s.updCore c (fun k => { k with masks := k.masks.set i v })
  | .readMem m a n =>
    if a + n ≤ coreMemBytes m then
      match s.memRead m c a n with
      | (s, some bs) => s.emit (.debugData bs)
      | (s, none) => s.emit (.debugData [])
    else s
  | .writeMem m a bs => if a + bs.length ≤ coreMemBytes m then (s.memWrite m c a bs).1 else s

def execDebugCoreAccess (c : CoreId) (a : DebugAccess) (s : State) : Res :=
  .next (if s.debugHalted c then s.debugAccess c a else s)

end Sys2Proof.Machine
end

