-- ==== Sys2Proof/Machine/Mgmt.lean ====
section
/-! DEFINITION. The management plane (20): MCTP control, sensors, events, effecter actions and the tick at which they are published and
applied; and host register writes (20:R808). -/

namespace Sys2Proof.Machine

def State.updMgmt (s : State) (f : Mgmt → Mgmt) : State := { s with mgmt := f s.mgmt }

/-! ## Bus and transport (R793 to R796) -/

/-- MCTP control commands (DSP0236), as kinds of answers. -/
def mctpSetEid : Nat := 0x1001
def mctpGetEid : Nat := 0x1002
def mctpVersions : Nat := 0x1004
def mctpTypes : Nat := 0x1005

/-- DYNAMIC_ADDRESS_ASSIGN (R793): a device that holds a dynamic address no longer answers at the static one. -/
def execDynamicAddressAssign (addr : BitVec 7) (s : State) : Res :=
  .next (if s.mgmtUp && s.mgmt.dyn == 0#7 then s.updMgmt (fun m => { m with dyn := addr }) else s)

/-- SET_ENDPOINT_ID (R796). -/
def execSetEndpointId (eid : BitVec 8) (s : State) : Res :=
  .next (if s.mgmtUp then (s.updMgmt (fun m => { m with eid := eid })).answer mctpSetEid 0 [eid.toNat] else s)

def execGetEndpointId (s : State) : Res := .next (s.answer mctpGetEid 0 [s.mgmt.eid.toNat])

/-- The message types accepted (R795). -/
def mctpAccepted : List Nat := [0, 1, 5, 6]

/-- GET_MCTP_VERSION_SUPPORT: MCTP 1.3 for the base (0xFF) and for control; the manual gives no version number for the other types. -/
def State.versions (s : State) (mtype : BitVec 8) : State :=
  if mtype == 0xFF#8 || mtype == 0#8 then s.answer mctpVersions 0 [0xF1F3F000]
  else if mctpAccepted.contains mtype.toNat then
    let (s, n) := s.draw
    s.answer mctpVersions 0 [Config.free n]
  else s.answer mctpVersions 0x80 []

def execGetMctpVersionSupport (mtype : BitVec 8) (s : State) : Res := .next (s.versions mtype)

def execGetMessageTypeSupport (s : State) : Res := .next (s.answer mctpTypes 0 mctpAccepted)

/-- SMBUS_PEC_FAILURE (R794): the packet is discarded, and nothing is sent. -/
def execSmbusPecFailure (s : State) : Res := .next s

/-! ## Sensors (R798, R799) -/

/-- PLDM monitoring and control commands (DSP0248), as kinds of answers, and completion codes. -/
def pldmEventReceiver : Nat := 0x204
def pldmPoll : Nat := 0x20B
def pldmReading : Nat := 0x211
def pldmThresholds : Nat := 0x213
def pldmEffecter : Nat := 0x239
def pldmPdr : Nat := 0x251
def invalidSensor : Nat := 0x80
def invalidRecord : Nat := 0x82
def unsupportedCmd : Nat := 0x05

/-- A sensor of R799. -/
inductive Sensor where
  | tickPower | avgPower | energy
  | volts (d : DieId) | amps (d : DieId)
  | level | pstate | patina | boot
  | die (d : DieId) (n : Nat) | tier (d : DieId) (n : Nat) | stack (n : Nat) | optic (n : Nat)
  | forecast (k : FeedId) | module (k : FeedId)
  | link (l : LinkId)
  deriving DecidableEq, Repr

/-- The sensor of an identifier. -/
def sensorOf (n : Nat) : Option Sensor :=
  if n == 0x01 then some .tickPower
  else if n == 0x02 then some .avgPower
  else if n == 0x03 then some .energy
  else if n == 0x04 then some (.volts 0)
  else if n == 0x05 then some (.volts 1)
  else if n == 0x06 then some (.amps 0)
  else if n == 0x07 then some (.amps 1)
  else if n == 0x10 then some .level
  else if n == 0x11 then some .pstate
  else if n == 0x12 then some .patina
  else if n == 0x13 then some .boot
  else if 0x100 ≤ n && n < 0x160 then some (.die 0 (n - 0x100))
  else if 0x160 ≤ n && n < 0x1C0 then some (.die 1 (n - 0x160))
  else if 0x1C0 ≤ n && n < 0x200 then some (.tier (Fin.ofNat 2 ((n - 0x1C0) / 32)) ((n - 0x1C0) % 32))
  else if 0x200 ≤ n && n < 0x208 then some (.stack (n - 0x200))
  else if 0x210 ≤ n && n < 0x250 then some (.optic (n - 0x210))
  else if 0x300 ≤ n && n < 0x308 then
    some (if n % 2 == 0 then .forecast (Fin.ofNat 4 ((n - 0x300) / 2)) else .module (Fin.ofNat 4 ((n - 0x300) / 2)))
  else if 0x400 ≤ n && n < 0x423 then some (.link (Fin.ofNat 35 (n - 0x400)))
  else none

/-- A reading from a published set; none when the sensor is unavailable. -/
def Published.reading (p : Published) : Sensor → Option Int
  | .tickPower => some p.tickW
  | .avgPower => some p.avg1s
  | .energy => some p.energy
  | .volts d => (p.volts[d.val]?).map Int.ofNat
  | .amps d => (p.amps[d.val]?).map Int.ofNat
  | .level => some p.level
  | .pstate => some p.pstate
  | .patina => some p.patina
  | .boot => some p.boot
  | .die d n => (p.temps.die.getD d.val [])[n]?
  | .tier d n => (p.temps.tier.getD d.val [])[n]?
  | .stack n => p.temps.hbm[n]?
  | .optic n => p.temps.optic[n]?
  | .forecast k => (p.feeds[k.val]?).bind (fun f => f.2.map (fun _ => (f.1 : Int)))
  | .module k => (p.feeds[k.val]?).bind Prod.snd
  | .link l => (p.links[l.val]?).map Int.ofNat

/-- A reading as an answer carries it: 32 bits, two's complement. -/
def readingCode (v : Int) : Nat := (v % 2 ^ 32).toNat

/-- GET_SENSOR_READING: operational (0) with the value and the time stamp, or unavailable (2). -/
def State.readSensor (s : State) (id : BitVec 16) : State :=
  match sensorOf id.toNat with
  | none => s.answer pldmReading invalidSensor []
  | some x => match s.mgmt.pub.bind (fun p => (p.reading x).map (fun v => (v, p.stamp))) with
    | some (v, t) => s.answer pldmReading 0 [0, readingCode v, t]
    | none => s.answer pldmReading 0 [2]

def execGetSensorReading (id : BitVec 16) (s : State) : Res := .next (s.pldm (State.readSensor · id))

/-- SET_SENSOR_THRESHOLDS: ERROR_UNSUPPORTED_PLDM_CMD. -/
def execSetSensorThresholds (_ : BitVec 16) (s : State) : Res :=
  .next (s.pldm fun s => s.answer pldmThresholds unsupportedCmd [])

/-- Units of readings, as a PDR's answer numbers them. -/
def Sensor.unit : Sensor → Nat
  | .tickPower | .avgPower => 1
  | .energy => 2
  | .volts _ => 3
  | .amps _ => 4
  | .die _ _ | .tier _ _ | .stack _ | .optic _ | .module _ => 5
  | .forecast _ => 6
  | .level | .pstate | .patina | .boot | .link _ => 0

/-- The thresholds of R693: throttling, Quench. -/
def Sensor.thresholds : Sensor → List Nat
  | .die _ _ => [105, 115]
  | .tier _ _ => [95, 105]
  | .stack _ => [85, 95, 105]
  | .optic _ => [90, 100]
  | _ => []

/-- The identifiers of the state effecters (R802). -/
def isEffecter (n : Nat) : Bool := (0x20 ≤ n && n ≤ 0x22) || (0x30 ≤ n && n ≤ 0x37) || (0x40 ≤ n && n < 0x60)

/-- GET_PDR: the record of a sensor (0 state, 1 numeric) with its unit and thresholds, or of an effecter (2). -/
def State.readPdr (s : State) (id : BitVec 16) : State :=
  match sensorOf id.toNat with
  | some x => s.answer pldmPdr 0 ([id.toNat, if x.unit == 0 then 0 else 1, x.unit] ++ x.thresholds)
  | none => if isEffecter id.toNat then s.answer pldmPdr 0 [id.toNat, 2] else s.answer pldmPdr invalidRecord []

def execGetPdr (id : BitVec 16) (s : State) : Res := .next (s.pldm (State.readPdr · id))

/-! ## Events (R800, R801) -/

/-- SET_EVENT_RECEIVER. -/
def execSetEventReceiver (eid : BitVec 8) (s : State) : Res :=
  .next (s.pldm fun s => (s.updMgmt (fun m => { m with rcvr := some eid })).answer pldmEventReceiver 0 [])

/-- The oldest event leaves the queue; with room back after drops, one OVERFLOW event joins before any later event. -/
def Mgmt.popEvent (m : Mgmt) : Mgmt :=
  let rest := m.events.drop 1
  if m.owed == 0 then { m with events := rest } else { m with events := rest ++ [(0xC, [natW m.owed])], owed := 0 }

/-- POLL_FOR_PLATFORM_EVENT_MESSAGE: the oldest queued event, or none. -/
def State.poll_ (s : State) : State :=
  match s.mgmt.events with
  | [] => s.answer pldmPoll 0 []
  | (code, data) :: _ => (s.updMgmt Mgmt.popEvent).answer pldmPoll 0 (code :: data.map BitVec.toNat)

def execPollForPlatformEventMessage (s : State) : Res := .next (s.pldm State.poll_)

/-- PLATFORM_EVENT_MESSAGE: the oldest event goes to the receiver, with an in-band interrupt on I3C. -/
def State.sendEvent (s : State) : State :=
  if !s.mgmtUp then s
  else match s.mgmt.events, s.mgmt.rcvr with
    | (code, data) :: _, some r => (s.updMgmt Mgmt.popEvent).emit (.event r (s.mgmt.dyn != 0#7) code data)
    | _, _ => s

def execPlatformEventMessage (s : State) : Res := .next s.sendEvent

/-! ## Actions (R802, R803) -/

/-- The identifier of an action's effecter. -/
def Action.ident : Action → Nat
  | .coldRestart => 0x20
  | .warmReset => 0x21
  | .heartOnly => 0x22
  | .swapFeed k => 0x30 + k.val
  | .cancelSwap k => 0x34 + k.val
  | .debugHalt c => 0x40 + c.val

/-- The code with which an action is refused, and what refusing it leaves (LS_STAT.REASON); none when it may go on. -/
def State.actionRefused (s : State) : Action → Option (State × Nat)
  | .coldRestart => if s.stagingNow then some (s, 0x81) else none
  | .warmReset => none
  | .heartOnly => if s.ctxs.isEmpty then none else some (s, 0x80)
  | .swapFeed k => let r := s.swapFeed k; if r.2 then none else some (r.1, 0x83)
  | .cancelSwap k => if (s.feed k).st == .draining then none else some (s, 0x83)
  | .debugHalt _ => if s.sec.debug && s.sec.scope.getLsbD 1 then none else some (s, 0x82)

/-- A request is accepted until the next tick edge, or refused. -/
def State.askAction (s : State) (a : Action) : State :=
  match s.actionRefused a with
  | some (s, code) => s.answer pldmEffecter code [a.ident]
  | none => s.updMgmt (fun m => { m with actions := m.actions ++ [a] })

def execEffecterColdRestart (s : State) : Res := .next (s.pldm (State.askAction · .coldRestart))
def execEffecterWarmReset (s : State) : Res := .next (s.pldm (State.askAction · .warmReset))
def execEffecterHeartOnly (s : State) : Res := .next (s.pldm (State.askAction · .heartOnly))
def execEffecterSwapFeed (k : FeedId) (s : State) : Res := .next (s.pldm (State.askAction · (.swapFeed k)))
def execEffecterCancelSwap (k : FeedId) (s : State) : Res := .next (s.pldm (State.askAction · (.cancelSwap k)))
def execEffecterDebugHalt (c : CoreId) (s : State) : Res := .next (s.pldm (State.askAction · (.debugHalt c)))

/-- What a start finds when the management plane asks for it: what the last one found, with the flash slots as they are. -/
def Boot.again (b : Boot) : Option StartInputs := b.inputs.map (fun i => { i with slotA := none, slotB := none })

/-- An accepted action is applied and completes; the answer to a restart or reset goes out before it. -/
def State.act (s : State) (a : Action) : State :=
  match s.actionRefused a with
  | some (s, code) => s.answer pldmEffecter code [a.ident]
  | none =>
    let s' := s.answer pldmEffecter 0 [a.ident]
    match a with
    | .coldRestart => match s.boot.again with
      | some i => s'.coldRestart i
      | none => s'
    | .warmReset => s'.warmReset .management
    | .heartOnly => if s.pstate == .run || s.pstate == .idle || s.pstate == .retention then s'.enterHeartOnly else s'
    | .swapFeed k => (s'.swapFeed k).1
    | .cancelSwap k => (s'.cancelSwap k).1
    | .debugHalt c => s'.updCore c (fun k => { k with pHalt := true })

/-- The actions accepted so far, in order; a cold restart loses those behind it. -/
def State.actAll : List Action → State → State
  | [], s => s
  | .coldRestart :: l, s => if s.stagingNow then State.actAll l (s.act .coldRestart) else s.act .coldRestart
  | a :: l, s => State.actAll l (s.act a)

/-! ## The tick edge (R798, 16:R682) -/

/-- The reading of the start-up sensor: the step, or 0x100 and the Safe-hold cause. -/
def Boot.reading (b : Boot) : Nat := if b.hold == 0#8 then b.stage.toNat else 0x100 + b.hold.toNat

/-- The readings of the tick just ended. -/
def State.readings (s : State) (t : Temps) (volts amps : List Nat) : Published :=
  { stamp := s.time, tickW := s.power.tickW.toNat, avg1s := s.power.avg1s, energy := s.power.energyMj, volts := volts,
    amps := amps, level := s.power.level.toNat, pstate := s.pstate.code, patina := s.rep.level.toNat,
    boot := s.boot.reading, temps := t,
    feeds := s.feeds.toList.map (fun f => (f.forecast.toNat, f.module.map (fun (m : Module) => m.tempC))),
    links := s.links.toList.map (fun l => l.st.code) }

/-- TELEMETRY_PUBLISH: `t` holds the highest samples of the tick, `power`, `volts` and `amps` its averages; once in a tick
(R798, 00:R10). -/
def State.publish (s : State) (t : Temps) (power : Nat) (volts amps : List Nat) : State :=
  if !s.powered || !s.tickDue s.mgmt.pubTick then s
  else
    let s := (s.updPower (fun p => p.measure power)).updMgmt (fun m => { m with pubTick := some (tickNo s.xtal) })
    if !s.mgmtUp then s
    else
      let r := s.readings t volts amps
      let l := s.mgmt.actions
      State.actAll l (s.updMgmt (fun m => { m with pub := some r, actions := [] }))

def execTelemetryPublish (t : Temps) (power : Nat) (volts amps : List Nat) (s : State) : Res := .next (s.publish t power volts amps)

/-! ## Host register writes (R808; 01:R44, R59) -/

/-- A write of SC_STAT: WREJ is cleared by a 1 (10:R434). -/
def State.writeScStat (s : State) (d : DieId) (v : Word) : State :=
  let c := s.cache d
  s.setCache d { c with wrej := c.wrej && !v.getLsbD 6 }

/-- A write in a traffic generator's block; while START reads 1, only STOP acts (10:R452, R453). -/
def State.writeHtg (s : State) (n : Fin 256) (r : Nat) (v : Word) : State :=
  let h := s.htg[n]
  match r with
  | 0 => s.htgCtrl n v
  | 1 => if h.running then s else s.setHtg n { h with begin_ := v.setWidth 32, end_ := (v >>> 32).setWidth 32 }
  | 2 => if h.running then s else s.setHtg n { h with seed := v }
  | 3 => s.setHtg n { h with rej := h.rej && !v.getLsbD 3, done := h.done && !v.getLsbD 1 }
  | _ => s

/-- A write in a queue's block (15:R613, R614). -/
def State.writeCq (s : State) (q : QueueId) (r : Nat) (v : Word) : State :=
  let x := s.queue q
  match r with
  | 0 => if x.en || x.active then s else s.setQueue q { x with addr := (v >>> 12).setWidth 52 }
  | 1 => s.cqCtrl q v
  | 3 => s.setQueue q { x with dberr := x.dberr && !v.getLsbD 17 }
  | _ => s

/-- A write of LS_CTRL (13:R564). -/
def State.writeLs (s : State) (k : FeedId) (v : Word) : State :=
  let s := if v.getLsbD 0 then (s.swapFeed k).1 else s
  if v.getLsbD 1 then (s.cancelSwap k).1 else s

/-- A write of a fault-ring register (11:R499). -/
def State.writeRing (s : State) (r : Nat) (v : Word) : State :=
  match r with
  | 0 => ({ s with ring := s.ring.writeBase v }).ringRoom
  | 1 => s.writeHead v
  | 4 => { s with ring := { s.ring with ovec := (v >>> 8).setWidth 8, fvec := v.setWidth 8 } }
  | _ => s

/-- A 64-bit host write at a BAR0 offset; one that no register of its own takes is ignored. -/
def State.regWrite (s : State) (off : Nat) (v : Word) : State :=
  if off % 8 != 0 then s
  else if off == 0xA000 then s.updPower (fun p => { p with depart := p.depart && !v.getLsbD 18 })
  else if 0x5000 ≤ off && off < 0x5028 then s.writeRing ((off - 0x5000) / 8) v
  else match blockAt 0x4000 0x100 2 off with
  | some (d, o) => if o == 0 then s.scCtrl (Fin.ofNat 2 d) v else if o == 8 then s.writeScStat (Fin.ofNat 2 d) v else s
  | none =>
  match blockAt 0x6800 0x40 4 off with
  | some (k, o) => if o == 0 then s.writeLs (Fin.ofNat 4 k) v else s
  | none =>
  match blockAt 0x8000 0x20 64 off with
  | some (q, o) => s.writeCq (Fin.ofNat 64 q) (o / 8) v
  | none =>
  match blockAt 0x100000 0x40 256 off with
  | some (i, o) => s.writeHtg (Fin.ofNat 256 i) (o / 8) v
  | none => s

def execRegisterWrite (offset : BitVec 25) (v : Word) (s : State) : Res := .next (s.regWrite offset.toNat v)

end Sys2Proof.Machine
end

