-- ==== Sys2Proof/Machine/Clock.lean ====
section
/-! DEFINITION. What a microsecond without a command does: the device time counter, the counters of the cores whose clocks run, the
slots on the links, messages to the device itself, the tick boundary, and entry to clock-gated idle (02:R108, 12:R543, 16:R694, R706). -/

namespace Sys2Proof.Machine

/-- The frequency of a level in MHz (16:R669). -/
def levelMHz (l : BitVec 3) : Nat := [512, 1024, 1280, 1536, 1792, 2048, 2176, 2304].getD l.toNat 0

/-- Data-plane cycles of a tick (16:R667). -/
def levelCycles (l : BitVec 3) : Nat := [250000, 500000, 625000, 750000, 875000, 1000000, 1062500, 1125000].getD l.toNat 0

/-- The first microsecond of a tick: a tick is 15,625/32 µs (00:R10). -/
def tickStart (k : Nat) : Nat := (15625 * k + 31) / 32

/-- The data-plane cycles of a microsecond: the last one of a tick makes the tick's number exact (16:R670). -/
def stepCycles (l : BitVec 3) (us : Nat) : Nat :=
  let k := 32 * us / 15625
  if us + 1 < tickStart (k + 1) then levelMHz l else levelCycles l - levelMHz l * (tickStart (k + 1) - 1 - tickStart k)

/-- Clock edges counted by a core, with the stall that it is in (02:R108). -/
def Core.clock (k : Core) (n : Nat) : Core :=
  let w : Word := BitVec.ofNat 64 n
  { k with cycle := k.cycle + w, stlIssue := if k.stall == .issue then k.stlIssue + w else k.stlIssue,
           stlSync := if k.stall == .sync then k.stlSync + w else k.stlSync }

/-- The edges that a core receives in a microsecond: those that its quadrant passes, when its clock runs. A stretched cycle lasts
twice as long (16:R687, R688). -/
def State.edges (s : State) (c : CoreId) : Nat :=
  if s.runs && !s.gated.getLsbD c.val then
    stepCycles s.power.level s.us * (s.power.quads.toList.getD (c.val / 4) Quad.reset).ratio / (if s.power.stretched then 32 else 16)
  else 0

def State.clockCores (s : State) : State := { s with cores := Vector.ofFn (fun c => (s.cores[c]).clock (s.edges c)) }

/-- A correction still owed is made at 1 ns in each 10 µs (12:R543). -/
def State.slewNs (s : State) : Int :=
  if (s.us + 1) % 10 == 0 then (if 0 < s.fab.slew then 1 else if s.fab.slew < 0 then -1 else 0) else 0

/-- The device time counter over one microsecond. -/
def State.clockTime (s : State) : State :=
  let d := s.slewNs
  { s with time := ((s.time : Int) + 1000 + d).toNat, us := s.us + 1, fab := { s.fab with slew := s.fab.slew - d } }

/-- At a tick boundary the links' counts of uncorrectable codewords begin anew (12:R509). -/
def State.newTick (s : State) : State := { s with links := s.links.map (fun (l : Link) => { l with badWords := 0 }) }

/-- A device with nothing to do goes to clock-gated idle (16:R706). -/
def State.goIdle (s : State) : State :=
  if s.runs && s.isIdle then { s with pstate := .idle, power := { s.power with idleSince := s.xtal } } else s

/-- A microsecond passes; before the crystal is stable, nothing does. -/
def State.idle (s : State) : State :=
  if !s.boot.crystal then s
  else
    let old := tickNo s.xtal
    let s := s.loopback.clockCores.passSlots.clockTime
    let s := if tickNo s.xtal == old then s else s.newTick
    (if s.runs then s.wipeLeft else s).bootLinks.goIdle

end Sys2Proof.Machine
end

