-- ==== Sys2Proof/Machine/Dispatch.lean ====
section
/-! DEFINITION. exec: one arm per command, each one call of its meaning. -/

namespace Sys2Proof.Machine

def exec (i : Instr) (s : State) : Host.Outcome State Fault Refusal :=
  match i with
  | .integerAlu c fn rd ra rb => Sys2Proof.Machine.execIntegerAlu c fn rd ra rb s
  | .immediateAlu c op rd ra imm pfx => Sys2Proof.Machine.execImmediateAlu c op rd ra imm pfx s
  | .immediateShift c rd ra imm => Sys2Proof.Machine.execImmediateShift c rd ra imm s
  | .multiplyDivide c fn rd ra rb => Sys2Proof.Machine.execMultiplyDivide c fn rd ra rb s
  | .scalarFloatingPoint c fn rd ra rb => Sys2Proof.Machine.execScalarFloatingPoint c fn rd ra rb s
  | .scalarLoad c op rd ra imm pfx => Sys2Proof.Machine.execScalarLoad c op rd ra imm pfx s
  | .scalarStore c op rd ra imm pfx => Sys2Proof.Machine.execScalarStore c op rd ra imm pfx s
  | .storeBufferDrain c => Sys2Proof.Machine.execStoreBufferDrain c s
  | .branch c op ra rb off => Sys2Proof.Machine.execBranch c op ra rb off s
  | .jump c off => Sys2Proof.Machine.execJump c off s
  | .jal c off => Sys2Proof.Machine.execJal c off s
  | .jalr c rd ra imm pfx => Sys2Proof.Machine.execJalr c rd ra imm pfx s
  | .syscall c rd ra rb => Sys2Proof.Machine.execSyscall c rd ra rb s
  | .fwcall c rd ra rb => Sys2Proof.Machine.execFwcall c rd ra rb s
  | .tret c rd ra rb => Sys2Proof.Machine.execTret c rd ra rb s
  | .ifence c rd ra rb => Sys2Proof.Machine.execIfence c rd ra rb s
  | .sbdrain c rd ra rb => Sys2Proof.Machine.execSbdrain c rd ra rb s
  | .brk c rd ra rb => Sys2Proof.Machine.execBreak c rd ra rb s
  | .crr c rd ra csr => Sys2Proof.Machine.execCrr c rd ra csr s
  | .crw c rd ra csr => Sys2Proof.Machine.execCrw c rd ra csr s
  | .crset c rd ra csr => Sys2Proof.Machine.execCrset c rd ra csr s
  | .crclr c rd ra csr => Sys2Proof.Machine.execCrclr c rd ra csr s
  | .interruptTaken c running => Sys2Proof.Machine.execInterruptTaken c running s
  | .spintOver c => Sys2Proof.Machine.execSpintOver c s
  | .coreReset c => Sys2Proof.Machine.execCoreReset c s
  | .selfCheckFailure c => Sys2Proof.Machine.execSelfCheckFailure c s
  | .replay c => Sys2Proof.Machine.execReplay c s
  | .vld c f => Sys2Proof.Machine.execVld c f s
  | .vlds c f => Sys2Proof.Machine.execVlds c f s
  | .vst c f => Sys2Proof.Machine.execVst c f s
  | .vsts c f => Sys2Proof.Machine.execVsts c f s
  | .vgath c f => Sys2Proof.Machine.execVgath c f s
  | .vscat c f => Sys2Proof.Machine.execVscat c f s
  | .vectorFpArithmetic c f => Sys2Proof.Machine.execVectorFpArithmetic c f s
  | .vectorFpCompare c f => Sys2Proof.Machine.execVectorFpCompare c f s
  | .vectorIntegerArithmetic c f => Sys2Proof.Machine.execVectorIntegerArithmetic c f s
  | .vectorIntegerCompare c f => Sys2Proof.Machine.execVectorIntegerCompare c f s
  | .vectorFixedPoint c f => Sys2Proof.Machine.execVectorFixedPoint c f s
  | .vcmprs c f => Sys2Proof.Machine.execVcmprs c f s
  | .vxpand c f => Sys2Proof.Machine.execVxpand c f s
  | .vmov c f => Sys2Proof.Machine.execVmov c f s
  | .vcvt c f => Sys2Proof.Machine.execVcvt c f s
  | .maskLogic c f => Sys2Proof.Machine.execMaskLogic c f s
  | .msetMclr c f => Sys2Proof.Machine.execMsetMclr c f s
  | .mpopc c f => Sys2Proof.Machine.execMpopc c f s
  | .mfirst c f => Sys2Proof.Machine.execMfirst c f s
  | .vrsum c f => Sys2Proof.Machine.execVrsum c f s
  | .vrssq c f => Sys2Proof.Machine.execVrssq c f s
  | .vrmax c f => Sys2Proof.Machine.execVrmax c f s
  | .vrmin c f => Sys2Proof.Machine.execVrmin c f s
  | .vrargmax c f => Sys2Proof.Machine.execVrargmax c f s
  | .vmeanvar c f => Sys2Proof.Machine.execVmeanvar c f s
  | .vsoftmax c f => Sys2Proof.Machine.execVsoftmax c f s
  | .vsample c f => Sys2Proof.Machine.execVsample c f s
  | .vprefix c f => Sys2Proof.Machine.execVprefix c f s
  | .vwadd c f => Sys2Proof.Machine.execVwadd c f s
  | .aload c f => Sys2Proof.Machine.execAload c f s
  | .arun c f => Sys2Proof.Machine.execArun c f s
  | .arunComplete c => Sys2Proof.Machine.execArunComplete c s
  | .mxcfg c pfx word => Sys2Proof.Machine.execMxcfg c pfx word s
  | .mxmma c a b kr bank start sa sb fn => Sys2Proof.Machine.execMxmma c a b kr bank start sa sb fn s
  | .mxmmaComplete c => Sys2Proof.Machine.execMxmmaComplete c s
  | .mxepi c a ofmt act rs cs bi rsv fn => Sys2Proof.Machine.execMxepi c a ofmt act rs cs bi rsv fn s
  | .mxdrainDrain c d p rsv bank sr fn => Sys2Proof.Machine.execMxdrainDrain c d p rsv bank sr fn s
  | .mxdrainFill c d p rsv bank sr fn => Sys2Proof.Machine.execMxdrainFill c d p rsv bank sr fn s
  | .mxdrainComplete c => Sys2Proof.Machine.execMxdrainComplete c s
  | .sigpost c rd ra rb => Sys2Proof.Machine.execSigpost c rd ra rb s
  | .sigpostEffect c => Sys2Proof.Machine.execSigpostEffect c s
  | .sigwait c rd ra rb => Sys2Proof.Machine.execSigwait c rd ra rb s
  | .safept c rd ra rb => Sys2Proof.Machine.execSafept c rd ra rb s
  | .checkpointComplete c => Sys2Proof.Machine.execCheckpointComplete c s
  | .dqueue c rd ra rb => Sys2Proof.Machine.execDqueue c rd ra rb s
  | .dwait c rd ra rb => Sys2Proof.Machine.execDwait c rd ra rb s
  | .descriptorStart ch => Sys2Proof.Machine.execDescriptorStart ch s
  | .descriptorAccess ch host => Sys2Proof.Machine.execDescriptorAccess ch host s
  | .descriptorComplete ch host => Sys2Proof.Machine.execDescriptorComplete ch host s
  | .atsTranslationCompletion ch reply => Sys2Proof.Machine.execAtsTranslationCompletion ch reply s
  | .prgResponse ch code => Sys2Proof.Machine.execPrgResponse ch code s
  | .priStop => Sys2Proof.Machine.execPriStop s
  | .atsInvalidationRequest pasid va bytes => Sys2Proof.Machine.execAtsInvalidationRequest pasid va bytes s
  | .streamPrefetch ch => Sys2Proof.Machine.execStreamPrefetch ch s
  | .frBaseWrite v => Sys2Proof.Machine.execFrBaseWrite v s
  | .frHeadWrite v => Sys2Proof.Machine.execFrHeadWrite v s
  | .scratchpadPatrolScrub c offset found => Sys2Proof.Machine.execScratchpadPatrolScrub c offset found s
  | .memoryPatrol k unit addr found => Sys2Proof.Machine.execMemoryPatrol k unit addr found s
  | .lineRequestRead cls addr n hbmBad sramBad => Sys2Proof.Machine.execLineRequestRead cls addr n hbmBad sramBad s
  | .lineRequestWrite cls addr d => Sys2Proof.Machine.execLineRequestWrite cls addr d s
  | .atomicLineRequest cls op addr d => Sys2Proof.Machine.execAtomicLineRequest cls op addr d s
  | .scCtrlFlush d v => Sys2Proof.Machine.execScCtrlFlush d v s
  | .scCtrlInv d v => Sys2Proof.Machine.execScCtrlInv d v s
  | .scCtrlEnable d v => Sys2Proof.Machine.execScCtrlEnable d v s
  | .scWalkComplete d => Sys2Proof.Machine.execScWalkComplete d s
  | .hbmTemperatureSample temps => Sys2Proof.Machine.execHbmTemperatureSample temps s
  | .htgStart chn v => Sys2Proof.Machine.execHtgStart chn v s
  | .htgStop chn v => Sys2Proof.Machine.execHtgStop chn v s
  | .htgRunComplete chn granules errors firstGranule firstWord unc => Sys2Proof.Machine.execHtgRunComplete chn granules errors firstGranule firstWord unc s
  | .flitReceive l f => Sys2Proof.Machine.execFlitReceive l f s
  | .flitResend l => Sys2Proof.Machine.execFlitResend l s
  | .linkDown l cause => Sys2Proof.Machine.execLinkDown l cause s
  | .linkTrain l r => Sys2Proof.Machine.execLinkTrain l r s
  | .linkAttest l p => Sys2Proof.Machine.execLinkAttest l p s
  | .linkHoldRetry l => Sys2Proof.Machine.execLinkHoldRetry l s
  | .linkRekey l sending => Sys2Proof.Machine.execLinkRekey l sending s
  | .routeSwitch dest => Sys2Proof.Machine.execRouteSwitch dest s
  | .messageForward l m => Sys2Proof.Machine.execMessageForward l m s
  | .writeRequestReceive m => Sys2Proof.Machine.execWriteRequestReceive m s
  | .readRequestReceive m => Sys2Proof.Machine.execReadRequestReceive m s
  | .waddRequestReceive m => Sys2Proof.Machine.execWaddRequestReceive m s
  | .signalRequestReceive m => Sys2Proof.Machine.execSignalRequestReceive m s
  | .responseReceive m => Sys2Proof.Machine.execResponseReceive m s
  | .streamResend pasid w => Sys2Proof.Machine.execStreamResend pasid w s
  | .streamUnreachable pasid w => Sys2Proof.Machine.execStreamUnreachable pasid w s
  | .timeExchange ts => Sys2Proof.Machine.execTimeExchange ts s
  | .timeParentLoss => Sys2Proof.Machine.execTimeParentLoss s
  | .timeLockLoss => Sys2Proof.Machine.execTimeLockLoss s
  | .drydownNoticeSend => Sys2Proof.Machine.execDrydownNoticeSend s
  | .drydownNoticeReceive sender level seq => Sys2Proof.Machine.execDrydownNoticeReceive sender level seq s
  | .drydownNoticeExpiry sender => Sys2Proof.Machine.execDrydownNoticeExpiry sender s
  | .groupLevelApply => Sys2Proof.Machine.execGroupLevelApply s
  | .redirectReceive src old new => Sys2Proof.Machine.execRedirectReceive src old new s
  | .modulePresence k m => Sys2Proof.Machine.execModulePresence k m s
  | .moduleRemoval k => Sys2Proof.Machine.execModuleRemoval k s
  | .moduleWarmingTimeout k power withinLimits => Sys2Proof.Machine.execModuleWarmingTimeout k power withinLimits s
  | .modulePoll k fault warn tempC supply => Sys2Proof.Machine.execModulePoll k fault warn tempC supply s
  | .laserHourlyUpdate k bias => Sys2Proof.Machine.execLaserHourlyUpdate k bias s
  | .plannedLaserSwitch k j bias power spareOk => Sys2Proof.Machine.execPlannedLaserSwitch k j bias power spareOk s
  | .unplannedLaserSwitch k j spareOk => Sys2Proof.Machine.execUnplannedLaserSwitch k j spareOk s
  | .ringLock l j rx => Sys2Proof.Machine.execRingLock l j rx s
  | .ringLockLoss l j rx => Sys2Proof.Machine.execRingLockLoss l j rx s
  | .swap k => Sys2Proof.Machine.execSwap k s
  | .cancel k => Sys2Proof.Machine.execCancel k s
  | .d2dMarkerExchange arrivals => Sys2Proof.Machine.execD2dMarkerExchange arrivals s
  | .doorbellWrite q v => Sys2Proof.Machine.execDoorbellWrite q v s
  | .cqCtrlWrite q v => Sys2Proof.Machine.execCqCtrlWrite q v s
  | .commandRead q e => Sys2Proof.Machine.execCommandRead q e s
  | .load q img => Sys2Proof.Machine.execLoad q img s
  | .run q => Sys2Proof.Machine.execRun q s
  | .runComplete q => Sys2Proof.Machine.execRunComplete q s
  | .dma q descs => Sys2Proof.Machine.execDma q descs s
  | .signal q => Sys2Proof.Machine.execSignal q s
  | .save q reach => Sys2Proof.Machine.execSave q reach s
  | .saveTimeout q => Sys2Proof.Machine.execSaveTimeout q s
  | .restore q size authentic img pages => Sys2Proof.Machine.execRestore q size authentic img pages s
  | .evacuate q peer => Sys2Proof.Machine.execEvacuate q peer s
  | .evacuateSafePointTimeout q c => Sys2Proof.Machine.execEvacuateSafePointTimeout q c s
  | .evacuateIn t => Sys2Proof.Machine.execEvacuateIn t s
  | .standbyEnquiry src coupling modes => Sys2Proof.Machine.execStandbyEnquiry src coupling modes s
  | .zeroize q => Sys2Proof.Machine.execZeroize q s
  | .queryState q => Sys2Proof.Machine.execQueryState q s
  | .queryCounters q reach => Sys2Proof.Machine.execQueryCounters q reach s
  | .queryDigest q entry reach => Sys2Proof.Machine.execQueryDigest q entry reach s
  | .queryFree q => Sys2Proof.Machine.execQueryFree q s
  | .fence q => Sys2Proof.Machine.execFence q s
  | .commandComplete q reach => Sys2Proof.Machine.execCommandComplete q reach s
  | .failover c => Sys2Proof.Machine.execFailover c s
  | .governorTick power target => Sys2Proof.Machine.execGovernorTick power target s
  | .pl2ExcessLimit fit => Sys2Proof.Machine.execPl2ExcessLimit fit s
  | .levelChange level => Sys2Proof.Machine.execLevelChange level s
  | .voltageSlewComplete reg => Sys2Proof.Machine.execVoltageSlewComplete reg s
  | .droopDetect d j => Sys2Proof.Machine.execDroopDetect d j s
  | .droopStretchEnd => Sys2Proof.Machine.execDroopStretchEnd s
  | .sustainedDroop d j => Sys2Proof.Machine.execSustainedDroop d j s
  | .thermalSample t => Sys2Proof.Machine.execThermalSample t s
  | .edgeSkipStep => Sys2Proof.Machine.execEdgeSkipStep s
  | .thermalConversion => Sys2Proof.Machine.execThermalConversion s
  | .localLimitRise => Sys2Proof.Machine.execLocalLimitRise s
  | .quenchEntry t => Sys2Proof.Machine.execQuenchEntry t s
  | .quenchFollow => Sys2Proof.Machine.execQuenchFollow s
  | .quenchExit => Sys2Proof.Machine.execQuenchExit s
  | .vrAlert => Sys2Proof.Machine.execVrAlert s
  | .floorHoldEnd => Sys2Proof.Machine.execFloorHoldEnd s
  | .levelClimb => Sys2Proof.Machine.execLevelClimb s
  | .temperMonitorAdjust d n ask => Sys2Proof.Machine.execTemperMonitorAdjust d n ask s
  | .retentionEntry => Sys2Proof.Machine.execRetentionEntry s
  | .heartOnlyEntry => Sys2Proof.Machine.execHeartOnlyEntry s
  | .wake => Sys2Proof.Machine.execWake s
  | .energyCredit energyMj => Sys2Proof.Machine.execEnergyCredit energyMj s
  | .telemetryPublish t power volts amps => Sys2Proof.Machine.execTelemetryPublish t power volts amps s
  | .coldStart j => Sys2Proof.Machine.execColdStart j s
  | .crystalStable => Sys2Proof.Machine.execCrystalStable s
  | .requestedColdRestart j => Sys2Proof.Machine.execRequestedColdRestart j s
  | .pcieReady => Sys2Proof.Machine.execPcieReady s
  | .qrstInTimeout => Sys2Proof.Machine.execQrstInTimeout s
  | .qrstInRelease => Sys2Proof.Machine.execQrstInRelease s
  | .powerDown => Sys2Proof.Machine.execPowerDown s
  | .warmReset cause => Sys2Proof.Machine.execWarmReset cause s
  | .stagingData pldm offset bytes => Sys2Proof.Machine.execStagingData pldm offset bytes s
  | .stagingCheck img => Sys2Proof.Machine.execStagingCheck img s
  | .stagingTimeout => Sys2Proof.Machine.execStagingTimeout s
  | .requestUpdate => Sys2Proof.Machine.execRequestUpdate s
  | .passComponentTable ident size => Sys2Proof.Machine.execPassComponentTable ident size s
  | .updateComponent ident size => Sys2Proof.Machine.execUpdateComponent ident size s
  | .activateFirmware => Sys2Proof.Machine.execActivateFirmware s
  | .doeStagingObject offset bytes img => Sys2Proof.Machine.execDoeStagingObject offset bytes img s
  | .getMeasurements t index => Sys2Proof.Machine.execGetMeasurements t index s
  | .getCertificate t slot => Sys2Proof.Machine.execGetCertificate t slot s
  | .challenge t slot => Sys2Proof.Machine.execChallenge t slot s
  | .keyExchange t mutualAuth => Sys2Proof.Machine.execKeyExchange t mutualAuth s
  | .finish t session => Sys2Proof.Machine.execFinish t session s
  | .keyUpdate t session => Sys2Proof.Machine.execKeyUpdate t session s
  | .setTenantSecret t session pasid secret => Sys2Proof.Machine.execSetTenantSecret t session pasid secret s
  | .getDebugNonce t => Sys2Proof.Machine.execGetDebugNonce t s
  | .debugNonceExpiry => Sys2Proof.Machine.execDebugNonceExpiry s
  | .debugEnter t tok => Sys2Proof.Machine.execDebugEnter t tok s
  | .ideStreamStateChange stream secure => Sys2Proof.Machine.execIdeStreamStateChange stream secure s
  | .dynamicAddressAssign addr => Sys2Proof.Machine.execDynamicAddressAssign addr s
  | .setEndpointId eid => Sys2Proof.Machine.execSetEndpointId eid s
  | .getEndpointId => Sys2Proof.Machine.execGetEndpointId s
  | .getMctpVersionSupport mtype => Sys2Proof.Machine.execGetMctpVersionSupport mtype s
  | .getMessageTypeSupport => Sys2Proof.Machine.execGetMessageTypeSupport s
  | .smbusPecFailure => Sys2Proof.Machine.execSmbusPecFailure s
  | .getPdr id => Sys2Proof.Machine.execGetPdr id s
  | .getSensorReading id => Sys2Proof.Machine.execGetSensorReading id s
  | .setSensorThresholds id => Sys2Proof.Machine.execSetSensorThresholds id s
  | .setEventReceiver eid => Sys2Proof.Machine.execSetEventReceiver eid s
  | .pollForPlatformEventMessage => Sys2Proof.Machine.execPollForPlatformEventMessage s
  | .platformEventMessage => Sys2Proof.Machine.execPlatformEventMessage s
  | .effecterColdRestart => Sys2Proof.Machine.execEffecterColdRestart s
  | .effecterWarmReset => Sys2Proof.Machine.execEffecterWarmReset s
  | .effecterHeartOnly => Sys2Proof.Machine.execEffecterHeartOnly s
  | .effecterSwapFeed k => Sys2Proof.Machine.execEffecterSwapFeed k s
  | .effecterCancelSwap k => Sys2Proof.Machine.execEffecterCancelSwap k s
  | .effecterDebugHalt c => Sys2Proof.Machine.execEffecterDebugHalt c s
  | .registerWrite offset v => Sys2Proof.Machine.execRegisterWrite offset v s
  | .vrAlertNReturnsHigh => Sys2Proof.Machine.execVrAlertNReturnsHigh s
  | .quenchNRise => Sys2Proof.Machine.execQuenchNRise s
  | .fundamentalResetRelease => Sys2Proof.Machine.execFundamentalResetRelease s
  | .regulatorPowerGood grp => Sys2Proof.Machine.execRegulatorPowerGood grp s
  | .powerGoodTimeout => Sys2Proof.Machine.execPowerGoodTimeout s
  | .fwStartTimeout => Sys2Proof.Machine.execFwStartTimeout s
  | .d2dLaneFailure g => Sys2Proof.Machine.execD2dLaneFailure g s
  | .debugCoreAccess c a => Sys2Proof.Machine.execDebugCoreAccess c a s

end Sys2Proof.Machine
end

