-- ==== Sys2Proof/Safety.lean ====
section
/-! DEFINITION. What counts as a safe run of the device, and the terms in which statements about its cores are made. -/

namespace Sys2Proof.Machine

/-- A step goes on: no fault and no refusal. -/
def goesOn (s : State) : Prop := ∃ t, step s = .next t

/-- Core `c` issues an instruction of `len` bytes: it runs, the fetch checks pass (02:R70, R79, R89), nothing holds it under PAM
(09:R403), and the next instruction lies below 0x0010_0000 (02:R98). -/
def State.ready (s : State) (c : CoreId) (len : Nat) : Prop :=
  s.issues c = true ∧ (s.core c).fetchCheck len = none ∧ (s.core c).pamWaits = false ∧ (s.core c).pc.toNat + len < 0x100000

/-- The core past an instruction of `len` bytes that has completed: the PC at the next one (02:R98), one more instruction counted
(02:R87), no stall, and of the fetch window what lies ahead (02:R123). -/
def Core.past (k : Core) (len : Nat) : Core :=
  { k with pc := BitVec.ofNat 20 (k.pc.toNat + len), instret := k.instret + 1#64, stall := .none,
           stale := k.stale.filter (fun w => k.pc.toNat + len ≤ w.1) }

/-- The core at the target of a control transfer (02:R96, R97, R123). -/
def Core.atTarget (k : Core) (t : Word) : Core :=
  { k with pc := t.setWidth 20, instret := k.instret + 1#64, stall := .none, stale := [] }

/-- A synchronous trap of a core at the instruction that it issues: it is entered (09:R377 to R387), and what draining the store buffer
finds uncorrectable is counted (09:R397). -/
def State.traps (s : State) (c : CoreId) (x : Cause) (v : Word) : State := s.ownChange c (fun k => k.takeTrap x v k.pcWord)

/-- A target that a control transfer may have (02:R97). -/
def targetOk (t : Word) : Prop := t.toNat % 4 = 0 ∧ t.toNat < 0x100000

/-- No arithmetic trap is enabled on the core (09:R399). -/
def Core.quiet (k : Core) : Prop := k.fmode.ten = 0#10

/-- The core past an instruction of `len` bytes whose own effect is `k'` and which raised the flags `fl`, with no trap at the
boundary after it (02:R98, R105, 09:R399). -/
def Core.landed (k k' : Core) (len : Nat) (fl : Flags) : Core := (k'.raise fl k.pc).past len

/-- The flags raise no ARITH trap at the boundary after the instruction: PAM is 0, or none of them is enabled (09:R399, R404). -/
def Core.lets (k : Core) (fl : Flags) : Prop := k.fmode.pam = false ∨ fl &&& k.fmode.ten = 0#10

/-- The buffered stores are such as the checks of 02:R112 let in: 1, 2, 4 or 8 bytes wide, aligned, in DMEM or in scratchpad. -/
def Core.bufferOk (k : Core) : Prop :=
  ∀ e ∈ k.sb, e.size ∈ [1, 2, 4, 8] ∧ e.addr % e.size = 0 ∧ (e.addr + e.size ≤ 0x3FC00 ∨ 0x40000000 ≤ e.addr ∧ e.addr < 0x45800000)

/-- Nothing that a vector, Accord or matrix instruction began is still to come, and the store buffer is empty. -/
def Core.settled (k : Core) : Prop := k.sb = [] ∧ k.mxq = [] ∧ k.drains = [] ∧ k.arun = none

/-- The address a scalar load or store may use: aligned, and allowed where it lies (01:R47 to R50, 02:R74, R75). -/
def scalarMay (k : Core) (wr : Bool) (a n : Nat) : Prop :=
  a % n = 0 ∧ ((placeOf a = .alias_ ∧ k.level = .firmware ∧ 4 ≤ n) ∨ (placeOf a ≠ .alias_ ∧ k.accessCheck wr a n = none))

/-- The core after a trap or interrupt is entered at level `t` with nothing in flight: the frame below the level's stack pointer
holds the old bank and TLVL, the bank holds the new values, and the PC is at the vector (09:R377, R380, R381). -/
def Core.afterEntry (k : Core) (t : Level) (trc v ret : Word) (offset : Nat) : Core :=
  let sp := k.sp t - 64#64
  let b := k.bank t
  { (k.setBank t { b with trc := trc, trpc := ret, trv := v }).setSp t sp with
    dmem := k.dmem.put sp.toNat (wordsBytes [b.trc, b.trpc, b.trv, k.tlvl.word, 0#64, 0#64, 0#64, 0#64])
    badDmem := clearMarks k.badDmem sp.toNat 64
    tlvl := Tlvl.mk k.tlvl.ie false (BitVec.ofNat 2 k.level.num) t
    pc := BitVec.ofNat 20 (b.base.toNat * 2048 + offset)
    stale := []
    stall := .none
    ckptNew := none }

/-- The level that Runtime's causes go to: Runtime when it has a vector base, else Firmware, and never below the current level
(09:R371, R373). -/
def Core.runtimeOr (k : Core) : Level :=
  if (k.bank .runtime).base ≠ 0#9 ∧ k.level ≠ .firmware then .runtime else .firmware

/-- No ARITH trap can follow at the boundary after an arithmetic instruction: PAM is 0 or no trap is enabled (09:R399, R404). -/
def Core.calm (k : Core) : Prop := k.fmode.pam = false ∨ k.fmode.ten = 0#10

/-- Element `i` of width `w` of the vector operand that starts at a register (04:R165, 03:R147). -/
def Core.velem (k : Core) (r : Reg) (w i : Nat) : Nat :=
  k.vregs.getLe (r.toNat * 8192 + i * w / 8) ((i * w % 8 + w + 7) / 8) / 2 ^ (i * w % 8) % 2 ^ w

/-- Element `i` is active: VCUR has not passed it, VL holds it, and the mask, when one is named, has its bit (04:R173, R203). -/
abbrev Core.activeAt (k : Core) (f : VFields) (i : Nat) : Prop :=
  k.vcur.toNat ≤ i ∧ i < k.vl.toNat ∧ (f.m = true → (k.mask f.mkr).getLsbD i = true)

/-- A byte of the vector registers outside the elements of the operand. -/
def Core.outsideOf (k : Core) (r : Reg) (w x : Nat) : Prop := x < r.toNat * 8192 ∨ r.toNat * 8192 + (k.vl.toNat * w + 7) / 8 ≤ x

/-- The element of a vector access in core-local memory: `w` bits from bit `sh` of the bytes at `a`. -/
def Core.memElem (k : Core) (a w sh : Nat) : Nat := leNat (k.load a ((w + 7) / 8)) / 2 ^ sh % 2 ^ w

/-- The vector stage of a core is free and the core is ready for a vector instruction, no earlier strips of which have flags to report under
PAM (09:R404). -/
def State.vready (s : State) (c : CoreId) : Prop :=
  s.ready c 4 ∧ (s.core c).arun = none ∧ (s.core c).parts.all (fun p => p.1 != (s.core c).pc) = true

/-- A finite value as a whole number of units of 2^b, what lies below the window dropped toward −∞ (07:R299, R300); other values
count as none. -/
def Num.units (b : Int) : Num → Int
  | .fin neg m e =>
    let v : Int := if neg then -(m : Int) else m
    if b ≤ e then v * 2 ^ (e - b).toNat else v / 2 ^ (b - e).toNat
  | _ => 0

def Num.finite : Num → Bool
  | .fin _ _ _ => true
  | _ => false

/-- The element formats of a matrix configuration and its L (06:R247). -/
def cfgOf (cfg : MxCfg) : Option (CFmt × CFmt × Nat) :=
  match cfmtOf cfg.fmta, cfmtOf cfg.fmtb, mxClass cfg.fmta cfg.sca with
  | some a, some b, some (_, l) => some (a, b, l)
  | _, _, _ => none

/-- A core with its queue of issued MXMMA replaced. -/
def Core.withMxq (k : Core) (q : List MxFlight) : Core := { k with mxq := q }

/-- The fault ring never holds more than 256 entries (R500). -/
def Ring.bounded (r : Ring) : Prop := (r.tail - r.head).toNat ≤ 256

/-- Nothing of what programs compute with has changed between two states: the cores, HBM and its keys, the shared caches, the
channels and TLBs, the contexts, the queues and the journal. -/
def sameCompute (s t : State) : Prop :=
  t.cores = s.cores ∧ t.gated = s.gated ∧ t.hbm = s.hbm ∧ t.hbmBad = s.hbmBad ∧ t.hbmKeys = s.hbmKeys ∧ t.caches = s.caches ∧
  t.chans = s.chans ∧ t.tlbs = s.tlbs ∧ t.ctxs = s.ctxs ∧ t.queues = s.queues ∧ t.journal = s.journal

/-- All links but one are as they were. -/
def otherLinks (s t : State) (l : LinkId) : Prop := ∀ j, j ≠ l → t.link j = s.link j

/-- Nothing has changed in the memories and the units that work on them: the cores, HBM and its keys, the shared caches, the channels,
the TLBs and the contexts. -/
def sameMachine (s t : State) : Prop :=
  t.cores = s.cores ∧ t.gated = s.gated ∧ t.hbm = s.hbm ∧ t.hbmBad = s.hbmBad ∧ t.hbmKeys = s.hbmKeys ∧ t.caches = s.caches ∧
  t.chans = s.chans ∧ t.tlbs = s.tlbs ∧ t.ctxs = s.ctxs

/-- All queues but one are as they were. -/
def otherQueues (s t : State) (q : QueueId) : Prop := ∀ j, j ≠ q → t.queue j = s.queue j

/-- The command of a queue has its work done, with this status word and RESULT2, and is not completed yet. -/
def doneWith (t : State) (q : QueueId) (status result2 : Word) : Prop := ∃ f, t.flight q = some f ∧ f.done = some (status, result2)

/-- The command of a queue is under way. -/
def underWay (t : State) (q : QueueId) : Prop := ∃ f, t.flight q = some f ∧ f.started = true ∧ f.done = none

/-- The journal entry of a sequence number. -/
def State.jentry (s : State) (n : Word) : Option JEntry := s.journal.entries.find? (fun e => e.seq == n)

/-- A flash slot holds a valid image under a key (17:R723). -/
def imageOk (keyHash : BitVec 384) (x : Slot) : Bool := (validSlot keyHash x).isSome

end Sys2Proof.Machine
end

