-- ==== Sys2Proof/WellFormed.lean ====
section
/-! DEFINITION. Which commands are well formed: the word of a core instruction is one of its row's (02:R82, R90 to R95, 04:R177 to R202,
08:R335 to R369), an address and a length obey the rule that frames them, and what arrives from outside has as many parts as the rule
gives it. An ill-formed command still has a meaning in exec, the trap or nothing. -/

namespace Sys2Proof

/-- The word's FN is one of the row's (04:R177). -/
abbrev VFields.fnIn (f : VFields) (l : List Nat) : Prop := f.fn.toNat ∈ l

/-- The instructions that may be interrupted: opcodes 0x30 to 0x37, ARUN (04:R205, 05:R240, 08:R351). -/
abbrev runningOk : Option Running → Prop
  | some r => (0x30 ≤ r.op.toNat ∧ r.op.toNat ≤ 0x37) ∨ r.op = 0x3D#6
  | none => True

/-- An access moves at most one 256-byte block (11:R493). -/
abbrev hostReplyOk : HostReply → Prop
  | .data bytes | .faulty bytes => bytes.length ≤ 256
  | .error _ => True

/-- A translation is of a whole page, a power of two from 4 KiB up, aligned (11:R483, R488). -/
abbrev AtsReply.ok : AtsReply → Prop
  | .grant page log2 _ _ => 12 ≤ log2 ∧ log2 < 64 ∧ page % 2 ^ log2 = 0
  | .none => True

/-- A line request lies in one aligned 256-byte line of HBM (10:R424, 01:R51). -/
abbrev lineFits (addr n : Nat) : Prop := 0 < n ∧ addr % 256 + n ≤ 256 ∧ addr + n ≤ 768 * 2 ^ 30

/-- The bytes of an element of an atomic (10:R441). -/
abbrev AtomicOp.size : AtomicOp → Nat
  | .fadd32 => 4
  | .fadd64 => 8
  | .iadd32 => 4
  | .iadd64 => 8
  | .wadd => 32

/-- A memory's unit and the place patrol reads in it (01:R47, R51, 10:R423): a core, a die with set and way, or an HBM address. -/
abbrev MemKind.holds (k : MemKind) (unit addr : Nat) : Prop :=
  match k with
  | .scratchpad => unit < 32 ∧ addr < 88 * 2 ^ 20
  | .dmem => unit < 32 ∧ addr < 2 ^ 18
  | .imem => unit < 32 ∧ addr < 2 ^ 20
  | .scache => unit < 2 ∧ addr < 32768 * 16
  | .hbm => addr < 768 * 2 ^ 30

/-- A message has at most 16 data slots (12:R521). -/
abbrev Msg.ok (m : Msg) : Prop := m.data.length ≤ 256

/-- A module has nine wavelengths and two lasers for each (13:R556, R561). -/
abbrev Module.ok (m : Module) : Prop := m.sel.length = 9 ∧ m.bias.length = 18 ∧ m.power.length = 9 ∧ m.laserHrs.length = 18

/-- A sample reads every sensor of 16:R692. -/
abbrev Temps.ok (t : Temps) : Prop :=
  t.die.length = 2 ∧ (∀ l ∈ t.die, l.length = 96) ∧ t.tier.length = 2 ∧ (∀ l ∈ t.tier, l.length = 32) ∧ t.hbm.length = 8 ∧
  t.optic.length = 64

/-- A Rivet map serves the 16 cores of its die, and test took at most the two spare lanes of a group (01:R29, 18:R738, R740). -/
abbrev RivetMap.ok (m : RivetMap) : Prop := m.serve.length = 16 ∧ (∀ p ∈ m.serve, p.toNat < 18) ∧ (∀ l ∈ m.d2dLanes, l.length ≤ 2)

/-- A fuse block holds three copies of the Rivet map, copies of equal bits recording the same, and two of the Temper table; die 0's holds the
fields of that die alone (17:R715). -/
abbrev Fuses.ok (f : Fuses) : Prop :=
  f.rivet.length = 3 ∧ (∀ c ∈ f.rivet, c.map.ok) ∧ (∀ c ∈ f.rivet, ∀ e ∈ f.rivet, c.data = e.data → c.map = e.map) ∧ f.temper.length = 2 ∧
  f.root.isSome = (f.die == 0)

/-- A cold start finds the fuses and the self-test of both dies (17:R714, R715, R728). -/
abbrev StartInputs.ok (i : StartInputs) : Prop :=
  i.fuses.map Fuses.die = [0, 1] ∧ (∀ f ∈ i.fuses, f.ok) ∧ i.bist.length = 2 ∧ (∀ e ∈ i.d2d, e.length = 8)

/-- A debug access to the vector registers, or to a memory, lies in it (04:R164, 01:R47, 19:R789). -/
abbrev DebugAccess.ok : DebugAccess → Prop
  | .readVec addr n => addr + n ≤ 2 ^ 18
  | .writeVec addr bytes => addr + bytes.length ≤ 2 ^ 18
  | .readMem k addr n => k.holds 0 addr ∧ k.holds 0 (addr + n - 1)
  | .writeMem k addr bytes => k.holds 0 addr ∧ k.holds 0 (addr + bytes.length - 1)
  | .readReg .. | .writeReg .. | .readCsr .. | .writeCsr .. | .readMask .. | .writeMask .. => True

/-- The command is one that the spec's own encodings and framings give. -/
abbrev Instr.wf (i : Instr) : Prop :=
  match i with
  | .integerAlu _ fn _ _ _ => fn.toNat ≤ 0x00F
  | .immediateAlu _ op _ _ _ _ => op.toNat ∈ [0x02, 0x03, 0x04, 0x05, 0x06, 0x07]
  | .immediateShift _ _ _ imm => imm.toNat / 256 ≤ 2
  | .multiplyDivide _ fn _ _ _ => fn.toNat ≤ 7
  | .scalarFloatingPoint _ fn _ _ _ => fn.toNat % 32 ≤ 0x0A ∨ fn.toNat % 32 ∈ [0x0C, 0x0D, 0x0E, 0x0F]
  | .scalarLoad _ op _ _ _ _ => 0x10 ≤ op.toNat ∧ op.toNat ≤ 0x16
  | .scalarStore _ op _ _ _ _ => 0x18 ≤ op.toNat ∧ op.toNat ≤ 0x1B
  | .storeBufferDrain .. => True
  | .branch _ op _ _ _ => 0x20 ≤ op.toNat ∧ op.toNat ≤ 0x25
  | .jump .. | .jal .. | .jalr .. | .syscall .. | .fwcall .. | .tret .. | .ifence .. | .sbdrain .. | .brk .. | .crr ..
  | .crw .. | .crset .. | .crclr .. => True
  | .interruptTaken _ running => runningOk running
  | .spintOver .. | .coreReset .. | .selfCheckFailure .. | .replay .. => True
  | .vld _ f => f.fnIn [0x00]
  | .vlds _ f => f.fnIn [0x01]
  | .vst _ f => f.fnIn [0x02]
  | .vsts _ f => f.fnIn [0x03]
  | .vgath _ f => f.fnIn [0x04]
  | .vscat _ f => f.fnIn [0x05]
  | .vectorFpArithmetic _ f => f.fn.toNat ≤ 0x0A
  | .vectorFpCompare _ f => f.fnIn [0x10, 0x11, 0x12]
  | .vectorIntegerArithmetic _ f => f.fn.toNat ≤ 0x0E
  | .vectorIntegerCompare _ f => f.fnIn [0x10, 0x11, 0x12]
  | .vectorFixedPoint _ f => f.fn.toNat ≤ 0x05 ∨ f.fnIn [0x08, 0x09, 0x0A, 0x0B, 0x0C, 0x10, 0x11, 0x12, 0x13, 0x14, 0x18, 0x19]
  | .vcmprs _ f => f.fnIn [0x00]
  | .vxpand _ f => f.fnIn [0x01]
  | .vmov _ f => f.fnIn [0x02]
  | .vcvt .. => True
  | .maskLogic _ f => f.fnIn [0x00, 0x01, 0x02, 0x03]
  | .msetMclr _ f => f.fnIn [0x04, 0x05]
  | .mpopc _ f => f.fnIn [0x08]
  | .mfirst _ f => f.fnIn [0x09]
  | .vrsum _ f => f.fnIn [0x00]
  | .vrssq _ f => f.fnIn [0x01]
  | .vrmax _ f => f.fnIn [0x02]
  | .vrmin _ f => f.fnIn [0x03]
  | .vrargmax _ f => f.fnIn [0x04]
  | .vmeanvar _ f => f.fnIn [0x05]
  | .vsoftmax _ f => f.fnIn [0x08]
  | .vsample _ f => f.fnIn [0x10]
  | .vprefix _ f => f.fnIn [0x11]
  | .vwadd _ f => f.fnIn [0x18]
  | .aload .. | .arun .. | .arunComplete .. | .mxcfg .. | .mxmma .. | .mxmmaComplete .. | .mxepi .. | .mxdrainDrain ..
  | .mxdrainFill .. | .mxdrainComplete .. | .sigpost .. | .sigpostEffect .. | .sigwait .. | .safept ..
  | .checkpointComplete .. | .dqueue .. | .dwait .. | .descriptorStart .. => True
  | .descriptorAccess _ host => hostReplyOk host
  | .descriptorComplete .. => True
  | .atsTranslationCompletion _ reply => reply.ok
  | .prgResponse .. | .priStop .. => True
  | .atsInvalidationRequest _ va bytes => va % 4096 = 0 ∧ 4096 ≤ bytes
  | .streamPrefetch .. | .frBaseWrite .. | .frHeadWrite .. => True
  | .scratchpadPatrolScrub _ offset _ => offset < 88 * 2 ^ 20
  | .memoryPatrol k unit addr _ => k.holds unit addr
  | .lineRequestRead _ addr n _ _ => lineFits addr n
  | .lineRequestWrite _ addr d => lineFits addr d.bytes.length
  | .atomicLineRequest _ op addr d => lineFits addr d.bytes.length ∧ d.bytes.length % op.size = 0
  | .scCtrlFlush .. | .scCtrlInv .. | .scCtrlEnable .. | .scWalkComplete .. => True
  | .hbmTemperatureSample temps => temps.length = 8
  | .htgStart .. | .htgStop .. | .htgRunComplete .. | .flitReceive .. | .flitResend .. | .linkDown .. | .linkTrain ..
  | .linkAttest .. | .linkHoldRetry .. | .linkRekey .. | .routeSwitch .. => True
  | .messageForward _ m => m.ok
  | .writeRequestReceive m => m.ok
  | .readRequestReceive m => m.ok
  | .waddRequestReceive m => m.ok
  | .signalRequestReceive m => m.ok
  | .responseReceive m => m.ok
  | .streamResend .. | .streamUnreachable .. | .timeExchange .. | .timeParentLoss .. | .timeLockLoss ..
  | .drydownNoticeSend .. | .drydownNoticeReceive .. | .drydownNoticeExpiry .. | .groupLevelApply .. | .redirectReceive .. => True
  | .modulePresence _ m => m.ok
  | .moduleRemoval .. => True
  | .moduleWarmingTimeout _ power _ => power.length = 9
  | .modulePoll .. => True
  | .laserHourlyUpdate _ bias => bias.length = 18
  | .plannedLaserSwitch .. | .unplannedLaserSwitch .. | .ringLock .. | .ringLockLoss .. | .swap .. | .cancel .. => True
  | .d2dMarkerExchange arrivals => arrivals.length = 8
  | .doorbellWrite .. | .cqCtrlWrite .. | .commandRead .. | .load .. | .run .. | .runComplete .. | .dma .. | .signal ..
  | .save .. | .saveTimeout .. | .restore .. | .evacuate .. | .evacuateSafePointTimeout .. | .evacuateIn ..
  | .standbyEnquiry .. | .zeroize .. | .queryState .. | .queryCounters .. | .queryDigest .. | .queryFree .. | .fence ..
  | .commandComplete .. | .failover .. | .governorTick .. | .pl2ExcessLimit .. | .levelChange .. | .voltageSlewComplete ..
  | .droopDetect .. | .droopStretchEnd .. | .sustainedDroop .. => True
  | .thermalSample t => t.ok
  | .edgeSkipStep .. | .thermalConversion .. | .localLimitRise .. => True
  | .quenchEntry t => t.ok
  | .quenchFollow .. | .quenchExit .. | .vrAlert .. | .floorHoldEnd .. | .levelClimb .. | .temperMonitorAdjust ..
  | .retentionEntry .. | .heartOnlyEntry .. | .wake .. | .energyCredit .. => True
  | .telemetryPublish t _ volts amps => t.ok ∧ volts.length = 2 ∧ amps.length = 2
  | .coldStart i => i.ok
  | .crystalStable .. => True
  | .requestedColdRestart i => i.ok
  | .pcieReady .. | .qrstInTimeout .. | .qrstInRelease .. | .powerDown .. | .warmReset .. => True
  | .stagingData pldm _ bytes => pldm = true ∨ bytes.length ≤ 4096
  | .stagingCheck .. | .stagingTimeout .. | .requestUpdate .. | .passComponentTable .. | .updateComponent ..
  | .activateFirmware .. => True
  | .doeStagingObject _ bytes _ => bytes.length ≤ 4096
  | .getMeasurements .. | .getCertificate .. | .challenge .. | .keyExchange .. | .finish .. | .keyUpdate ..
  | .setTenantSecret .. | .getDebugNonce .. | .debugNonceExpiry .. | .debugEnter .. | .ideStreamStateChange ..
  | .dynamicAddressAssign .. | .setEndpointId .. | .getEndpointId .. | .getMctpVersionSupport .. | .getMessageTypeSupport ..
  | .smbusPecFailure .. | .getPdr .. | .getSensorReading .. | .setSensorThresholds .. | .setEventReceiver ..
  | .pollForPlatformEventMessage .. | .platformEventMessage .. | .effecterColdRestart .. | .effecterWarmReset ..
  | .effecterHeartOnly .. | .effecterSwapFeed .. | .effecterCancelSwap .. | .effecterDebugHalt .. => True
  | .registerWrite offset _ => offset.toNat % 8 = 0
  | .vrAlertNReturnsHigh .. | .quenchNRise .. | .fundamentalResetRelease .. | .regulatorPowerGood .. | .powerGoodTimeout ..
  | .fwStartTimeout .. | .d2dLaneFailure .. => True
  | .debugCoreAccess _ a => a.ok

end Sys2Proof
end

