-- ==== Sys2Proof/Certificates/Slice0/Obligations.lean ====
section
/-! DEFINITION. The statements for the provers: what the commands of the device do, family by family (spec/02 to spec/21). -/

section Statements

open Sys2Proof Sys2Proof.Machine

/-! ## Steps -/

/-- A step takes the command at the front of the queue and is exec of it on the state with the queue's rest; every command, in every
state, answers a next state. With no command waiting (the
model's choice), nothing happens before the crystal is stable, and then a microsecond passes.
Rests on the model's choice or reading in log entry 1. -/
def Obligations.StepRunsFront : Prop :=
  (∀ (i : Instr) (s : State),
    Machine.step { s with pending := i :: s.pending } = Machine.exec i s ∧
    (∀ rest, s.pending = i :: rest → Machine.step s = Machine.exec i { s with pending := rest }) ∧
    ∃ t, Machine.exec i s = .next t) ∧
  (∀ s : State, s.pending = [] →
    (s.boot.crystal = false → Machine.step s = .next s) ∧
    (s.boot.crystal = true → s.fab.slew = 0 → s.fab.loop = [] → ∃ t, Machine.step s = .next t ∧ t.time = s.time + 1000 ∧ t.us = s.us + 1 ∧ t.ctxs = s.ctxs ∧ t.hbm = s.hbm ∧
      ∀ c : CoreId, (t.core c).gregs = (s.core c).gregs ∧ (t.core c).pc = (s.core c).pc ∧ (t.core c).instret = (s.core c).instret ∧
        (s.pstate ≠ .run ∨ s.gated.getLsbD c.val = true → (t.core c).cycle = (s.core c).cycle)))

/-! ## Scalar core (spec/02) -/

/-- INTEGER_ALU and its values (R90), and the illegal-instruction trap of R83 on what selects no operation. IMMEDIATE_ALU and IMMEDIATE_SHIFT
and their values (R84, R85, R90), and the trap on a prefix of another KIND (R86). -/
def Obligations.IntegerResults : Prop :=
  (∀ (s : State) (c : CoreId) (fn : BitVec 11) (rd ra rb : Reg), s.ready c 4 →
    let k := s.core c
    let a := k.reg ra
    let b := k.reg rb
    let sh := b.toNat % 64
    (∀ v : Word,
      ((fn = 0x000#11 ∧ v = BitVec.ofNat 64 (a.toNat + b.toNat)) ∨
       (fn = 0x001#11 ∧ v = BitVec.ofInt 64 (a.toNat - b.toNat)) ∨
       (fn = 0x002#11 ∧ ∀ i < 64, v.getLsbD i = (a.getLsbD i && b.getLsbD i)) ∨
       (fn = 0x003#11 ∧ ∀ i < 64, v.getLsbD i = (a.getLsbD i || b.getLsbD i)) ∨
       (fn = 0x004#11 ∧ ∀ i < 64, v.getLsbD i = (a.getLsbD i ^^ b.getLsbD i)) ∨
       (fn = 0x005#11 ∧ v = BitVec.ofNat 64 (a.toNat * 2 ^ sh)) ∨
       (fn = 0x006#11 ∧ v = BitVec.ofNat 64 (a.toNat / 2 ^ sh)) ∨
       (fn = 0x007#11 ∧ v = BitVec.ofInt 64 (a.toInt / 2 ^ sh)) ∨
       (fn = 0x008#11 ∧ v = if a.toInt < b.toInt then 1#64 else 0#64) ∨
       (fn = 0x009#11 ∧ v = if a.toNat < b.toNat then 1#64 else 0#64) ∨
       (fn = 0x00A#11 ∧ v = BitVec.ofInt 64 (min a.toInt b.toInt)) ∨
       (fn = 0x00B#11 ∧ v = BitVec.ofInt 64 (max a.toInt b.toInt)) ∨
       (fn = 0x00C#11 ∧ v = BitVec.ofNat 64 (min a.toNat b.toNat)) ∨
       (fn = 0x00D#11 ∧ v = BitVec.ofNat 64 (max a.toNat b.toNat)) ∨
       (fn = 0x00E#11 ∧ rb = 0#5 ∧ (a = 0#64 ∧ v = 64#64 ∨ v.toNat ≤ 63 ∧ 2 ^ (63 - v.toNat) ≤ a.toNat ∧ a.toNat < 2 ^ (64 - v.toNat))) ∨
       (fn = 0x00F#11 ∧ rb = 0#5 ∧ v = BitVec.ofNat 64 ((List.range 64).countP (fun i => a.getLsbD i)))) →
      Machine.exec (.integerAlu c fn rd ra rb) s = .next (s.setCore c ((k.setReg rd v).past 4))) ∧
    ((0x00F#11 < fn ∨ (0x00E#11 ≤ fn ∧ rb ≠ 0#5)) →
      Machine.exec (.integerAlu c fn rd ra rb) s = .next (s.traps c .illegal 0#64))) ∧
  ((∀ (s : State) (c : CoreId) (op : BitVec 6) (rd ra : Reg) (imm : BitVec 16) (pfx : Pfx) (v : Word),
    let n := if pfx.isSome then 8 else 4
    let k := s.core c
    let a := k.reg ra
    let x : Int := match pfx with
      | some h => (h.setWidth 24 ++ imm).toInt
      | none => imm.toInt
    let z : Word := if pfx.isSome then BitVec.ofInt 64 x else imm.setWidth 64
    s.ready c n →
    (pfxBad pfx = true → Machine.exec (.immediateAlu c op rd ra imm pfx) s = .next (s.traps c .illegal 0#64)) ∧
    (pfxBad pfx = false →
    ((op = 0x02#6 ∧ v = a + BitVec.ofInt 64 x) ∨ (op = 0x03#6 ∧ v = a &&& z) ∨ (op = 0x04#6 ∧ v = a ||| z) ∨
     (op = 0x05#6 ∧ v = a ^^^ z) ∨ (op = 0x06#6 ∧ v = if a.toInt < x then 1#64 else 0#64) ∨
     (op = 0x07#6 ∧ v = if a.toNat < (BitVec.ofInt 64 x).toNat then 1#64 else 0#64)) →
    Machine.exec (.immediateAlu c op rd ra imm pfx) s = .next (s.setCore c ((k.setReg rd v).past n)))) ∧
  (∀ (s : State) (c : CoreId) (rd ra : Reg) (sh : Fin 64) (v : Word), s.ready c 4 →
    let k := s.core c
    let a := k.reg ra
    let go (sel : Nat) := Machine.exec (.immediateShift c rd ra (BitVec.ofNat 16 (256 * sel + sh.val))) s
    (v = BitVec.ofNat 64 (a.toNat * 2 ^ sh.val) → go 0 = .next (s.setCore c ((k.setReg rd v).past 4))) ∧
    (v = BitVec.ofNat 64 (a.toNat / 2 ^ sh.val) → go 1 = .next (s.setCore c ((k.setReg rd v).past 4))) ∧
    (v = BitVec.ofInt 64 (a.toInt / 2 ^ sh.val) → go 2 = .next (s.setCore c ((k.setReg rd v).past 4))) ∧
    (∀ imm : BitVec 16, (imm.toNat / 64 % 4 ≠ 0 ∨ 2 < imm.toNat / 256) →
      Machine.exec (.immediateShift c rd ra imm) s = .next (s.traps c .illegal 0#64))))


/-- MULTIPLY_DIVIDE: the products, the quotients toward zero with their remainders, and the values of R91. -/
def Obligations.MultiplyDivideResults : Prop :=
  ∀ (s : State) (c : CoreId) (rd ra rb : Reg) (v : Word), s.ready c 4 →
    let k := s.core c
    let a := k.reg ra
    let b := k.reg rb
    let gives (fn : BitVec 11) := Machine.exec (.multiplyDivide c fn rd ra rb) s = .next (s.setCore c ((k.setReg rd v).past 4))
    (v = BitVec.ofNat 64 (a.toNat * b.toNat) → gives 0#11) ∧
    (v = BitVec.ofInt 64 (a.toInt * b.toInt / 2 ^ 64) → gives 1#11) ∧
    (v = BitVec.ofNat 64 (a.toNat * b.toNat / 2 ^ 64) → gives 2#11) ∧
    (v = BitVec.ofInt 64 (a.toInt * b.toNat / 2 ^ 64) → gives 3#11) ∧
    (b = 0#64 → v = 0xFFFFFFFFFFFFFFFF#64 → gives 4#11 ∧ gives 5#11) ∧
    (b = 0#64 → v = a → gives 6#11 ∧ gives 7#11) ∧
    (a = 0x8000000000000000#64 → b = 0xFFFFFFFFFFFFFFFF#64 → (v = 0x8000000000000000#64 → gives 4#11) ∧ (v = 0#64 → gives 6#11)) ∧
    (b ≠ 0#64 → (v = BitVec.ofInt 64 (a.toInt.tdiv b.toInt) → gives 4#11) ∧ (v = BitVec.ofNat 64 (a.toNat / b.toNat) → gives 5#11) ∧
      (v = BitVec.ofInt 64 (a.toInt - b.toInt * a.toInt.tdiv b.toInt) → gives 6#11) ∧
      (v = BitVec.ofNat 64 (a.toNat % b.toNat) → gives 7#11))

/-- SCALAR_FLOATING_POINT: the value and the flags of an addition, subtraction, multiplication, division, square root, fused multiply-add
or conversion from an integer or another format are those of its exact result rounded once (R92 to R94); a NaN operand gives the canonical
NaN; compares; and the encodings that are illegal.
Rests on the model's choice or reading in log entry 169. -/
def Obligations.ScalarFpResults : Prop :=
  ∀ (s : State) (c : CoreId) (fn : BitVec 11) (rd ra rb : Reg) (v : Nat) (g : Flags), s.ready c 4 → (s.core c).lets g →
    let k := s.core c
    let op := fn.toNat % 32
    let rc : Reg := BitVec.ofNat 5 (fn.toNat / 64)
    let single := fn.toNat / 32 % 2 = 1
    let f := if single then fp32 else fp64
    let other := if single then fp64 else fp32
    let x := f.decode ((k.reg ra).toNat % 2 ^ f.width)
    let y := f.decode ((k.reg rb).toNat % 2 ^ f.width)
    let z := f.decode ((k.reg rc).toNat % 2 ^ f.width)
    let rm := if k.fmode.rm = 0b101#3 then RMode.rne else RMode.ofCode k.fmode.rm.toNat
    let down := decide (rm = .rdn)
    let rounded (r : Machine.Num × Flags) := v = (f.round rm 0 r.1).1 ∧ g = r.2 ||| (f.round rm 0 r.1).2
    let gives := Machine.exec (.scalarFloatingPoint c fn rd ra rb) s = .next (s.setCore c (k.landed (k.setReg rd (BitVec.ofNat 64 v)) 4 g))
    (k.fmode.rm.toNat ≤ 5 → (rc = 0#5 ∨ op = 5) → (op ∈ [4, 12, 13, 14, 15] → rb = 0#5) →
      ((op = 0 ∧ rounded (Machine.Num.add down x y)) ∨ (op = 1 ∧ rounded (Machine.Num.add down x y.neg)) ∨ (op = 2 ∧ rounded (Machine.Num.mul x y)) ∨
       (op = 3 ∧ rounded (Machine.Num.div x y)) ∨ (op = 4 ∧ rounded (Machine.Num.sqrt x)) ∨ (op = 5 ∧ rounded (Machine.Num.fma down x y z)) ∨
       (op = 14 ∧ rounded (Machine.Num.ofInt (k.reg ra).toInt 0 false, 0#10)) ∨
       (op = 8 ∧ v = (if ¬ x.isNan ∧ ¬ y.isNan ∧ Machine.Num.cmp x y = .eq then 1 else 0) ∧ g = if x.isSig ∨ y.isSig then fNV else 0#10) ∨
       (op = 9 ∧ v = (if ¬ x.isNan ∧ ¬ y.isNan ∧ Machine.Num.cmp x y = .lt then 1 else 0) ∧ g = if x.isNan ∨ y.isNan then fNV else 0#10) ∨
       (op = 10 ∧ v = (if ¬ x.isNan ∧ ¬ y.isNan ∧ Machine.Num.cmp x y ≠ .gt then 1 else 0) ∧ g = if x.isNan ∨ y.isNan then fNV else 0#10) ∨
       (op = 15 ∧ ∃ w : Nat, w = (k.reg ra).toNat % 2 ^ other.width ∧ v = (f.round rm 0 (other.decode w)).1 ∧
         g = (f.round rm 0 (other.decode w)).2 ||| if (other.decode w).isSig then fNV else 0#10)) → gives) ∧
    (rc = 0#5 → op ≤ 3 → (x.isNan ∨ y.isNan) → v = f.nanCode → g = (if x.isSig ∨ y.isSig then fNV else 0#10) → gives) ∧
    (((rc ≠ 0#5 ∧ op ≠ 5) ∨ (rb ≠ 0#5 ∧ op ∈ [4, 12, 13, 14, 15]) ∨ op = 11 ∨ 16 ≤ op) →
      Machine.exec (.scalarFloatingPoint c fn rd ra rb) s = .next (s.traps c .illegal 0#64))

/-- SCALAR_LOAD returns the bytes it would read if every earlier store had already reached memory (R114), extended as R95 says; the
core is otherwise as it was, or has its buffer drained (R116).
Rests on the model's choice or reading in log entry 24. -/
def Obligations.LoadSeesEarlierStores : Prop :=
  ∀ (s : State) (c : CoreId) (op : BitVec 6) (rd ra : Reg) (imm : BitVec 16) (pfx : Pfx) (n : Nat) (sg : Bool),
    (op, n, sg) ∈ [(0x10#6, 1, true), (0x11#6, 1, false), (0x12#6, 2, true), (0x13#6, 2, false), (0x14#6, 4, true),
      (0x15#6, 4, false), (0x16#6, 8, false)] →
    let k := s.core c
    let len := pfxLen pfx
    let a := (k.reg ra + immS pfx imm).toNat
    s.ready c len → pfxBad pfx = false → scalarMay k false a n → k.bufferOk → k.badDmem = [] → k.badSpad = [] → k.badImem = [] →
    let x := leNat (k.drain.load a n)
    let v : Word := if sg then (BitVec.ofNat (8 * n) x).signExtend 64 else BitVec.ofNat 64 x
    ∃ k', (k' = k ∨ k' = k.drain) ∧
      Machine.exec (.scalarLoad c op rd ra imm pfx) s = .next (s.setCore c ((k'.setReg rd v).past len))

/-- SCALAR_LOAD: a misaligned access is an alignment fault with TRV the address (R74, R75), an uncorrectable word that a load with an
empty buffer reads is a memory-error trap which is counted and leaves RD (R78), and a store that holds every byte is
forwarded (R115).
Rests on the model's choice or reading in log entries 25 and 150. -/
def Obligations.LoadTrapsAndForwarding : Prop :=
  ∀ (s : State) (c : CoreId) (op : BitVec 6) (rd ra : Reg) (imm : BitVec 16) (pfx : Pfx) (n : Nat),
    (op, n) ∈ [(0x10#6, 1), (0x11#6, 1), (0x12#6, 2), (0x13#6, 2), (0x14#6, 4), (0x15#6, 4), (0x16#6, 8)] →
    let k := s.core c
    let len := pfxLen pfx
    let w := k.reg ra + immS pfx imm
    let run := Machine.exec (.scalarLoad c op rd ra imm pfx) s
    s.ready c len →
    (pfxBad pfx = true → run = .next (s.traps c .illegal 0#64)) ∧
    (pfxBad pfx = false →
    (placeOf w.toNat ≠ .alias_ → w.toNat % n ≠ 0 → run = .next (s.traps c .align w)) ∧
    (placeOf w.toNat = .alias_ → k.level ≠ .firmware → run = .next (s.traps c .privilege w)) ∧
    (placeOf w.toNat = .alias_ → k.level = .firmware → n < 4 → run = .next (s.traps c .align w)) ∧
    (scalarMay k false w.toNat n → k.sb = [] → placeOf w.toNat = .dmem → ∀ b, k.badDmem = [b] → w.toNat / 8 * 8 = b →
      run = .next ((s.traps c .memErr w).countUnc .dmem (0x10100000000 + c.val * 0x200000 + 0x100000 + b))) ∧
    (∀ older (e : SbEntry) younger, op = 0x16#6 ∨ op = 0x15#6 ∨ op = 0x13#6 ∨ op = 0x11#6 → scalarMay k false w.toNat n →
      k.sb = older ++ e :: younger → e.covers w.toNat n = true →
      (∀ y ∈ younger, y.overlaps w.toNat n = false) →
      run = .next (s.setCore c ((k.setReg rd (BitVec.ofNat 64 (e.data.toNat / 256 ^ (w.toNat - e.addr) % 256 ^ n))).past len))))

/-- SCALAR_STORE enters the buffer as its youngest entry (R112, R113), or writes IMEM after the buffer has emptied (R122);
STORE_BUFFER_DRAIN takes the oldest one to memory, but a sub-word store into an uncorrectable word raises MEMERR_ASYNC (R120) and is
counted (09:R397).
Rests on the model's choice or reading in log entries 23 and 26. -/
def Obligations.StoresEnterAndLeaveTheBuffer : Prop :=
  (∀ (s : State) (c : CoreId) (op : BitVec 6) (rd ra : Reg) (imm : BitVec 16) (pfx : Pfx) (n : Nat),
    (op, n) ∈ [(0x18#6, 1), (0x19#6, 2), (0x1A#6, 4), (0x1B#6, 8)] →
    let k := s.core c
    let len := pfxLen pfx
    let w := k.reg ra + immS pfx imm
    let a := w.toNat
    let v := BitVec.ofNat 64 ((k.reg rd).toNat % 256 ^ n)
    let run := Machine.exec (.scalarStore c op rd ra imm pfx) s
    s.ready c len →
    (pfxBad pfx = true → run = .next (s.traps c .illegal 0#64)) ∧
    (pfxBad pfx = false →
    (scalarMay k true a n → placeOf a ≠ .alias_ → k.sb.length < 8 →
      run = .next (s.setCore c (({ k with sb := k.sb ++ [⟨a, n, v⟩] } : Core).past len))) ∧
    (scalarMay k true a n → placeOf a ≠ .alias_ → k.sb.length = 8 → k.badDmem = [] → k.badSpad = [] → k.badImem = [] →
      ∀ e rest, k.sb = e :: rest →
        run = .next (s.setCore c (({ k.store e.addr (leBytes e.size e.data.toNat) with sb := rest ++ [⟨a, n, v⟩] } : Core).past len))) ∧
    (scalarMay k true a n → placeOf a = .alias_ → k.sb = [] → k.badImem = [] →
      ∃ t, run = .next (s.setCore c t) ∧ t.imem = k.imem.put (a - 0x100000) (leBytes n (k.reg rd).toNat) ∧
        t.dmem = k.dmem ∧ t.spad = k.spad ∧ t.gregs = k.gregs ∧ t.pc.toNat = k.pc.toNat + len ∧ t.sb = [] ∧ t.vregs = k.vregs) ∧
    (placeOf a ≠ .alias_ → a % n ≠ 0 → run = .next (s.traps c .align w)))) ∧
  (∀ (s : State) (c : CoreId) (e : SbEntry) (rest : List SbEntry), s.pstate = .run → (s.core c).sb = e :: rest →
    let k := s.core c
    (e.addr + e.size ≤ 0x3FC00 → k.badDmem = [] → Machine.exec (.storeBufferDrain c) s =
      .next (s.setCore c { k with sb := rest, dmem := k.dmem.put e.addr (leBytes e.size e.data.toNat) })) ∧
    (0x40000000 ≤ e.addr → e.addr < 0x45800000 → k.badSpad = [] → Machine.exec (.storeBufferDrain c) s =
      .next (s.setCore c { k with sb := rest, spad := k.spad.put (e.addr - 0x40000000) (leBytes e.size e.data.toNat) })) ∧
    (e.addr + e.size ≤ 0x3FC00 → 0 < e.size → e.size < 8 → e.addr % e.size = 0 → e.size ∣ 8 → k.badDmem = [e.addr / 8 * 8] → k.pMemErr = none →
      Machine.exec (.storeBufferDrain c) s =
        .next ((s.setCore c { k with sb := rest, pMemErr := some (BitVec.ofNat 64 (e.addr / 8 * 8)) }).countUnc .dmem
          (0x10100000000 + c.val * 0x200000 + 0x100000 + e.addr / 8 * 8))))

/-- Every step keeps the store buffer of each core within its 8 entries, each a store that the checks of R112 let in: 1, 2, 4 or 8 bytes
wide, aligned, in DMEM or the scratchpad window. -/
def Obligations.BufferedStoresStayChecked : Prop :=
  ∀ s t : State, (∀ c, (s.core c).bufferOk ∧ (s.core c).sb.length ≤ 8) → Machine.step s = .next t →
    ∀ c, (t.core c).bufferOk ∧ (t.core c).sb.length ≤ 8

/-- Memory: what a run of bytes written at an address reads as, byte by byte, and that every write keeps the canonical form.
Rests on the model's choice or reading in log entry 11. -/
def Obligations.MemoryReadAfterWrite : Prop :=
  ∀ (m : Mem) (a : Nat) (bs : List Byte),
    (∀ x, (m.put a bs).get x = if a ≤ x then bs.getD (x - a) (m.get x) else m.get x) ∧
    (∀ i n, i < n → (m.getN a n).getD i 0#8 = m.get (a + i)) ∧
    (m.wf = true → (m.put a bs).wf = true) ∧
    (∀ m', m.wf = true → m'.wf = true → (∀ x, Mem.get m' x = m.get x) → m' = m)

/-- BRANCH, JUMP, JAL and JALR: the comparison, the target, the link (R96), and the fetch fault of R97, which writes no link. -/
def Obligations.ControlTransfers : Prop :=
  ∀ (s : State) (c : CoreId),
    let k := s.core c
    (∀ (op : BitVec 6) (ra rb : Reg) (off : BitVec 16), s.ready c 4 →
      let t := k.pcWord + BitVec.ofInt 64 (4 * off.toInt)
      let a := k.reg ra
      let b := k.reg rb
      let taken := (op = 0x20#6 ∧ a = b) ∨ (op = 0x21#6 ∧ a ≠ b) ∨ (op = 0x22#6 ∧ a.toInt < b.toInt) ∨
        (op = 0x23#6 ∧ b.toInt ≤ a.toInt) ∨ (op = 0x24#6 ∧ a.toNat < b.toNat) ∨ (op = 0x25#6 ∧ b.toNat ≤ a.toNat)
      let run := Machine.exec (.branch c op ra rb off) s
      (taken → targetOk t → run = .next (s.setCore c (k.atTarget t))) ∧
      (taken → ¬ targetOk t → run = .next (s.traps c .fetch t)) ∧
      (0x20#6 ≤ op → op ≤ 0x25#6 → ¬ taken → run = .next (s.setCore c (k.past 4)))) ∧
    (∀ off : BitVec 26, s.ready c 4 →
      let t := k.pcWord + BitVec.ofInt 64 (4 * off.toInt)
      (targetOk t → Machine.exec (.jump c off) s = .next (s.setCore c (k.atTarget t)) ∧
        Machine.exec (.jal c off) s = .next (s.setCore c ((k.setReg 30#5 (k.pcWord + 4#64)).atTarget t))) ∧
      (¬ targetOk t → Machine.exec (.jump c off) s = .next (s.traps c .fetch t) ∧
        Machine.exec (.jal c off) s = .next (s.traps c .fetch t))) ∧
    (∀ (rd ra : Reg) (imm : BitVec 16) (pfx : Pfx), s.ready c (pfxLen pfx) →
      let t := k.reg ra + immS pfx imm
      let link := k.pcWord + if pfx.isSome then 8#64 else 4#64
      (pfxBad pfx = true → Machine.exec (.jalr c rd ra imm pfx) s = .next (s.traps c .illegal 0#64)) ∧
      (pfxBad pfx = false →
      (targetOk t → Machine.exec (.jalr c rd ra imm pfx) s = .next (s.setCore c ((k.setReg rd link).atTarget t))) ∧
      (¬ targetOk t → Machine.exec (.jalr c rd ra imm pfx) s = .next (s.traps c .fetch t))))

/-- Registers: g0 reads as zero and discards writes, g31 is the stack pointer of the level, and a write to one register changes
no other (R63, R64, 09:R378). -/
def Obligations.RegisterFile : Prop :=
  ∀ (k : Core) (r q : Reg) (v : Word),
    k.reg 0#5 = 0#64 ∧ k.setReg 0#5 v = k ∧ k.reg 31#5 = k.sp k.level ∧
    (r ≠ 0#5 → (k.setReg r v).reg r = v) ∧ (q ≠ r → (k.setReg r v).reg q = k.reg q) ∧
    (∀ l, l ≠ k.level → (k.setReg r v).sp l = k.sp l) ∧
    (k.setReg r v).pc = k.pc ∧ (k.setReg r v).fflags = k.fflags ∧ (k.setReg r v).dmem = k.dmem ∧ (k.setReg r v).tlvl = k.tlvl

/-- FWCALL and BREAK take their traps: the frame is pushed at the target's stack pointer, the bank and TLVL are written, and the PC
goes to the vector (09:R377, R380); with a stack pointer that R379 refuses the double fault is taken (09:R385); a BREAK in
double-fault state halts the core (09:R387).  IFENCE and SBDRAIN empty the store buffer (02:R117, R124).
Rests on the model's choice or reading in log entries 30 and 33. -/
def Obligations.SystemInstructions : Prop :=
  ∀ (s : State) (c : CoreId), s.ready c 4 →
    let k := s.core c
    let entered (t : Level) (code : Nat) : Core := k.afterEntry t (BitVec.ofNat 64 code) 0#64 k.pcWord (16 * code)
    (∀ t, (k.level = .runtime ∨ k.level = .firmware) → t = .firmware → k.settled → k.dfault = false → frameOk (k.sp t) = true →
      Machine.exec (.fwcall c 0#5 0#5 0#5) s = .next (s.setCore c (entered t 0x09))) ∧
    (∀ t, k.level ≠ .firmware → ((k.level = .kernel ∧ (k.bank .kernel).base ≠ 0#9 ∧ t = .kernel) ∨
        ((k.level = .runtime ∨ (k.bank .kernel).base = 0#9) ∧ (k.bank .runtime).base ≠ 0#9 ∧ t = .runtime)) →
      k.settled → k.dfault = false → frameOk (k.sp t) = true →
      Machine.exec (.brk c 0#5 0#5 0#5) s = .next (s.setCore c (entered t 0x0A))) ∧
    (k.level = .firmware → k.settled → k.dfault = false → frameOk k.spF = false →
      ∃ t, Machine.exec (.brk c 0#5 0#5 0#5) s = .next (s.setCore c t) ∧ t.dfault = true ∧ t.pc = 0xF0040#20 ∧
        t.tlvl = { k.tlvl with cur := .firmware, ie := false } ∧ t.dmem.getLe 0x3FC00 8 = k.pc.toNat ∧
        t.dmem.getLe 0x3FC08 8 = 0x0A ∧ t.spF = k.spF ∧ t.gregs = k.gregs ∧ t.banks = k.banks) ∧
    (k.dfault = true → Machine.exec (.brk c 0#5 0#5 0#5) s = .next (s.setCore c { k with halted := true, resetReq := some (k.chainReq false) })) ∧
    (Machine.exec (.ifence c 0#5 0#5 0#5) s = .next (s.ownChange c (fun k => { k.drain.past 4 with stale := [] }))) ∧
    (Machine.exec (.sbdrain c 0#5 0#5 0#5) s = .next (s.ownChange c (fun k => k.drain.past 4))) ∧
    (∀ rd ra rb : Reg, rd ≠ 0#5 ∨ ra ≠ 0#5 ∨ rb ≠ 0#5 →
      ∀ i ∈ [Instr.fwcall c rd ra rb, .brk c rd ra rb, .ifence c rd ra rb, .sbdrain c rd ra rb, .tret c rd ra rb],
        Machine.exec i s = .next (s.traps c .illegal 0#64))

/-- TRET: the frame is popped, the level and the stack pointer restored, and execution goes on at TRPC (09:R383, R384); in
double-fault state it is illegal.
Rests on the model's choice or reading in log entry 31. -/
def Obligations.TretRestores : Prop :=
  ∀ (s : State) (c : CoreId), s.ready c 4 →
    let k := s.core c
    let l := k.level
    let sp := k.sp l
    let w (i : Nat) := k.dmem.getLe (sp.toNat + 8 * i) 8
    let run := Machine.exec (.tret c 0#5 0#5 0#5) s
    (k.settled → k.dfault = false → sp.toNat % 16 = 0 → frameOk (sp + 64#64) = true → k.badDmem = [] →
      (∀ lv, Level.ofNum (w 3 % 4) = some lv → lv.num ≤ l.num → targetOk (k.bank l).trpc →
        run = .next (s.setCore c (({ (k.setBank l { k.bank l with
              trc := BitVec.ofNat 64 (w 0) &&& 0x80000000000000FF#64, trpc := BitVec.ofNat 64 (w 1), trv := BitVec.ofNat 64 (w 2) }).setSp l (sp + 64#64)
            with tlvl := ⟨bitN (w 3) 5, bitN (w 3) 4, BitVec.ofNat 2 (w 3 / 4), lv⟩ }).atTarget (k.bank l).trpc))) ∧
      (w 3 % 4 = 3 → run = .next (s.traps c .privilege 0#64))) ∧
    (k.settled → k.dfault = true → run = .next (s.traps c .illegal 0#64)) ∧
    (k.settled → k.dfault = false → sp.toNat % 16 ≠ 0 → run = .next (s.traps c .align sp))
/-- CRR, CRW, CRSET and CRCLR: the value that RD gets, what is written (R100), the levels of R101 and R104, the banks of R102, the
layouts of R110 and R111, the clearing of FFLAGS (R105).
Rests on the model's choice or reading in log entry 27. -/
def Obligations.ControlRegisterAccess : Prop :=
  ∀ (s : State) (c : CoreId) (rd ra : Reg), s.ready c 4 →
    let k := s.core c
    let a := k.reg ra
    let low (n : Nat) (w : Word) : Word := BitVec.ofNat 64 (w.toNat % 2 ^ n)
    let cut (lo n : Nat) (w : Word) : Nat := w.toNat / 2 ^ lo % 2 ^ n
    let bank (l : Level) (f : TrapBank → TrapBank) (x : Core) : Core := x.setBank l (f (x.bank l))
    let tv (l : Level) (w : Word) (b : TrapBank) : TrapBank :=
      let n : BitVec 9 := BitVec.ofNat 9 (cut 11 9 w)
      { b with base := if l = .kernel ∧ 0x1E0 ≤ n.toNat then 0#9 else if l = .firmware ∧ n = 0#9 then b.base else n }
    -- number, read level, write level, the value read, the register written
    let four (n : Nat) (rl : Level) (l : Level) : List (Nat × Level × Level × Word × (Word → Core → Core)) :=
      [(n, rl, rl, (k.bank l).trc, fun w => bank l (fun b => { b with trc := w &&& 0x80000000000000FF#64 })),
       (n + 1, rl, rl, (k.bank l).trpc, fun w => bank l (fun b => { b with trpc := w })),
       (n + 2, rl, rl, (k.bank l).trv, fun w => bank l (fun b => { b with trv := w })),
       (n + 3, rl, rl, BitVec.ofNat 64 ((k.bank l).base.toNat * 2048), fun w => bank l (tv l w))]
    let rw : List (Nat × Level × Level × Word × (Word → Core → Core)) :=
      [(0x004, .kernel, .firmware, k.cycle, fun w x => { x with cycle := w }),
       (0x005, .kernel, .firmware, k.stlIssue, fun w x => { x with stlIssue := w }),
       (0x006, .kernel, .firmware, k.stlSync, fun w x => { x with stlSync := w }),
       (0x007, .kernel, .firmware, k.instret, fun w x => { x with instret := w }),
       (0x014, .kernel, .runtime, BitVec.ofNat 64 (k.level.num + 4 * k.tlvl.prev.toNat + 16 * b2n k.tlvl.ie + 32 * b2n k.tlvl.pie),
         fun w x => { x with tlvl := Tlvl.mk (w.getLsbD 5) (w.getLsbD 4) (BitVec.ofNat 2 (cut 2 2 w)) x.tlvl.cur }),
       (0x030, .kernel, .kernel, k.vl.setWidth 64, fun w x => { x with vl := w.setWidth 18 }),
       (0x031, .kernel, .kernel, BitVec.ofNat 64 (k.grp.toNat + 16 * k.ew.toNat),
         fun w x => { x with grp := w.setWidth 2, ew := if cut 4 3 w ≤ 4 then BitVec.ofNat 3 (cut 4 3 w) else x.ew }),
       (0x032, .kernel, .kernel, k.vcur.setWidth 64, fun w x => { x with vcur := w.setWidth 18 }),
       (0x041, .kernel, .kernel, BitVec.ofNat 64 (k.fmode.rm.toNat + 16 * b2n k.fmode.pam + 4096 * k.fmode.ten.toNat),
         fun w x => { x with fmode := Fmode.mk (BitVec.ofNat 10 (cut 12 10 w)) (w.getLsbD 4)
                                        (if cut 0 3 w ≤ 5 then BitVec.ofNat 3 (cut 0 3 w) else x.fmode.rm) }),
       (0x060, .kernel, .firmware, k.asc, fun w x => { x with asc := w }),
       (0x061, .kernel, .runtime, k.seed[0].setWidth 64, fun w x => { x with seed := x.seed.set 0 (w.setWidth 32) }),
       (0x062, .kernel, .runtime, k.seed[1].setWidth 64, fun w x => { x with seed := x.seed.set 1 (w.setWidth 32) }),
       (0x063, .kernel, .runtime, k.seed[2].setWidth 64, fun w x => { x with seed := x.seed.set 2 (w.setWidth 32) }),
       (0x064, .kernel, .runtime, k.seed[3].setWidth 64, fun w x => { x with seed := x.seed.set 3 (w.setWidth 32) }),
       (0x070, .kernel, .runtime, k.spint.setWidth 64, fun w x => { x with spint := w.setWidth 16 })] ++
      four 0x010 .kernel k.level ++ four 0x018 .runtime .kernel ++ four 0x01C .firmware .runtime
    let ro : List (Nat × Level × Word) :=
      [(0x000, .kernel, BitVec.ofNat 64 (c.val + 65536 * s.deviceId.toNat)), (0x001, .kernel, (s.pasidOf c).setWidth 64),
       (0x020, .runtime, 0x3FC00#64), (0x050, .kernel, if s.arrayRep c then 0x107#64 else 6#64)]
    let trapped (x : Cause) (i : Instr) := Machine.exec i s = .next (s.traps c x 0#64)
    let nx (x : Core) (i : Instr) := Machine.exec i s = .next (s.setCore c (x.past 4))
    (k.inFlight = false → ∀ p ∈ rw, let n : BitVec 12 := BitVec.ofNat 12 p.1
      (p.2.1.num ≤ k.level.num → nx (k.setReg rd p.2.2.2.1) (.crr c rd 0#5 n)) ∧
      (k.level.num < p.2.1.num → trapped .privilege (.crr c rd 0#5 n)) ∧
      (p.2.1.num ≤ k.level.num → p.2.2.1.num ≤ k.level.num →
        nx (p.2.2.2.2 a (k.setReg rd p.2.2.2.1)) (.crw c rd ra n) ∧
        nx (p.2.2.2.2 (p.2.2.2.1 ||| a) (k.setReg rd p.2.2.2.1)) (.crset c rd ra n) ∧
        nx (p.2.2.2.2 (p.2.2.2.1 &&& ~~~a) (k.setReg rd p.2.2.2.1)) (.crclr c rd ra n)) ∧
      (k.level.num < p.2.2.1.num → trapped .privilege (.crw c rd ra n) ∧ trapped .privilege (.crset c rd ra n) ∧ trapped .privilege (.crclr c rd ra n))) ∧
    (∀ p ∈ ro, let n : BitVec 12 := BitVec.ofNat 12 p.1
      (p.2.1.num ≤ k.level.num → nx (k.setReg rd p.2.2) (.crr c rd 0#5 n)) ∧
      trapped .illegal (.crw c rd ra n) ∧ trapped .illegal (.crset c rd ra n) ∧ trapped .illegal (.crclr c rd ra n)) ∧
    (k.inFlight = false → nx (k.setReg rd (k.fflags.setWidth 64)) (.crr c rd 0#5 0x040#12) ∧
      nx { k.setReg rd (k.fflags.setWidth 64) with fflags := k.fflags &&& ~~~(a.setWidth 10) } (.crw c rd ra 0x040#12) ∧
      nx { k.setReg rd (k.fflags.setWidth 64) with fflags := k.fflags &&& ~~~(a.setWidth 10) } (.crclr c rd ra 0x040#12)) ∧
    trapped .illegal (.crset c rd ra 0x040#12) ∧
    (k.inFlight = true → ∀ i ∈ [Instr.crr c rd 0#5 0x040#12, .crw c rd ra 0x041#12, .crw c rd ra 0x060#12, .crw c rd ra 0x030#12],
      k.level = .firmware → Machine.exec i s = .next (s.setCore c { k with stall := .issue })) ∧
    (ra ≠ 0#5 → ∀ n, trapped .illegal (.crr c rd ra n)) ∧
    (∀ n : BitVec 12, 0x070#12 < n → trapped .illegal (.crr c rd 0#5 n) ∧ trapped .illegal (.crw c rd ra n))

/-! ## Traps, resets, replay (spec/09, spec/14, spec/18) -/

/-- INTERRUPT_TAKEN: which pending interrupt is taken, and when (09:R393, R396), with the entry of 09:R380; nothing is taken while none may
be. SPINT_OVER becomes pending once per interval (09:R374). SYSCALL traps to Runtime (02:R99, 09:R371); from Kernel code with g1 zero it
ends the core: its clock is gated and the RUN has the exit value of g2 (15:R642, R643).
Rests on the model's choice or reading in log entries 2 and 86. -/
def Obligations.InterruptsAndSyscall : Prop :=
  (∀ (s : State) (c : CoreId), s.issues c = true →
    let k := s.core c
    let run := Machine.exec (.interruptTaken c none) s
    let may (t : Level) := k.level.num < t.num ∨ (k.level = t ∧ k.tlvl.ie = true)
    let enters (k' : Core) (t : Level) (code : Nat) (v : Word) :=
      run = .next (s.setCore c (k'.afterEntry t (BitVec.ofNat 64 (2 ^ 63 + code)) v k.pcWord 0x400))
    let t := k.runtimeOr
    (k.settled → k.dfault = false → k.pHalt = true → may .firmware → frameOk k.spF = true →
      enters { k with pHalt := false } .firmware 0x43 0#64) ∧
    (k.settled → k.dfault = false → k.pHalt = false → may t → frameOk (k.sp t) = true →
      (∀ v, k.pMemErr = some v → enters { k with pMemErr := none } t 0x40 v) ∧
      (∀ v, k.pMemErr = none → k.pNotice = some v → enters { k with pNotice := none } t 0x41 (v.setWidth 64)) ∧
      (∀ v, k.pMemErr = none → k.pNotice = none → k.pSpint = some v → enters { k with pSpint := none } t 0x42 v)) ∧
    ((k.dfault = true ∨ k.pendings = [] ∨ (k.level = .firmware ∧ k.tlvl.ie = false)) → run = .next s) ∧
    (k.spint ≠ 0#16 → k.spint.toNat * 2048 + k.spintFrom.toNat < k.cycle.toNat → k.dfault = false → k.spintDone = false → k.pSpint = none →
      Machine.exec (.spintOver c) s = .next (s.setCore c
        { k with spintDone := true, pSpint := some (k.cycle - k.spintFrom) })) ∧
    (k.spint = 0#16 ∨ k.cycle.toNat ≤ k.spint.toNat * 2048 + k.spintFrom.toNat ∨ k.spintDone = true → Machine.exec (.spintOver c) s = .next s)) ∧
  (∀ (s : State) (c : CoreId), s.ready c 4 →
    let k := s.core c
    let t := k.runtimeOr
    k.settled → k.dfault = false → frameOk (k.sp t) = true →
    (k.active = false ∨ k.level ≠ .kernel ∨ k.reg 1#5 ≠ 0#64 →
      Machine.exec (.syscall c 0#5 0#5 0#5) s = .next (s.setCore c (k.afterEntry t 0x08#64 0#64 k.pcWord 0x80))) ∧
    (k.active = true → k.level = .kernel → k.reg 1#5 = 0#64 → k.arec.flags = 0#10 → ∀ x r, s.ctxOf c = some x → x.run = some r →
      (s.ctxs.filter (fun y => y.pasid == x.pasid)).length = 1 →
      ∃ u, Machine.exec (.syscall c 0#5 0#5 0#5) s = .next u ∧ (u.core c).active = false ∧ (u.core c).level = t ∧
        u.gated.getLsbD c.val = true ∧ (∀ d, d ≠ c → u.core d = s.core d ∧ u.gated.getLsbD d.val = s.gated.getLsbD d.val) ∧
        u.ctx x.pasid = some { x with run := some { r with exits := r.exits ++ [(c, k.reg 2#5)] } } ∧
        u.hbm = s.hbm ∧ u.journal = s.journal ∧ u.chans = s.chans) ∧
    (∀ rd ra rb : Reg, rd ≠ 0#5 ∨ ra ≠ 0#5 ∨ rb ≠ 0#5 →
      Machine.exec (.syscall c rd ra rb) s = .next (s.traps c .illegal 0#64)))


/-- SELF_CHECK_FAILURE stops the core (09:R388); CORE_RESET journals a TRAP entry, resets the core, and decides: replay on the same
core at the first hardware cause, an abort after a cause that is not hardware's (09:R390, R391, R406).
Rests on the model's choice or reading in log entries 32 and 88. -/
def Obligations.CoreResetsDecided : Prop :=
  (∀ (s : State) (c : CoreId), s.pstate = .run → s.gated.getLsbD c.val = false →
    Machine.exec (.selfCheckFailure c) s = .next (s.setCore c { s.core c with
      halted := true, resetReq := some ⟨true, (s.core c).dfault, false, false, 0xFF#8, (s.core c).pc⟩ })) ∧
  (∀ (s : State) (c : CoreId) (r : ResetReq) (x : Context) (u : RunRec), (s.core c).resetReq = some r → s.ctxOf c = some x →
    x.run = some u → u.cores.getLsbD c.val = true → (∀ e ∈ u.exits, e.1 ≠ c) →
    let status (res : Nat) : Word := BitVec.ofNat 64 (res * 2 ^ 62 + b2n r.hw * 2 ^ 61 + b2n r.df * 2 ^ 60 + b2n r.nest * 2 ^ 59 +
      b2n r.int * 2 ^ 58 + c.val * 2 ^ 53 + r.cause.toNat * 2 ^ 40 + r.pc.toNat)
    (r.hw = true → (s.core c).resets = 0 → r.cause ≠ 0xFF#8 → (s.core c).elogD = [] → (s.core c).replayD = [] →
      ∃ t, Machine.exec (.coreReset c) s = .next t ∧ (t.core c).decided = some (false, s.journal.tail) ∧ (t.core c).halted = true ∧
        (t.core c).resetReq = none ∧ (t.core c).resets = 1 ∧ (t.core c).gregs = Vector.replicate 30 0#64 ∧ (t.core c).pc = 0xF0000#20 ∧
        (t.core c).level = .firmware ∧ (t.core c).dmem = (s.core c).dmem ∧ (t.core c).ckpt = (s.core c).ckpt ∧
        t.journal.tail = s.journal.tail + 1#64 ∧
        (∃ e ∈ t.journal.entries, e.seq = s.journal.tail ∧ e.kind = 0x10#5 ∧ e.dev = true ∧ e.status = status 0 ∧ e.pasid = x.pasid)) ∧
    (r.hw = false → s.ctx x.pasid = some x → ∃ t, Machine.exec (.coreReset c) s = .next t ∧ (t.core c).active = false ∧ (t.core c).halted = true ∧
        t.gated.getLsbD c.val = true ∧ t.journal.tail = s.journal.tail + 1#64 ∧
        (∃ e ∈ t.journal.entries, e.seq = s.journal.tail ∧ e.kind = 0x10#5 ∧ e.status = status 2))) ∧
  (∀ (s : State) (c : CoreId), (s.core c).resetReq = none → (s.core c).active = false → Machine.exec (.coreReset c) s = .next s)

/-- REPLAY and FAILOVER put the core back at its checkpoint with the banks empty (14:R605) and its effect log before it (14:R606); a
failover moves it to the lowest spare of its die, retires the failed physical core and journals the move (18:R747 to R749).
Rests on the model's choice or reading in log entry 89. -/
def Obligations.ReplayFromCheckpoint : Prop :=
  ∀ (s : State) (c : CoreId) (q : Checkpoint), (s.pstate = .run ∨ s.pstate = .idle) → (s.core c).ckpt = some q →
    let k := s.core c
    let back (t : State) :=
      let r := t.core c
      t.pstate = .run ∧ t.gated.getLsbD c.val = false ∧ (∀ d, d ≠ c → t.core d = s.core d) ∧ t.hbm = s.hbm ∧ t.caches = s.caches ∧
      r.pc = q.pc ∧ r.gregs = q.gregs ∧ r.spK = q.spK ∧ r.spR = q.spR ∧ r.spF = q.spF ∧ r.banks = q.banks ∧ r.tlvl = q.tlvl ∧
      r.fflags = q.fflags ∧ r.fmode = q.fmode ∧ r.vl = q.vl ∧ r.ew = q.ew ∧ r.grp = q.grp ∧ r.vcur = q.vcur ∧ r.asc = q.asc ∧
      r.seed = q.seed ∧ r.vregs = q.vregs ∧ r.masks = q.masks ∧ r.slots = q.slots ∧ r.mxcfg = q.mxcfg ∧ r.epi = q.epi ∧
      r.dmem = q.dmem ∧ r.cycle = q.cycle ∧ r.instret = q.instret ∧ r.abanks = Vector.replicate 4 Bank.empty ∧ r.sb = [] ∧ r.mxq = [] ∧
      r.drains = [] ∧ r.arun = none ∧ r.posts = [] ∧ r.halted = false ∧ r.active = true ∧ r.decided = none ∧ r.imem = k.imem ∧
      r.elogD = [] ∧ r.elogS = [] ∧ r.replayD = k.elogD ++ k.replayD ∧ r.replayS = k.elogS ++ k.replayS ∧ r.ckpt = some q
    (∀ n, k.decided = some (false, n) → ∃ t, Machine.exec (.replay c) s = .next t ∧ back t ∧ t.rep = s.rep ∧ t.journal = s.journal) ∧
    (∀ n p rest, k.decided = some (true, n) → (∀ d, d ≠ c → (s.core d).decided = none) → s.rep.spareCores (dieOf c) = p :: rest →
      ∃ t, Machine.exec (.failover c) s = .next t ∧ back t ∧ t.rep.map[c] = ⟨true, BitVec.ofNat 5 p⟩ ∧
        (∀ d : CoreId, d ≠ c → t.rep.map[d] = s.rep.map[d]) ∧
        t.rep.retired[dieOf c].getLsbD (s.rep.map[c].pcore.toNat) = (decide (s.rep.map[c].pcore.toNat < 18)) ∧
        t.journal.tail = s.journal.tail + 1#64 ∧
        (∃ e ∈ t.journal.entries, e.seq = s.journal.tail ∧ e.kind = 0x11#5 ∧ e.clink = (n.toNat : Int) - s.journal.tail.toNat ∧
          e.status = BitVec.ofNat 64 (c.val + 256 * (p % 32 + 64 + 128 * (dieOf c).val)))) ∧
    (∀ n, k.decided = some (true, n) → Machine.exec (.replay c) s = .next s)

/-! ## Signals and safe points (spec/14) -/

/-- SIGPOST logs its post behind the core's own descriptors, and traps on an increment or a target that R589 refuses; its effect adds
the increment to the counter modulo 2^64 once they have completed (R589, R590); SIGWAIT goes on once the counter has reached the
threshold, and waits before it (R592).
Rests on the model's choice or reading in log entries 84 and 85. -/
def Obligations.SignalPostAndWait : Prop :=
  ∀ (s : State) (c : CoreId) (ra rb : Reg),
    let k := s.core c
    let a := k.reg ra
    let b := k.reg rb
    (s.ready c 4 → k.sb = [] →
      (0 < b.toNat → b.toNat < 2 ^ 30 → a.toNat < 2 ^ 14 → k.replayS = [] →
        Machine.exec (.sigpost c 0#5 ra rb) s = .next (s.setCore c (({ k with
          elogS := k.elogS ++ [false], posts := k.posts ++ [⟨a, b, s.ownDescs c, k.elogS.length⟩] } : Core).past 4))) ∧
      ((b = 0#64 ∨ 2 ^ 30 ≤ b.toNat) → Machine.exec (.sigpost c 0#5 ra rb) s = .next (s.traps c .illegal b)) ∧
      (0 < b.toNat → b.toNat < 2 ^ 30 → 2 ^ 15 ≤ a.toNat →
        Machine.exec (.sigpost c 0#5 ra rb) s = .next (s.traps c .illegal a)) ∧
      (0 < b.toNat → b.toNat < 2 ^ 30 → a.toNat < 2 ^ 14 → ∀ rest, k.replayS = true :: rest →
        Machine.exec (.sigpost c 0#5 ra rb) s = .next (s.setCore c (({ k with replayS := rest, elogS := k.elogS ++ [true] } : Core).past 4)))) ∧
    (s.ready c 4 → k.settled → k.fmode.ten = 0#10 →
      (a.toNat < 256 → b.toNat ≤ (s.counter c (a.setWidth 8)).toNat → Machine.exec (.sigwait c 0#5 ra rb) s = .next (s.setCore c (k.past 4))) ∧
      (a.toNat < 256 → (s.counter c (a.setWidth 8)).toNat < b.toNat →
        Machine.exec (.sigwait c 0#5 ra rb) s = .next (s.setCore c { k with stall := .sync })) ∧
      (256 ≤ a.toNat → Machine.exec (.sigwait c 0#5 ra rb) s = .next (s.traps c .illegal 0#64))) ∧
    (∀ e rest x, (s.pstate = .run ∨ s.pstate = .idle) → k.posts = e :: rest → e.target.toNat < 256 → s.ctxOf c = some x →
      (∀ w ∈ e.waits, (s.chan w.1).queue = []) → s.ctx x.pasid = some x →
      ∃ t, Machine.exec (.sigpostEffect c) s = .next t ∧ (t.core c).posts = rest ∧
        (∃ y, t.ctx x.pasid = some y ∧ y.counters.toArray.getD e.target.toNat 0#64 = x.counters.toArray.getD e.target.toNat 0#64 + e.inc ∧
          ∀ j, j ≠ e.target.toNat → y.counters.toArray.getD j 0#64 = x.counters.toArray.getD j 0#64) ∧
        t.chans = s.chans ∧ t.fab = s.fab ∧ t.hbm = s.hbm ∧ (∀ d, d ≠ c → t.core d = s.core d)) ∧
    (∀ e rest w d, k.posts = e :: rest → w ∈ e.waits → d ∈ (s.chan w.1).queue → d.ticket = w.2 → d.old = false →
      Machine.exec (.sigpostEffect c) s = .next s)

/-- SAFEPT takes its checkpoint when nothing is in flight, the banks are empty and the core's descriptors have completed, and traps
with the failing checks in TRV (R597 to R600); CHECKPOINT_COMPLETE makes it the core's current one, with ASC one higher, the counts of
stochastic instructions at zero and a new safe-point interval (R598, R601, R604).
Rests on the model's choice or reading in log entry 82. -/
def Obligations.SafePoints : Prop :=
  ∀ (s : State) (c : CoreId),
    let k := s.core c
    let run := Machine.exec (.safept c 0#5 0#5 0#5) s
    (s.ready c 4 → k.settled → k.fmode.ten = 0#10 → s.ownDescs c = [] →
      (k.abanks = Vector.replicate 4 Bank.empty → k.ckptNew = none → s.postReady c = false →
        ∃ q, run = .next (s.setCore c { k with ckptNew := some q, stall := .sync }) ∧ q.pc = k.pc + 4#20 ∧ q.asc = k.asc + 1#64 ∧
          q.instret = k.instret + 1#64 ∧ q.gregs = k.gregs ∧ q.dmem = k.dmem ∧ q.vregs = k.vregs ∧ q.masks = k.masks ∧ q.tlvl = k.tlvl ∧
          q.banks = k.banks ∧ q.fflags = k.fflags ∧ q.fmode = k.fmode ∧ q.seed = k.seed ∧ q.slots = k.slots ∧ q.mxcfg = k.mxcfg ∧
          q.epi = k.epi ∧ q.vl = k.vl ∧ q.vcur = k.vcur ∧ q.cycle = k.cycle ∧ q.replaySet = replayBytes k (s.spansOf c)) ∧
      (∀ (b : Fin 4) (m : AccMode × BitVec 12), k.abanks = (Vector.replicate 4 Bank.empty).set b ⟨some m, false, []⟩ →
        run = .next (s.traps c .illegal (BitVec.ofNat 64 (2 ^ b.val))))) ∧
    (∀ q, (s.pstate = .run ∨ s.pstate = .idle) → k.ckptNew = some q → k.pc.toNat + 4 < 0x100000 →
      ∃ t r, Machine.exec (.checkpointComplete c) s = .next t ∧ t.core c = r ∧ r.ckpt = some q ∧ r.ckptNew = none ∧ r.asc = k.asc + 1#64 ∧
        r.stoV = 0#14 ∧ r.stoA = 0#14 ∧ r.stoD = 0#14 ∧ r.elogD = [] ∧ r.elogS = [] ∧ r.replayD = [] ∧ r.replayS = [] ∧ r.spintFrom = k.cycle ∧ r.resets = 0 ∧
        r.pc = k.pc + 4#20 ∧ r.instret = k.instret + 1#64 ∧ r.stall = .none ∧ r.gregs = k.gregs ∧ r.dmem = k.dmem ∧ r.vregs = k.vregs ∧
        r.held = (k.active && s.stopping (s.pasidOf c)) ∧ (∀ d, d ≠ c → t.core d = s.core d) ∧ t.hbm = s.hbm ∧ t.journal = s.journal) ∧
    (k.ckptNew = none → Machine.exec (.checkpointComplete c) s = .next s)

/-! ## Vector engine (spec/04) -/

/-- VLD, VLDS and VGATH: each active element takes the bytes at its address (R192, R193), inactive elements and every byte outside the
destination keep their values, and VCUR is 0; the first element that fails its check traps with VCUR at it and TRV its address, the
elements before it loaded (R194 to R196); a misaligned base traps before any element. VST, VSTS and VSCAT: memory holds each active
element that no later active one overwrites (R192, R193, R197); every other byte of core-local memory, and everything else in the core,
keeps its value.
Rests on the model's choice or reading in log entries 37 and 46. -/
def Obligations.VectorMemory : Prop :=
  (∀ (s : State) (c : CoreId) (f : VFields) (m : VMem), m ∈ [VMem.vld, .vlds, .vgath] → s.vready c → (s.core c).vmemOk m f = true →
    let k := (s.core c).drain
    let w := k.ewBits
    let e := (w + 7) / 8
    let n := k.vl.toNat
    let base := k.reg f.va
    let at_ (i : Nat) : Word := base + match m with
      | .vld => BitVec.ofNat 64 (i * w / 8)
      | .vlds => BitVec.ofNat 64 i * k.reg f.vb
      | _ => BitVec.ofNat 64 (k.velem f.vb w i * e)
    let run := match m with
      | .vld => Machine.exec (.vld c f) s
      | .vlds => Machine.exec (.vlds c f) s
      | _ => Machine.exec (.vgath c f) s
    let good (i : Nat) := k.elemCheck false (at_ i).toNat e = none ∧ k.badWord (at_ i).toNat e = none
    let loaded (x : Mem) (n' : Nat) := ∀ i < n, ({ k with vregs := x } : Core).velem f.vd w i =
      if k.activeAt f i ∧ i < n' then k.memElem (at_ i).toNat w (i * w % 8) else k.velem f.vd w i
    let framed (x : Mem) := ∀ a, k.outsideOf f.vd w a → x.get a = k.vregs.get a
    (k.vcur.toNat < n → base.toNat % e = 0 → (m = .vlds → (k.reg f.vb).toNat % e = 0) →
      ((∀ i, k.activeAt f i → good i) → ∃ x, run = .next (s.ownChange c (fun _ => ({ k with vregs := x, vcur := 0#18 } : Core).past 4)) ∧ loaded x n ∧ framed x) ∧
      (∀ i t, k.activeAt f i → (∀ j < i, k.activeAt f j → good j) → k.elemCheck false (at_ i).toNat e = some t →
        ∃ x, run = .next (s.ownChange c (fun _ => ({ k with vregs := x, vcur := BitVec.ofNat 18 i } : Core).takeTrap t (at_ i) k.pcWord)) ∧ loaded x i ∧ framed x)) ∧
    (n ≤ k.vcur.toNat → run = .next (s.ownChange c (fun _ => ({ k with vcur := 0#18 } : Core).past 4))) ∧
    (k.vcur.toNat < n → base.toNat % e ≠ 0 → run = .next (s.ownChange c (fun _ => k.takeTrap .align base k.pcWord)))) ∧
  (∀ (s : State) (c : CoreId) (f : VFields) (m : VMem), m ∈ [VMem.vst, .vsts, .vscat] → s.vready c → (s.core c).vmemOk m f = true →
    let k := (s.core c).drain
    let w := k.ewBits
    let e := (w + 7) / 8
    let n := k.vl.toNat
    let base := k.reg f.va
    let at_ (i : Nat) : Word := base + match m with
      | .vst => BitVec.ofNat 64 (i * w / 8)
      | .vsts => BitVec.ofNat 64 i * k.reg f.vb
      | _ => BitVec.ofNat 64 (k.velem f.vb w i * e)
    let run := match m with
      | .vst => Machine.exec (.vst c f) s
      | .vsts => Machine.exec (.vsts c f) s
      | _ => Machine.exec (.vscat c f) s
    (k.vcur.toNat < n → base.toNat % e = 0 → (m = .vsts → (k.reg f.vb).toNat % e = 0) → k.badDmem = [] → k.badSpad = [] →
      (∀ i, k.activeAt f i → k.elemCheck true (at_ i).toNat e = none) →
      ∃ t d p, run = .next (s.ownChange c (fun _ => t)) ∧ t = ({ k with dmem := d, spad := p, vcur := 0#18 } : Core).past 4 ∧
        (∀ i, k.activeAt f i → (∀ j, i < j → k.activeAt f j → (at_ j).toNat + e ≤ (at_ i).toNat ∨ (at_ i).toNat + e ≤ (at_ j).toNat ∨
            (w = 4 ∧ j = i + 1)) → t.memElem (at_ i).toNat w (i * w % 8) = k.velem f.vd w i) ∧
        (∀ a, (∀ i, k.activeAt f i → a < (at_ i).toNat ∨ (at_ i).toNat + e ≤ a) → t.load a 1 = k.load a 1) ∧
        (w = 4 → m = .vst → ∀ i < n, ¬ k.activeAt f i → t.memElem (at_ i).toNat w (i * w % 8) = k.memElem (at_ i).toNat w (i * w % 8))) ∧
    (n ≤ k.vcur.toNat → run = .next (s.ownChange c (fun _ => ({ k with vcur := 0#18 } : Core).past 4))))


/-- Element-wise arithmetic. Each active element of the destination is the result of R178, R181 or R182 to R184, the flags are those
of the active elements, and inactive elements, other registers and everything else keep their values (R173, R203). -/
def Obligations.VectorArithmetic : Prop :=
  ∀ (s : State) (c : CoreId) (f : VFields), s.vready c → (s.core c).calm →
    let k := s.core c
    let w := k.ewBits
    let rm := k.rm
    let fm := if w = 32 then fp32 else fp64
    let sg (x : Nat) : Int := if 2 ^ (w - 1) ≤ x then (x : Int) - 2 ^ w else x
    let code (v : Int) : Nat := (v % 2 ^ w).toNat
    let sat (lo hi v : Int) : Nat × Flags := (code (max lo (min hi v)), if v < lo ∨ hi < v then fSAT else 0#10)
    let smin : Int := -(2 ^ (w - 1))
    let smax : Int := 2 ^ (w - 1) - 1
    let half (v : Int) (sh : Nat) : Int := (2 * v + 2 ^ sh) / 2 ^ (sh + 1)
    let even (v : Int) (sh : Nat) : Int := (if v < 0 then -1 else 1) * (roundShift .rne 0 (decide (v < 0)) v.natAbs sh : Nat)
    let plain (g : Nat → Nat → Nat) : Nat → Nat → Nat → Nat × Flags := fun _ a b => (g a b, 0#10)
    -- FN, whether VB is read, the element function
    let fp : List (BitVec 7 × Bool × (Nat → Nat → Nat → Nat × Flags)) :=
      [(0x00#7, true, fun _ a b => fm.add rm a b), (0x01#7, true, fun _ a b => fm.sub rm a b), (0x02#7, true, fun _ a b => fm.mul rm a b),
       (0x03#7, true, fun _ a b => fm.div rm a b), (0x04#7, false, fun _ a _ => fm.sqrt rm a), (0x05#7, true, fun d a b => fm.fma rm a b d),
       (0x06#7, true, fun _ a b => fm.minMax false a b), (0x07#7, true, fun _ a b => fm.minMax true a b),
       (0x08#7, false, plain (fun a _ => if 2 ^ (w - 1) ≤ a then a - 2 ^ (w - 1) else a + 2 ^ (w - 1))),
       (0x09#7, false, plain (fun a _ => a % 2 ^ (w - 1))), (0x0A#7, true, plain (fun a b => a % 2 ^ (w - 1) + b / 2 ^ (w - 1) * 2 ^ (w - 1)))]
    let int : List (BitVec 7 × (Nat → Nat → Nat)) :=
      [(0x00#7, fun a b => (a + b) % 2 ^ w), (0x01#7, fun a b => code (sg a - sg b)), (0x02#7, fun a b => a * b % 2 ^ w),
       (0x03#7, fun a b => code (sg a * sg b / 2 ^ w)), (0x04#7, fun a b => a * b / 2 ^ w), (0x05#7, fun a b => a &&& b),
       (0x06#7, fun a b => a ||| b), (0x07#7, fun a b => a ^^^ b), (0x08#7, fun a b => a * 2 ^ (b % w) % 2 ^ w),
       (0x09#7, fun a b => a / 2 ^ (b % w)), (0x0A#7, fun a b => code (sg a / 2 ^ (b % w))), (0x0B#7, fun a b => code (min (sg a) (sg b))),
       (0x0C#7, fun a b => code (max (sg a) (sg b))), (0x0D#7, fun a b => min a b), (0x0E#7, fun a b => max a b)]
    let fix : List (BitVec 7 × (Nat → Nat → Nat → Nat × Flags)) :=
      [(0x00#7, fun _ a b => sat smin smax (sg a + sg b)), (0x01#7, fun _ a b => sat 0 (2 ^ w - 1) ((a : Int) + b)),
       (0x02#7, fun _ a b => sat smin smax (sg a - sg b)), (0x03#7, fun _ a b => sat 0 (2 ^ w - 1) ((a : Int) - b)),
       (0x08#7, plain (fun a b => code (even (sg a) (b % 256)))), (0x09#7, plain (fun a b => code (half (sg a) (b % 256)))),
       (0x0A#7, plain (fun a b => code ((sg a).tdiv (2 ^ (b % 256))))), (0x0B#7, plain (fun a b => code (sg a / 2 ^ (b % 256)))),
       (0x0C#7, plain (fun a b => code (-(-(sg a) / 2 ^ (b % 256))))), (0x10#7, plain (fun a b => code (even a (b % 256)))),
       (0x11#7, plain (fun a b => code (half a (b % 256)))), (0x12#7, plain (fun a b => a / 2 ^ (b % 256))),
       (0x13#7, plain (fun a b => a / 2 ^ (b % 256))), (0x14#7, plain (fun a b => code (-(-(a : Int) / 2 ^ (b % 256))))),
       (0x18#7, fun d a b => (code (min (max (sg a) (sg b)) (sg d)), if min (max (sg a) (sg b)) (sg d) ≠ sg a then fSAT else 0#10)),
       (0x19#7, fun d a b => (min (max a b) d, if min (max a b) d ≠ a then fSAT else 0#10))]
    let q : List (BitVec 7 × (Nat → Nat → Nat → Nat × Flags)) :=
      [(0x04#7, fun _ a b => sat smin smax (half (sg a * sg b) (w - 1))), (0x05#7, fun _ a b => sat smin smax (sg a * sg b / 2 ^ (w - 1)))]
    let gives (run : Host.Outcome State Fault Refusal) (g : Nat → Nat → Nat → Nat × Flags) :=
      let r (i : Nat) := g (k.velem f.vd w i) (k.velem f.va w i) (k.velem f.vb w i)
      ∃ x fl, run = .next (s.setCore c (k.landed { k with vregs := x, vcur := 0#18 } 4 fl)) ∧
        (∀ i < k.vl.toNat, (k.activeAt f i → ({ k with vregs := x } : Core).velem f.vd w i = (r i).1 % 2 ^ w) ∧
          (¬ k.activeAt f i → ({ k with vregs := x } : Core).velem f.vd w i = k.velem f.vd w i)) ∧
        (∀ a, k.outsideOf f.vd w a → x.get a = k.vregs.get a) ∧
        (∀ b, fl.getLsbD b = true ↔ ∃ i, k.activeAt f i ∧ (r i).2.getLsbD b = true)
    ((w = 32 ∨ w = 64) → ∀ p ∈ fp, f.fn = p.1 → k.elemOk f w p.2.1 = true → gives (Machine.exec (.vectorFpArithmetic c f) s) p.2.2) ∧
    (w ≠ 4 → ∀ p ∈ int, f.fn = p.1 → k.elemOk f w true = true → gives (Machine.exec (.vectorIntegerArithmetic c f) s) (plain p.2)) ∧
    (w ≠ 4 → ∀ p ∈ fix, f.fn = p.1 → k.elemOk f w true = true → gives (Machine.exec (.vectorFixedPoint c f) s) p.2) ∧
    ((w = 16 ∨ w = 32) → ∀ p ∈ q, f.fn = p.1 → k.elemOk f w true = true → gives (Machine.exec (.vectorFixedPoint c f) s) p.2) ∧
    ((w ≠ 32 ∧ w ≠ 64) → Machine.exec (.vectorFpArithmetic c f) s = .next (s.traps c .illegal 0#64)) ∧
    (w = 4 ∨ 0x0E#7 < f.fn → Machine.exec (.vectorIntegerArithmetic c f) s = .next (s.traps c .illegal 0#64))

/-- The compares write bits of mask VD at active elements, and nothing else but VCUR and the flags (R180, R181). Mask operations write bits
VCUR to VL − 1 of VD; MPOPC and MFIRST count and find over every bit below VL (R202). -/
def Obligations.ComparesAndMasks : Prop :=
  (∀ (s : State) (c : CoreId) (f : VFields), s.vready c → (s.core c).calm → (s.core c).cmpOk f (s.core c).ewBits = true →
    let k := s.core c
    let w := k.ewBits
    let fm := if w = 32 then fp32 else fp64
    let sg (x : Nat) : Int := if 2 ^ (w - 1) ≤ x then (x : Int) - 2 ^ w else x
    let gives (run : Host.Outcome State Fault Refusal) (p : Nat → Nat → Prop) (nv : Nat → Nat → Bool) :=
      ∃ v fl, run = .next (s.setCore c (k.landed ({ k with vcur := 0#18 }.setMask (f.vd.setWidth 3) v) 4 fl)) ∧
        (∀ i, (k.activeAt f i → (v.getLsbD i = true ↔ p (k.velem f.va w i) (k.velem f.vb w i))) ∧
          (¬ k.activeAt f i → v.getLsbD i = (k.mask (f.vd.setWidth 3)).getLsbD i)) ∧
        ((fl = fNV ∧ ∃ i, k.activeAt f i ∧ nv (k.velem f.va w i) (k.velem f.vb w i) = true) ∨
         (fl = 0#10 ∧ ∀ i, k.activeAt f i → nv (k.velem f.va w i) (k.velem f.vb w i) = false))
    let x (a : Nat) := fm.decode a
    let order (p : Ordering → Prop) (a b : Nat) := (x a).isNan = false ∧ (x b).isNan = false ∧ p (Machine.Num.cmp (x a) (x b))
    ((w = 32 ∨ w = 64) →
      (f.fn = 0x10#7 → gives (Machine.exec (.vectorFpCompare c f) s) (order (· = .eq)) (fun a b => (x a).isSig || (x b).isSig)) ∧
      (f.fn = 0x11#7 → gives (Machine.exec (.vectorFpCompare c f) s) (order (· = .lt)) (fun a b => (x a).isNan || (x b).isNan)) ∧
      (f.fn = 0x12#7 → gives (Machine.exec (.vectorFpCompare c f) s) (order (· ≠ .gt)) (fun a b => (x a).isNan || (x b).isNan))) ∧
    (w ≠ 4 →
      (f.fn = 0x10#7 → gives (Machine.exec (.vectorIntegerCompare c f) s) (fun a b => a = b) (fun _ _ => false)) ∧
      (f.fn = 0x11#7 → gives (Machine.exec (.vectorIntegerCompare c f) s) (fun a b => sg a < sg b) (fun _ _ => false)) ∧
      (f.fn = 0x12#7 → gives (Machine.exec (.vectorIntegerCompare c f) s) (fun a b => a < b) (fun _ _ => false)))) ∧
  (∀ (s : State) (c : CoreId) (f : VFields), s.vready c →
    let k := s.core c
    let n := k.vl.toNat
    f.m = false → f.mkr = 0#3 → n ≤ 65536 →
    let a (i : Nat) : Bool := (k.mask (f.va.setWidth 3)).getLsbD i
    let b (i : Nat) : Bool := (k.mask (f.vb.setWidth 3)).getLsbD i
    let writes (i : Instr) (g : Nat → Bool) := ∃ v,
      Machine.exec i s = .next (s.setCore c ((({ k with vcur := 0#18 } : Core).setMask (f.vd.setWidth 3) v).past 4)) ∧
      ∀ j, v.getLsbD j = if k.vcur.toNat ≤ j ∧ j < n then g j else (k.mask (f.vd.setWidth 3)).getLsbD j
    (f.vd.toNat < 8 → f.va.toNat < 8 → f.vb.toNat < 8 →
      (f.fn = 0#7 → writes (.maskLogic c f) (fun j => a j && b j)) ∧ (f.fn = 1#7 → writes (.maskLogic c f) (fun j => a j || b j)) ∧
      (f.fn = 2#7 → writes (.maskLogic c f) (fun j => a j ^^ b j)) ∧ (f.fn = 3#7 → writes (.maskLogic c f) (fun j => a j && !b j))) ∧
    (f.vd.toNat < 8 → f.va = 0#5 → f.vb = 0#5 →
      (f.fn = 4#7 → writes (.msetMclr c f) (fun _ => true)) ∧ (f.fn = 5#7 → writes (.msetMclr c f) (fun _ => false))) ∧
    (f.va.toNat < 8 → f.vb = 0#5 →
      (f.fn = 8#7 → Machine.exec (.mpopc c f) s = .next (s.setCore c ((({ k with vcur := 0#18 } : Core).setReg f.vd
        (BitVec.ofNat 64 ((List.range n).countP a))).past 4))) ∧
      (f.fn = 9#7 → ∀ v, ((∀ j < n, a j = false) ∧ v = 0xFFFFFFFFFFFFFFFF#64 ∨ v.toNat < n ∧ a v.toNat = true ∧ ∀ j < v.toNat, a j = false) →
        Machine.exec (.mfirst c f) s = .next (s.setCore c ((({ k with vcur := 0#18 } : Core).setReg f.vd v).past 4)))) ∧
    (8 ≤ f.va.toNat → ∀ i ∈ [Instr.maskLogic c f, .mpopc c f, .mfirst c f, .msetMclr c f],
      Machine.exec i s = .next (s.traps c .illegal 0#64)))


/-- VCMPRS, VXPAND and VMOV: where each element goes (R199 to R201). VCVT between lone formats: each element from VCUR on is the source's
exact value rounded once to the destination (R185, R190, 03:R157, R158); equal formats and the reserved rounding code are illegal (R187). -/
def Obligations.PermutationsAndConversion : Prop :=
  (∀ (s : State) (c : CoreId) (f : VFields), s.vready c →
    let k := s.core c
    let w := k.ewBits
    let n := k.vl.toNat
    let below (i : Nat) : Nat := (List.range (min i n)).countP (fun j => (k.mask f.mkr).getLsbD j)
    let new (x : Mem) (i : Nat) := ({ k with vregs := x } : Core).velem f.vd w i
    let framed (x : Mem) := ∀ a, k.outsideOf f.vd w a → x.get a = k.vregs.get a
    (k.permOk f 0x00 true false = true →
      ∃ x, Machine.exec (.vcmprs c f) s =
          .next (s.setCore c ((({ k with vregs := x, vcur := 0#18 } : Core).setReg f.vb (BitVec.ofNat 64 (max (below n) (below k.vcur.toNat)))).past 4)) ∧
        (∀ i, k.activeAt f i → new x (below i) = k.velem f.va w i) ∧
        (∀ j < n, (j < below k.vcur.toNat ∨ below n ≤ j) → new x j = k.velem f.vd w j) ∧ framed x) ∧
    (k.permOk f 0x01 true true = true →
      ∃ x, Machine.exec (.vxpand c f) s = .next (s.setCore c (({ k with vregs := x, vcur := 0#18 } : Core).past 4)) ∧
        (∀ i, k.activeAt f i → new x i = k.velem f.va w (below i)) ∧ (∀ i < n, ¬ k.activeAt f i → new x i = k.velem f.vd w i) ∧ framed x) ∧
    (k.permOk f 0x02 false true = true →
      ∃ x, Machine.exec (.vmov c f) s = .next (s.setCore c (({ k with vregs := x, vcur := 0#18 } : Core).past 4)) ∧
        (∀ i, k.activeAt f i → new x i = k.velem f.va w i) ∧ (∀ i < n, ¬ k.activeAt f i → new x i = k.velem f.vd w i) ∧ framed x) ∧
    (f.m = false → Machine.exec (.vcmprs c f) s = .next (s.traps c .illegal 0#64) ∧
      Machine.exec (.vxpand c f) s = .next (s.traps c .illegal 0#64))) ∧
  (∀ (s : State) (c : CoreId) (f : VFields) (sf df : CFmt), s.vready c → (s.core c).calm →
    let k := s.core c
    let src := (if f.m then 8 else 0) + f.mkr.toNat
    let dst := f.fn.toNat / 8
    let rm := if f.fn.toNat % 8 = 7 then RMode.ofCode k.fmode.rm.toNat else RMode.ofCode (f.fn.toNat % 8)
    cfmtOf src = some sf → cfmtOf dst = some df →
    let n := k.vl.toNat
    let value (i : Nat) : Machine.Num := sf.value (k.velem f.va sf.width i)
    let part (i : Nat) := k.vcur.toNat ≤ i ∧ i < n
    (f.vb = 0#5 → k.vcvtOk f src dst sf df = true → rm ≠ .sto →
      ∃ x fl, Machine.exec (.vcvt c f) s = .next (s.setCore c (k.landed { k with vregs := x, vcur := 0#18 } 4 fl)) ∧
        (∀ i, part i →
          (∀ g, df = .fp g → ({ k with vregs := x } : Core).velem f.vd df.width i = (g.round rm 0 (value i)).1 % 2 ^ df.width) ∧
          (∀ b g, df = .int b → sf = .fp g →
            ({ k with vregs := x } : Core).velem f.vd df.width i = ((toIntRange (-(2 ^ (b - 1))) (2 ^ (b - 1) - 1) rm 0 (value i)).1 % 2 ^ b).toNat)) ∧
        (∀ i < n, ¬ part i → ({ k with vregs := x } : Core).velem f.vd df.width i = k.velem f.vd df.width i) ∧
        (∀ a, k.outsideOf f.vd df.width a → x.get a = k.vregs.get a)) ∧
    (src = dst ∨ f.fn.toNat % 8 = 6 → Machine.exec (.vcvt c f) s = .next (s.traps c .illegal 0#64)))


/-! ## Reductions and sampling (spec/08) -/

/-- The reductions write their 96-byte block: the exact sums of R342 as integers modulo 2^192, the extreme value, the count, EMPTY and
ANYNAN (R336 to R349); with ACC the sum goes on from the block that stands there (R352). A sum of zero has the sign that 03:R140 gives it.
Other bytes and registers are unchanged.
Rests on the model's choice or reading in log entries 47, 48 and 151. -/
def Obligations.ReductionBlocks : Prop :=
  ∀ (s : State) (c : CoreId) (f : VFields) (o : RedOp) (fm : FFmt), s.vready c → (s.core c).calm → (s.core c).ewFmt = some fm →
    let k := s.core c
    let n := k.vl.toNat
    let w := (k.reg f.vb).toNat
    let at_ := f.vd.toNat * 8192
    let run := match o with
      | .sum => Machine.exec (.vrsum c f) s
      | .ssq => Machine.exec (.vrssq c f) s
      | .max => Machine.exec (.vrmax c f) s
      | .min => Machine.exec (.vrmin c f) s
      | .argmax => Machine.exec (.vrargmax c f) s
      | .meanvar => Machine.exec (.vmeanvar c f) s
    let base := (BitVec.ofNat 12 w).toInt
    let base2 := (BitVec.ofNat 12 (w / 65536)).toInt
    let acts := (List.range n).filter (fun i => decide (k.activeAt f i))
    let code (i : Nat) := k.velem f.va fm.width i
    let x (i : Nat) := fm.decode (code i)
    let sum : Int := (acts.map (fun i => (x i).units base)).sum
    let sq (b : Int) : Int := (acts.map (fun i => ((x i).sq).units b)).sum
    k.redOk o f fm.width = true → k.vcur = 0#18 → 0 < n →
    ∃ m fl, run = .next (s.setCore c (k.landed { k with vregs := m, vcur := 0#18 } 4 fl)) ∧
      (∀ a, a < at_ ∨ at_ + 96 ≤ a → m.get a = k.vregs.get a) ∧
      (bitN w 12 = false →
        m.getLe (at_ + 80) 8 = acts.length ∧
        m.getLe (at_ + 88) 8 = b2n (decide (acts.length = 0)) + 2 * b2n (acts.any (fun i => (x i).isNan)) ∧
        (fl.getLsbD 8 = decide (acts.length = 0)) ∧
        ((∀ i ∈ acts, (x i).finite = true) →
          (o = .sum → m.getLe at_ 24 = (BitVec.ofInt 192 sum).toNat ∧
            (k.rm ≠ .rdn ∨ BitVec.ofInt 192 sum ≠ 0#192 →
              m.getLe (at_ + 64) 8 = (fm.round k.rm 0 (Machine.Num.ofInt (BitVec.ofInt 192 sum).toInt base false)).1) ∧
            (BitVec.ofInt 192 sum = 0#192 → m.getLe (at_ + 64) 8 % 2 ^ (fm.width - 1) = 0)) ∧
          (o = .ssq → m.getLe at_ 24 = (BitVec.ofInt 192 (sq base)).toNat) ∧
          (o = .meanvar → m.getLe at_ 24 = (BitVec.ofInt 192 sum).toNat ∧ m.getLe (at_ + 32) 24 = (BitVec.ofInt 192 (sq base2)).toNat) ∧
          (o = .max → m.getLe (at_ + 64) 8 = acts.foldl (fun e i => (fm.minMax true e (code i)).1) (fm.signed true fm.infCode)) ∧
          (o = .min → m.getLe (at_ + 64) 8 = acts.foldl (fun e i => (fm.minMax false e (code i)).1) fm.infCode) ∧
          (o = .argmax → acts ≠ [] → ∃ i ∈ acts, m.getLe (at_ + 64) 8 = code i ∧ m.getLe (at_ + 72) 8 = w / 2 ^ 32 % 2 ^ 32 + i ∧
            ∀ j ∈ acts, Machine.Num.cmp (x j) (x i) ≠ .gt ∧ (j < i → Machine.Num.cmp (x j) (x i) = .lt ∨ (x j).negative ≠ (x i).negative)))) ∧
      (o = .sum → bitN w 12 = true → k.vregs.getLe (at_ + 24) 2 % 2 ^ 14 = w % 2 ^ 12 → (∀ i ∈ acts, (x i).finite = true) →
        (k.vregs.getLe (at_ + 80) 8 + acts.length) % 2 ^ 64 ≠ 0 →
        m.getLe at_ 24 = (BitVec.ofInt 192 (sum + k.vregs.getLe at_ 24)).toNat ∧
        m.getLe (at_ + 80) 8 = (k.vregs.getLe (at_ + 80) 8 + acts.length) % 2 ^ 64)

/-- VSOFTMAX completes on every row: a NaN gives NaN outputs, a row with +∞ shares 1 among its infinities, a row with no finite element and
no +∞ gives zeros with −∞ and MASKED, a row with one finite element gives 1 there and an ordinary row sets NX alone; inactive elements give
+0; only VD's elements, RB, VCUR and the flags change (R355 to R360). VPREFIX gives the first index that is inactive or differs (R369). VWADD
adds records element by element (07:R306, R309). VSAMPLE with temperature zero returns the lowest index of the largest active logit (R364);
any draw leaves VCUR at 0 and writes RD alone, with the index of a candidate, or 0xFFFF_FFFF where there is none (R363 to R368).
Rests on the model's choice or reading in log entry 16. -/
def Obligations.SoftmaxSampleAndWide : Prop :=
  (∀ (s : State) (c : CoreId) (f : VFields), s.vready c → (s.core c).calm →
    let k := s.core c
    let n := k.vl.toNat
    (∀ fm, k.ewFmt = some fm → f.fn = 0x08#7 → (f.m = true ∨ f.mkr = 0#3) → (f.m = false ∨ n ≤ 65536) → k.operandOk f.vd fm.width = true →
      k.operandOk f.va fm.width = true → k.sameOrDisjoint f.vd f.va fm.width = true →
      (n = 0 → Machine.exec (.vsoftmax c f) s = .next (s.setCore c ((({ k with vcur := 0#18 } : Core).setReg f.vb
        (BitVec.ofNat 64 (fm.signed true fm.infCode))).past 4))) ∧
      (0 < n →
      let w := fm.width
      let act (i : Nat) := i < n ∧ (f.m = true → (k.mask f.mkr).getLsbD i = true)
      let x (i : Nat) := fm.decode (k.velem f.va w i)
      let minusInf := fm.signed true fm.infCode
      ∃ m lse fl, Machine.exec (.vsoftmax c f) s =
          .next (s.setCore c (k.landed (({ k with vregs := m, vcur := 0#18 } : Core).setReg f.vb (BitVec.ofNat 64 lse)) 4 fl)) ∧
        (∀ a, k.outsideOf f.vd w a → m.get a = k.vregs.get a) ∧
        let out (i : Nat) := ({ k with vregs := m } : Core).velem f.vd w i
        ((∀ i, act i → (x i).isNan = false) → ∀ i < n, ¬ act i → out i = 0) ∧
        ((∃ i, act i ∧ (x i).isNan = true) → (∀ i < n, out i = fm.nanCode) ∧ lse = fm.nanCode ∧
          (fl = fNV ∧ (∃ i, act i ∧ (x i).isSig = true) ∨ fl = 0#10 ∧ ∀ i, act i → (x i).isSig = false)) ∧
        ((∀ i, act i → (x i).isNan = false) → (∃ i, act i ∧ x i = .inf false) → lse = fm.infCode ∧ (fl = 0#10 ∨ fl = fNX) ∧
          let m := (List.range n).countP (fun i => decide (act i ∧ x i = .inf false))
          ∀ i, act i → out i = if x i = .inf false then
            (fm.div .rne (fm.round .rne 0 (.fin false 1 0)).1 (fm.round .rne 0 (.fin false m 0)).1).1 else 0) ∧
        ((∀ i, act i → x i = .inf true) → (∀ i < n, out i = 0) ∧ lse = minusInf ∧ fl = fMASKED) ∧
        ((∀ i, act i → (x i).finite = true ∨ x i = .inf true) → (∃ i, act i ∧ (x i).finite = true) →
          (fl = 0#10 ∨ fl = fNX) ∧ ∀ i, act i → x i = .inf true → out i = 0) ∧
        (∀ j, act j → (x j).finite = true → (∀ i, act i → i ≠ j → x i = .inf true) →
          ∀ i < n, out i = if i = j then (fm.round .rne 0 (.fin false 1 0)).1 else 0))) ∧
    (f.fn = 0x11#7 → (f.m = true ∨ f.mkr = 0#3) → (f.m = false ∨ n ≤ 65536) → k.ewBits = 32 → k.operandOk f.va 32 = true → k.operandOk f.vb 32 = true →
      let same (i : Nat) := (f.m = true → (k.mask f.mkr).getLsbD i = true) ∧ k.velem f.va 32 i = k.velem f.vb 32 i
      ∃ i ≤ n, (∀ j < i, same j) ∧ (i < n → ¬ same i) ∧
        Machine.exec (.vprefix c f) s = .next (s.setCore c ((({ k with vcur := 0#18 } : Core).setReg f.vd (BitVec.ofNat 64 i)).past 4))) ∧
    (f.fn = 0x18#7 → k.elemOk f 256 true = true →
      let total (m : Mem) (r : Reg) (i : Nat) := m.getLe (r.toNat * 8192 + 32 * i) 24
      let high (m : Mem) (r : Reg) (i : Nat) := m.getLe (r.toNat * 8192 + 32 * i + 24) 2
      ∃ m fl, Machine.exec (.vwadd c f) s = .next (s.setCore c (k.landed { k with vregs := m, vcur := 0#18 } 4 fl)) ∧
        (∀ i, k.activeAt f i → high k.vregs f.va i < 2 ^ 12 → high k.vregs f.vb i = high k.vregs f.va i →
          total m f.vd i = (total k.vregs f.va i + total k.vregs f.vb i) % 2 ^ 192) ∧
        (∀ i, k.activeAt f i → ({ k with vregs := m } : Core).velem f.vd 256 i = (waddNat (k.velem f.va 256 i) (k.velem f.vb 256 i)).1) ∧
        (∀ i < n, ¬ k.activeAt f i → ({ k with vregs := m } : Core).velem f.vd 256 i = k.velem f.vd 256 i) ∧
        (∀ a, k.outsideOf f.vd 256 a → m.get a = k.vregs.get a))) ∧
  (∀ (s : State) (c : CoreId) (f : VFields), s.vready c → (s.core c).calm → (s.core c).sb = [] →
    let k := s.core c
    let n := k.vl.toNat
    let a := (k.reg f.va).toNat
    let b := (k.reg f.vb).toNat
    let act (i : Nat) := i < n ∧ (f.m = true → (k.mask f.mkr).getLsbD i = true)
    let x (i : Nat) := fp32.decode (leNat (k.load (a + 4 * i) 4))
    let cand (i : Nat) :=
      let z := if (fp32.decode (leNat (k.load b 4))).isZero then x i
        else fp32.decode (fp32.div .rne (leNat (k.load (a + 4 * i) 4)) (leNat (k.load b 4))).1
      act i ∧ (x i).isNan = false ∧ z ≠ .inf true
    let readable (p m : Nat) := p + m ≤ 0x3FC00 ∨ (0x40000000 ≤ p ∧ p + m ≤ 0x45800000 ∧ k.regionOk false (p - 0x40000000) m = true)
    f.fn = 0x10#7 → (f.m = true ∨ f.mkr = 0#3) → (f.m = false ∨ n ≤ 65536) → k.ewBits = 32 → n % 256 = 0 →
    (n = 0 → Machine.exec (.vsample c f) s = .next (s.setCore c ((({ k with vcur := 0#18 } : Core).setReg f.vd 0xFFFFFFFF#64).past 4))) ∧
    (0 < n → a % 4 = 0 → b % 8 = 0 → readable a (4 * n) → readable b 32 → k.badDmem = [] → k.badSpad = [] → samplingFail (k.load b 32) = none →
    ∃ v fl, Machine.exec (.vsample c f) s = .next (s.setCore c (k.landed (({ k with vcur := 0#18 } : Core).setReg f.vd (BitVec.ofNat 64 v)) 4 fl)) ∧
      ((∀ i, ¬ cand i) → v = 0xFFFFFFFF ∧ fl.getLsbD 8 = true) ∧
      ((∃ i, cand i) → cand v ∧ fl.getLsbD 8 = false) ∧
      (fl = 0#10 ∨ fl = fNV ∨ fl = fEMPTY ∨ fl = fNV ||| fEMPTY) ∧
      ((fp32.decode (leNat (k.load b 4))).isZero = true → (∃ i, cand i) →
        (∀ j, cand j → Machine.Num.cmp (x j) (x v) ≠ .gt) ∧ (∀ j < v, cand j → Machine.Num.cmp (x j) (x v) ≠ .eq))))


/-! ## Accord and the matrix array (spec/05 to 07) -/

/-- ALOAD puts the program of a valid image into its slot; ARUN runs it on each active element, writing destination 0 alone, and ends
with the ARUN in flight; ARUN_COMPLETE releases the banks bound with REL and counts a stochastic one (R227 to R239, R234).
Rests on the model's choice or reading in log entries 40 and 41. -/
def Obligations.AccordPrograms : Prop :=
  ∀ (s : State) (c : CoreId) (f : VFields), s.vready c →
    let k := s.core c
    let n := k.vl.toNat
    let a := (k.reg f.va).toNat
    (f.vd.toNat < 8 → f.vb = 0#5 → f.m = false → f.mkr = 0#3 → f.fn = 0#7 → k.sb = [] → a % 8 = 0 →
      (∀ p, k.readImage a = .ok p → Machine.exec (.aload c f) s =
        .next (s.setCore c (({ k with slots := k.slots.set (f.vd.toNat % 8) (some p) } : Core).past 4))) ∧
      (∀ x, k.readImage a = .error (.illegal x) → Machine.exec (.aload c f) s =
        .next (s.traps c .illegal (BitVec.ofNat 64 x))) ∧
      (0x3FC00 < a + 8 → Machine.exec (.aload c f) s = .next (s.traps c .bounds (BitVec.ofNat 64 (max a 0x3FC00))))) ∧
    (∀ p : AccordProg, k.slots.toArray.getD (f.vd.toNat) none = some p → f.vd.toNat < 8 → f.vb = 0#5 → f.fn = 0#7 → k.calm →
      (f.m = true ∨ f.mkr = 0#3) → (f.m = false ∨ n ≤ 65536) →
      p.prec64 = false → p.sfmt = [1, 0, 0, 0] → p.dfmt = [1, 0] → usesSource p.ops 0 = true → usesDest p.ops 0 = true →
      (∀ j, j = 1 ∨ j = 2 ∨ j = 3 → usesSource p.ops j = false) → usesDest p.ops 1 = false → p.rnd.toNat < 5 →
      let w := (k.reg f.va).toNat
      let rs : Reg := BitVec.ofNat 5 w
      let rd : Reg := BitVec.ofNat 5 (w / 2 ^ 32)
      w = 0x80 + rs.toNat + 2 ^ 32 * (0x80 + rd.toNat) → k.operandOk rs 32 = true → k.operandOk rd 32 = true → k.sameOrDisjoint rd rs 32 = true →
      let e (i : Nat) := runOps fp32 [k.velem rs 32 i, 0, 0, 0] (p.consts.map BitVec.toNat) p.ops ⟨List.replicate 16 0, [none, none], 0#10⟩
      ∃ m fl, Machine.exec (.arun c f) s =
          .next (s.setCore c (k.landed { k with vregs := m, vcur := 0#18, arun := some ⟨f.vd.setWidth 3, [], [], false⟩ } 4 fl)) ∧
        (∀ i, k.activeAt f i → ({ k with vregs := m } : Core).velem rd 32 i = (((e i).dests.getD 0 none).getD (k.velem rd 32 i)) % 2 ^ 32) ∧
        (∀ i < n, ¬ k.activeAt f i → ({ k with vregs := m } : Core).velem rd 32 i = k.velem rd 32 i) ∧
        (∀ b, k.outsideOf rd 32 b → m.get b = k.vregs.get b) ∧
        (∀ b, fl.getLsbD b = true ↔ ∃ i, k.activeAt f i ∧ (e i).flags.getLsbD b = true)) ∧
    (∀ t : State, ∀ x, (t.core c).arun = some x → ∃ r, Machine.exec (.arunComplete c) t = .next (t.setCore c r) ∧ r.arun = none ∧
      (∀ b ∈ x.rel, r.abank b = Bank.empty) ∧ (∀ b, b ∉ x.rel → r.abank b = (t.core c).abank b) ∧
      r.stoA = (t.core c).stoA + (if x.sto then 1#14 else 0#14) ∧ r.vregs = (t.core c).vregs ∧ r.gregs = (t.core c).gregs)

/-- MXCFG takes the configuration that its prefix and word spell (06:R261), and is illegal where R262 or 03:R162 refuses it; MXEPI takes
OFMT, ACT and the parameters that it names from the block at RA (07:R311 to R315). -/
def Obligations.MatrixConfiguration : Prop :=
  ∀ (s : State) (c : CoreId),
    let k := s.core c
    (∀ (fa fb md : Nat) (sa sb : Bool) (base : BitVec 12) (m : AccMode), s.ready c 8 →
      (md, m) ∈ [(0, AccMode.chunk), (1, AccMode.exact), (2, AccMode.direct64)] →
      let cfg : MxCfg := ⟨fa, fb, m, sa, sb, base⟩
      let pfx : BitVec 26 := BitVec.ofNat 26 (2 ^ 24 + 2 ^ 12 * base.toNat)
      let word : BitVec 26 := BitVec.ofNat 26 (fa * 2 ^ 22 + fb * 2 ^ 18 + md * 2 ^ 16 + b2n sa * 2 ^ 15 + b2n sb * 2 ^ 14)
      ((∃ q, mxClass fa sa = some q ∧ mxClass fb sb = some q) → ((fa = 0 ∧ m = .direct64) ∨ (fa ≠ 0 ∧ m ≠ .direct64)) → (m = .exact ∨ base = 0#12) →
        Machine.exec (.mxcfg c (some pfx) word) s = .next (s.setCore c (({ k with mxcfg := some cfg } : Core).past 8))) ∧
      (fa < 16 → fb < 16 → (mxClass fa sa = none ∨ mxClass fb sb = none ∨ (m ≠ .exact ∧ base ≠ 0#12)) →
        Machine.exec (.mxcfg c (some pfx) word) s = .next (s.traps c .illegal 0#64))) ∧
    (∀ (pfx : Pfx) (word : BitVec 26), s.ready c (pfxLen pfx) → (∀ h, pfx = some h → h.toNat / 2 ^ 24 ≠ 1) →
      Machine.exec (.mxcfg c pfx word) s = .next (s.traps c .illegal 0#64)) ∧
    (∀ (a : Reg) (ofmt act : BitVec 3) (rs cs bi : Bool), s.ready c 4 →
      let run := Machine.exec (.mxepi c a ofmt act rs cs bi 0#8 0#4) s
      let reads := rs = true ∨ cs = true ∨ bi = true ∨ act = 2#3
      let b := (k.reg a).toNat
      let words (off n : Nat) : List Half := (List.range n).map (fun i => BitVec.ofNat 32 (k.dmem.getLe (b + off + 4 * i) 4))
      let lim (i : Nat) : Half := if act = 2#3 then (words 384 2).getD i 0#32 else 0#32
      (k.sb = [] → k.badDmem = [] → act.toNat < 5 → (ofmt = 7#3 → act = 0#3 ∧ ¬reads) → (reads ∨ a = 0#5) → b % 8 = 0 → b + 392 ≤ 0x3FC00 →
        run = .next (s.setCore c (({ k with epi := some ⟨ofmt, act, if rs then some (words 0 32) else none, if cs then some (words 128 32) else none,
          if bi then some (words 256 32) else none, lim 0, lim 1⟩ } : Core).past 4))) ∧
      (5 ≤ act.toNat ∨ (ofmt = 7#3 ∧ (act ≠ 0#3 ∨ reads)) ∨ (¬reads ∧ a ≠ 0#5) → run = .next (s.traps c .illegal 0#64)) ∧
      (k.sb = [] → act.toNat < 5 → ofmt ≠ 7#3 → reads → b % 8 ≠ 0 → run = .next (s.traps c .align (k.reg a)))) ∧
    (s.ready c 4 → Machine.exec (.mxepi c 0#5 0#3 5#3 false false false 0#8 0#4) s = .next (s.traps c .illegal 0#64))

/-- MXMMA in EXACT mode, then its completion: each output's total is the sum over the K-steps of the exact dot products in units of
2^ACC_BASE, whatever their order (06:R251, R269, R280; 07:R299); the other banks keep theirs. In every mode, from registers or scratchpad, begun
anew or going on, an MXMMA that passes the checks of R268 is taken with its bank tagged, and one with K 0 leaves a tagged bank that it goes on
with as it is (R270).
Rests on the model's choice or reading in log entry 43. -/
def Obligations.MatrixMultiplyExact : Prop :=
  (∀ (s : State) (c : CoreId) (a b kr : Reg) (bank : BitVec 2) (cfg : MxCfg) (fa fb : CFmt) (l q : Nat), s.ready c 4 →
    let k := s.core c
    k.mxq = [] → k.arun = none → k.mxcfg = some cfg → cfg.mode = .exact → cfgOf cfg = some (fa, fb, l) →
    let n := q * l
    let pa := panelBytes q l fa.width cfg.sca
    let pb := panelBytes q l fb.width cfg.scb
    k.reg kr = BitVec.ofNat 64 n → 0 < q → q ≤ 4096 → regOperandOk a pa = true → regOperandOk b pb = true →
    let va := k.vregs.getN (a.toNat * 8192) pa
    let vb := k.vregs.getN (b.toNat * 8192) pb
    let dot (i st : Nat) := exactDot ((panelStep va fa q l cfg.sca st).getD (i / 32) []) ((panelStep vb fb q l cfg.scb st).getD (i % 32) [])
    (∀ i < 1024, ∀ st < q, (dot i st).1.finite = true ∧ (dot i st).2 = 0#10) →
    ∃ x, Machine.exec (.mxmma c a b kr bank true false false 0#6) s = .next (s.setCore c (((k.setAbank bank x.mid).past 4).withMxq [x])) ∧
      x.pc = k.pc ∧ x.bank = bank ∧ x.bad = [] ∧ x.final.tag = some (.exact, cfg.base) ∧ x.final.poison = false ∧
      (∀ i < 1024, (x.final.out i).total = BitVec.ofInt 192 (((List.range q).map (fun st => (dot i st).1.units cfg.base.toInt)).sum) ∧
        (x.final.out i).spc = 0#2) ∧
      ∀ t : State, (t.core c).mxq = [x] → (t.core c).calm → ∃ r, Machine.exec (.mxmmaComplete c) t = .next (t.setCore c r) ∧ r.mxq = [] ∧
        r.abank bank = x.final ∧ (∀ d, d ≠ bank → r.abank d = (t.core c).abank d) ∧ r.fflags = (t.core c).fflags ||| x.flags ∧
        r.vregs = (t.core c).vregs ∧ r.dmem = (t.core c).dmem ∧ r.pc = (t.core c).pc) ∧
  (∀ (s : State) (c : CoreId) (a b kr : Reg) (bank : BitVec 2) (start sa sb : Bool) (cfg : MxCfg) (fa fb : CFmt) (l q : Nat), s.ready c 4 →
    let k := s.core c
    k.mxq = [] → k.arun = none → k.sb = [] → k.mxcfg = some cfg → cfgOf cfg = some (fa, fb, l) →
    let n := q * l
    let ok (sp : Bool) (r : Reg) (bytes : Nat) :=
      let p := (k.reg r).toNat
      if sp then p % 256 = 0 ∧ 0x40000000 ≤ p ∧ p + bytes ≤ 0x45800000 ∧ k.regionOk false (p - 0x40000000) bytes = true else regOperandOk r bytes = true
    let old := (k.abank bank).tag
    k.reg kr = BitVec.ofNat 64 n → q ≤ 4096 → (start = true ∨ old = none ∨ old = some (cfg.mode, cfg.base)) →
    (q = 0 ∨ ok sa a (panelBytes q l fa.width cfg.sca) ∧ ok sb b (panelBytes q l fb.width cfg.scb)) →
    ∃ x, Machine.exec (.mxmma c a b kr bank start sa sb 0#6) s = .next (s.setCore c (((k.setAbank bank x.mid).past 4).withMxq [x])) ∧
      x.pc = k.pc ∧ x.bank = bank ∧ x.final.tag = some (cfg.mode, cfg.base) ∧
      (q = 0 → x.flags = 0#10 ∧ x.bad = [] ∧ (start = false → old ≠ none → x.final = k.abank bank) ∧
        (start = true ∨ old = none → x.final = ⟨some (cfg.mode, cfg.base), false, []⟩)))

/-- MXDRAIN: the drain form stores each output's value rounded to OFMT in 32 rows and empties the bank; the fill form loads records of
the bank's base; a completion adds the flags (07:R317 to R325).
Rests on the model's choice or reading in log entries 44 and 45. -/
def Obligations.DrainAndFill : Prop :=
  ∀ (s : State) (c : CoreId) (d p : Reg) (bank : BitVec 2),
    let k := s.core c
    let a := (k.reg d).toNat
    let step := (k.reg p).toNat
    s.ready c 4 → k.sb = [] → k.mxq = [] → k.drains = [] → k.arun = none → k.badSpad = [] → a % 32 = 0 → step % 32 = 0 → 0x40000000 ≤ a → step ≤ 2 ^ 20 →
    (∀ e base, k.epi = some e → e.ofmt = 1#3 → e.act = 0#3 → e.rs = none → e.cs = none → e.bias = none →
      (k.abank bank).tag = some (.exact, base) → (k.abank bank).poison = false → (∀ i < 1024, ((k.abank bank).out i).spc = 0#2) →
      128 ≤ step → k.regions = [⟨0, 0x5800, true, true⟩] → a + 31 * step + 128 ≤ 0x45800000 →
      ∃ m fl, Machine.exec (.mxdrainDrain c d p 0#4 bank false 0#8) s =
          .next (s.setCore c (({ k.setAbank bank Bank.empty with spad := m, drains := [⟨k.pc, bank, false, fl, [], false⟩] } : Core).past 4)) ∧
        (∀ i < 1024, m.getLe (a - 0x40000000 + i / 32 * step + i % 32 * 4) 4 =
          (fp32.round .rne 0 (Machine.Num.ofInt ((k.abank bank).out i).total.toInt base.toInt false)).1 % 2 ^ 32) ∧
        (∀ x, (∀ r < 32, x < a - 0x40000000 + r * step ∨ a - 0x40000000 + r * step + 128 ≤ x) → m.get x = k.spad.get x)) ∧
    (∀ cfg, k.mxcfg = some cfg → cfg.mode = .exact → 1024 ≤ step → k.regions = [⟨0, 0x5800, true, true⟩] → a + 31 * step + 1024 ≤ 0x45800000 →
      ∃ b fl, Machine.exec (.mxdrainFill c d p 0#4 bank false 0#8) s =
          .next (s.setCore c (({ k.setAbank bank b with drains := [⟨k.pc, bank, true, fl, [], false⟩] } : Core).past 4)) ∧
        b.tag = some (.exact, cfg.base) ∧ b.poison = false ∧
        ∀ i < 1024, let x := a - 0x40000000 + i / 32 * step + i % 32 * 32
          k.spad.getLe (x + 24) 2 % 2 ^ 14 = cfg.base.toNat → (b.out i).total.toNat = k.spad.getLe x 24 ∧ (b.out i).spc = 0#2) ∧
    (k.epi = none → Machine.exec (.mxdrainDrain c d p 0#4 bank false 0#8) s = .next (s.traps c .illegal 0#64)) ∧
    (∀ (t : State) x rest, (t.core c).drains = x :: rest → (t.core c).calm → x.bad = [] →
      ∃ r, Machine.exec (.mxdrainComplete c) t = .next (t.setCore c r) ∧ r.drains = rest ∧ r.fflags = (t.core c).fflags ||| x.flags ∧
        r.stoD = (t.core c).stoD + (if x.sr then 1#14 else 0#14) ∧ r.abanks = (t.core c).abanks ∧ r.spad = (t.core c).spad)

/-! ## DMA and translation (spec/11) -/

/-- DQUEUE copies its descriptor to the channel's queue under the next ticket, which RD gets, and logs it (R458, R459); DWAIT answers the
channel's counts once the ticket has completed, and waits before (R461); a core may name only a channel its context owns (R460).
Rests on the model's choice or reading in log entry 3. -/
def Obligations.QueueAndWaitOnChannels : Prop :=
  ∀ (s : State) (c : CoreId) (rd ra rb : Reg) (ch : ChanId), s.ready c 4 → (s.core c).settled → (s.core c).fmode.ten = 0#10 →
    let k := s.core c
    let a := k.reg ra
    let b := k.reg rb
    let x := s.chan ch
    (b.toNat = ch.val → s.ownsChan c ch = true → a.toNat % 64 = 0 → a.toNat + 64 ≤ 0x3FC00 → k.badDmem = [] → x.queue.length < 16 → k.replayD = [] →
      ∃ t d, Machine.exec (.dqueue c rd ra rb) s = .next t ∧ t.chan ch = { x with ticket := x.ticket + 1#32, queue := x.queue ++ [d] } ∧
        (∀ e, e ≠ ch → t.chan e = s.chan e) ∧ d.ticket = x.ticket + 1#32 ∧ d.core = some c ∧ d.queue = none ∧ d.pasid = s.pasidOf c ∧
        d.fin = none ∧ d.old = false ∧ (∀ i : Fin 8, (d.words[i]).toNat = k.dmem.getLe (a.toNat + 8 * i.val) 8) ∧
        (rd ≠ 0#5 → (t.core c).reg rd = (x.ticket + 1#32).setWidth 64) ∧ (∀ q, q ≠ rd → (t.core c).reg q = k.reg q) ∧
        (t.core c).elogD = k.elogD ++ [⟨ch, x.ticket + 1#32, none, none⟩] ∧ (t.core c).pc.toNat = k.pc.toNat + 4 ∧
        (t.core c).dmem = k.dmem ∧ t.hbm = s.hbm ∧ t.ring = s.ring ∧ (∀ e, ch ∈ (t.core e).foreign ↔ (e ≠ c ∨ ch ∈ (t.core c).foreign))) ∧
    (a.toNat % 64 ≠ 0 → Machine.exec (.dqueue c rd ra rb) s = .next (s.traps c .align a)) ∧
    (a.toNat % 64 = 0 → 0x3FC00 < a.toNat + 64 → Machine.exec (.dqueue c rd ra rb) s = .next (s.traps c .bounds a)) ∧
    (a.toNat % 64 = 0 → a.toNat + 64 ≤ 0x3FC00 → (128 ≤ b.toNat ∨ (b.toNat = ch.val ∧ s.ownsChan c ch = false)) →
      Machine.exec (.dqueue c rd ra rb) s = .next (s.traps c .illegal b)) ∧
    (b.toNat = ch.val → s.ownsChan c ch = true → a.toNat % 64 = 0 → a.toNat + 64 ≤ 0x3FC00 → 16 ≤ x.queue.length →
      Machine.exec (.dqueue c rd ra rb) s = .next (s.setCore c { k with stall := .sync })) ∧
    (a.toNat = ch.val → s.ownsChan c ch = true → b.toNat < 2 ^ 32 → b.toNat ≤ x.done.toNat → x.done.toNat < b.toNat + 2 ^ 31 → b.toNat ≤ x.ticket.toNat → x.ticket.toNat ≤ b.toNat + 2 ^ 31 →
      Machine.exec (.dwait c rd ra rb) s = .next (s.setCore c ((k.setReg rd (BitVec.ofNat 64 (x.errs.toNat * 2 ^ 32 + x.done.toNat))).past 4))) ∧
    (a.toNat = ch.val → s.ownsChan c ch = true → x.done.toNat < b.toNat → b.toNat ≤ x.ticket.toNat → b.toNat ≤ x.done.toNat + 2 ^ 31 → x.ticket.toNat ≤ b.toNat + 2 ^ 31 →
      Machine.exec (.dwait c rd ra rb) s = .next (s.setCore c { k with stall := .sync })) ∧
    (128 ≤ a.toNat → Machine.exec (.dwait c rd ra rb) s = .next (s.traps c .illegal a))

/-- DESCRIPTOR_START begins the walk of a descriptor that passes the checks of R476, else completes it with the first failing check's
status; DESCRIPTOR_ACCESS of a linear copy moves the bytes (R466, R493), and of one from host memory asks for them untranslated when ATS is
off (R489); DESCRIPTOR_COMPLETE takes the head off its queue, counts it
(R459), and writes the record of R478 to host memory when it has such a completion address (R477).
Rests on the model's choice or reading in log entries 56, 57 and 61. -/
def Obligations.DescriptorsRun : Prop :=
  ∀ (s : State) (ch : ChanId) (d : Desc) (rest : List Desc), (s.pstate = .run ∨ s.pstate = .idle) → (s.chan ch).queue = d :: rest →
    let x := s.chan ch
    let t := tileOf d.words
    (x.started = false → d.fin = none → d.redo = none →
      (t.check (s.ctx d.pasid) d.fromCtx = none → Machine.exec (.descriptorStart ch) s =
        .next (s.setChan ch { x with started := true, plane := 0, row := 0, col := 0, flags := 0#7 })) ∧
      (∀ st r, t.check (s.ctx d.pasid) d.fromCtx = some (st, r) → Machine.exec (.descriptorStart ch) s =
        .next (s.setChan ch { x with started := true, plane := 0, row := 0, col := 0, flags := 0#7, wait := .none, got := [], xlat := [], carry := [],
                                     carryNext := [], queue := { d with fin := some ⟨st, BitVec.ofNat 8 r, 0, 0, 0, 0⟩ } :: rest }))) ∧
    (∀ (p q : CoreId) (soff doff n : Nat), x.started = true → d.fin = none → d.redo = none → x.wait = .none → x.plane = 0 → x.row = 0 → x.col = 0 →
      0 < n → n ≤ 256 → soff % 256 = 0 → doff % 256 = 0 → soff + n ≤ 0x5800000 → doff + n ≤ 0x5800000 → (s.core p).badSpad = [] → (s.core q).badSpad = [] →
      d.words = #v[BitVec.ofNat 64 (2 ^ 57), BitVec.ofNat 64 (0x10000000000 + p.val * 0x8000000 + soff),
        BitVec.ofNat 64 (0x10000000000 + q.val * 0x8000000 + doff), BitVec.ofNat 64 n, 0#64, 0#64, d.words[6], d.words[7]] →
      ∀ h, (∀ bs, h ≠ .faulty bs) → Machine.exec (.descriptorAccess ch h) s =
        .next ((s.setCore q { s.core q with spad := (s.core q).spad.put doff ((s.core p).spad.getN soff n) }).setChan ch
          { x with got := [], xlat := [], carry := [], carryNext := [], queue := { d with fin := some ⟨0#8, 0#8, n, 0, 0, 0⟩ } :: rest })) ∧
    (∀ (q : CoreId) (doff : Nat) (bs : List Byte), x.started = true → d.fin = none → d.redo = none → x.wait = .none → x.plane = 0 → x.row = 0 → x.col = 0 →
      0 < bs.length → bs.length ≤ 256 → doff % 256 = 0 → d.words[1].toNat % 256 = 0 → doff + bs.length ≤ 0x5800000 → (s.core q).badSpad = [] →
      s.ats = false → s.hostOpen = true →
      d.words = #v[BitVec.ofNat 64 (2 ^ 57 + 2 ^ 37), d.words[1], BitVec.ofNat 64 (0x10000000000 + q.val * 0x8000000 + doff),
        BitVec.ofNat 64 bs.length, 0#64, 0#64, d.words[6], d.words[7]] →
      Machine.exec (.descriptorAccess ch (.data bs)) s =
        .next (((s.setCore q { s.core q with spad := (s.core q).spad.put doff bs }).setChan ch
          { x with got := [], xlat := [], carry := [], carryNext := [], queue := { d with fin := some ⟨0#8, 0#8, bs.length, 0, 0, 0⟩ } :: rest }).emit
            (.hostRead (some d.pasid) false d.words[1].toNat bs.length))) ∧
    (∀ f, d.fin = some f → x.wait = .none → d.old = false →
      let left := { x.next with queue := rest, done := x.done + 1#32, errs := if f.status = 0#8 then x.errs else x.errs + 1#32 }
      let word (v : Nat) : Word := BitVec.ofNat 64 v
      let rec_ : List Word := [word (f.status.toNat * 2 ^ 56 + x.flags.toNat * 2 ^ 48 + f.reason.toNat * 2 ^ 40 + d.ticket.toNat), word f.bytes,
        word (f.plane % 2 ^ 16 * 2 ^ 48 + f.row % 2 ^ 16 * 2 ^ 32 + f.col % 2 ^ 32), d.words[7]]
      (∀ h, d.core = none → d.queue = none → d.words[6] = 0#64 → Machine.exec (.descriptorComplete ch h) s = .next ((s.mend ch).setChan ch left)) ∧
      (∀ h c, d.core = some c → d.queue = none → d.words[6] = 0#64 → f.status ≠ 0x0B#8 → ∃ u, Machine.exec (.descriptorComplete ch h) s = .next u ∧
        u.chan ch = left ∧ ∀ l ∈ (s.core c).elogD, l.ch = ch → l.ticket = d.ticket → { l with record := some rec_ } ∈ (u.core c).elogD) ∧
      (∀ bs, d.core = none → d.queue = none → d.words[6] ≠ 0#64 → d.words[6].toNat % 32 = 0 → d.words[0].getLsbD 35 = true → s.hostOpen = true → s.ats = false →
        Machine.exec (.descriptorComplete ch (.data bs)) s =
            .next (((s.mend ch).setChan ch left).emit (.hostWrite (some d.pasid) false d.words[6].toNat (wordsBytes rec_)))))

/-- Translation. A granted ATS completion fills the cluster's TLB and the access goes on; one without what is needed sends a Page
Request, or ends the descriptor with TRANSLATION where PRI is off or the page has been parked for 16 times (R488, R494 to R496); PRG responses
(R495); PRI_STOP ends every parked channel (R496); answers owed to a descriptor that has ended are discarded (R498); an invalidation leaves no
matching entry and is answered once no access begun under one is in progress (R490); stream prefetch asks for the first page ahead (R491).
Rests on the model's choice or reading in log entries 58, 59 and 60. -/
def Obligations.TranslationAndFaults : Prop :=
  (∀ (s : State) (ch : ChanId) (d : Desc) (rest : List Desc) (n : Need) (bus : Nat) (r w : Bool), (s.chan ch).queue = d :: rest → (s.chan ch).wait = .ats n →
    let x := s.chan ch
    let cl := clusterOf ch
    let u (g : AtsReply) := Machine.exec (.atsTranslationCompletion ch g) s
    let ended (t : State) := ((t.chan ch).head.bind Desc.fin).map Fin_.status = some 0x08#8 ∧ (t.chan ch).wait = .none ∧ t.ring.tail = s.ring.tail + 1#9 ∧ t.tlbs = s.tlbs
    (0 < x.owedAts → ∀ g, u g = .next (s.setChan ch { x with owedAts := x.owedAts - 1 })) ∧
    (x.owedAts = 0 →
      ((n.wr = true → w = true) → (n.wr = false → r = true) → s.tlbs[cl].length < 4096 →
        (∀ e ∈ s.tlbs[cl], e.pasid = d.pasid → e.va = n.page * 4096 → e.log2 ≠ 12) → ∃ t, u (.grant bus 12 r w) = .next t ∧ (t.chan ch) = { x with wait := .none } ∧
        t.tlbs[cl] = s.tlbs[cl] ++ [⟨d.pasid, n.page * 4096, 12, bus * 4096, r, w, false⟩] ∧ (∀ j : Fin 16, j ≠ cl → t.tlbs[j] = s.tlbs[j]) ∧ t.out = s.out) ∧
      (n.cpl = false → (s.pri = false ∨ s.priStopped = true ∨ 16 ≤ x.parksOn n.page) → s.ring.open_ = true → s.ring.held = [] → ∃ t, u .none = .next t ∧ ended t) ∧
      (n.cpl = false → (if n.wr then w = false else r = false) → (s.pri = false ∨ s.priStopped = true) → s.ring.open_ = true → s.ring.held = [] →
        ∃ t, u (.grant bus 12 r w) = .next t ∧ ended t) ∧
      (s.pri = true → s.priStopped = false → x.parksOn n.page < 16 → s.ring.open_ = true → s.ring.held = [] → ∃ t, u .none = .next t ∧
        (t.chan ch).wait = .prg n ∧ t.out.getLast? = some (.pageRequest ch d.pasid n.page n.wr) ∧ t.ring.tail = s.ring.tail + 1#9))) ∧
  (∀ (s : State) (ch : ChanId) (d : Desc) (rest : List Desc) (n : Need), (s.chan ch).queue = d :: rest → (s.chan ch).wait = .prg n →
    let x := s.chan ch
    let u (g : PrgCode) := Machine.exec (.prgResponse ch g) s
    (0 < x.owedPrg → ∀ g, u g = .next (s.setChan ch { x with owedPrg := x.owedPrg - 1 })) ∧
    (x.owedPrg = 0 →
      (u .success = .next ((s.setChan ch { x.parkAgain n.page with wait := .ats n }).emit (.atsRequest ch d.pasid n.page n.wr))) ∧
      (x.parkAgain n.page).parksOn n.page = x.parksOn n.page + 1 ∧
      (n.cpl = false → s.ring.open_ = true → s.ring.held = [] → (∃ t, u .invalid = .next t ∧ ((t.chan ch).head.bind Desc.fin).map Fin_.status = some 0x08#8 ∧
          t.priStopped = s.priStopped ∧ t.ring.tail = s.ring.tail + 1#9) ∧
        (∃ t, u .failure = .next t ∧ ((t.chan ch).head.bind Desc.fin).map Fin_.status = some 0x08#8 ∧ t.priStopped = true ∧
          ∀ e m, (t.chan e).queue ≠ [] → (t.chan e).wait ≠ .prg m)))) ∧
  (∀ s : State, ∃ t, Machine.exec .priStop s = .next t ∧ t.priStopped = true ∧ t.tlbs = s.tlbs ∧
    ∀ ch n, (t.chan ch).queue ≠ [] → (t.chan ch).wait ≠ .prg n) ∧
  (∀ (s : State) (p : Pasid) (va bytes : Nat), s.invals = [] →
    let held := ∃ (ch : ChanId) (e : TlbEntry), (s.chan ch).wait = .remote ∧ e ∈ (s.chan ch).xlat ∧ e.pasid = p ∧ e.va < va + bytes ∧ va < e.va + 2 ^ e.log2
    ∃ t, Machine.exec (.atsInvalidationRequest p va bytes) s = .next t ∧ t.chans = s.chans ∧
    (¬held → t.out.getLast? = some (.invalDone p va bytes) ∧ t.invals = []) ∧ (held → t.invals = [(p, va, bytes)]) ∧
    ∀ (j : Fin 16) (e : TlbEntry), (e ∈ t.tlbs[j] ↔ e ∈ s.tlbs[j] ∧ ¬ (e.pasid = p ∧ e.va < va + bytes ∧ va < e.va + 2 ^ e.log2))) ∧
  (∀ (s : State) (ch : ChanId) p n rest, (s.pstate = .run ∨ s.pstate = .idle) → s.ats = true → s.hostOpen = true → s.prefetches ch = true →
    (s.chan ch).aheadPages = (p, n) :: rest → s.tlbHit ch p (n.page * 4096) n.wr = none → (∀ m ∈ (s.chan ch).asked, m.page ≠ n.page ∨ m.wr ≠ n.wr) →
    Machine.exec (.streamPrefetch ch) s =
      .next ((s.setChan ch { s.chan ch with asked := (s.chan ch).asked ++ [n] }).emit (.atsRequest ch p n.page n.wr)))

/-- Every step keeps the fault ring within its 256 entries (R500, R502). -/
def Obligations.FaultRingBounded : Prop :=
  ∀ s t : State, s.ring.bounded → Machine.step s = .next t → t.ring.bounded

/-! ## HBM, shared caches, patrol (spec/10, spec/18) -/

/-- Line requests. A read that hits answers the line's bytes and ages it for its class; with the cache disabled a write reaches HBM and a read
of the same bytes then answers them, WWD is set, and no other granule changes; a poisoned line fails (R424 to R430, R434, R439). Atomic
line requests update the elements of a line in the cache, whatever the class allocates, and need it enabled and the address aligned (R441
to R446).
Rests on the model's choice or reading in log entries 52 and 53. -/
def Obligations.LineAccess : Prop :=
  (∀ (s : State) (k : BitVec 3) (a n : Nat), (s.pstate = .run ∨ s.pstate = .idle) → 0 < n → a % 256 + n ≤ 256 → a + n ≤ hbmBytes → s.inTest a = false →
    let c := s.cache (hbmDie a)
    (∀ l, c.en = true → c.find a = some l → l.poison = false →
      Machine.exec (.lineRequestRead k a n false false) s =
        .next ((s.setCache (hbmDie a) (c.put ((c.cls k).touch l))).emit (.lineReply 0#8 0#7 ((l.data.drop (a % 256)).take n)))) ∧
    (∀ l, c.en = true → c.find a = some l → l.poison = true → ∃ t, Machine.exec (.lineRequestRead k a n false false) s = .next t ∧
      t.out = s.out ++ [.lineReply 0x05#8 0#7 []] ∧ t.hbm = s.hbm) ∧
    (∀ l bs, c.en = true → c.find a = some l → l.poison = false → bs.length = n →
      Machine.exec (.lineRequestWrite k a ⟨bs, false⟩) s = .next ((s.setCache (hbmDie a) (c.put ((c.cls k).touch { l with
        data := l.data.take (a % 256) ++ bs ++ l.data.drop (a % 256 + n), dirty := true }))).emit (.lineReply 0#8 0#7 []))) ∧
    (∀ bs, c.en = false → bs.length = n → s.hbmBad = [] → ∃ t, Machine.exec (.lineRequestWrite k a ⟨bs, false⟩) s = .next t ∧
      t.out = s.out ++ [.lineReply 0#8 0#7 []] ∧ t.hbm.getN a n = bs ∧ (∀ x, x < a / 256 * 256 ∨ a / 256 * 256 + 256 ≤ x → t.hbm.get x = s.hbm.get x) ∧
      (s.writtenKey a = some (s.keyAt a) → ∀ x, x < a ∨ a + n ≤ x → t.hbm.get x = s.hbm.get x) ∧
      (t.cache (hbmDie a)) = { c with wwd := true } ∧ t.cores = s.cores ∧ t.writtenKey a = some (t.keyAt a) ∧
      ∃ u, Machine.exec (.lineRequestRead k a n false false) t = .next u ∧ u.out.getLast? = some (.lineReply 0#8 0#7 bs) ∧ u.hbm = t.hbm) ∧
    (Machine.exec (.lineRequestRead k a 0 false false) s = .next s)) ∧
  (∀ (s : State) (k : BitVec 3) (op : AtomicOp) (a v : Nat), (s.pstate = .run ∨ s.pstate = .idle) → s.inTest a = false → a < hbmBytes →
    let c := s.cache (hbmDie a)
    let e := match op with | .fadd32 => 4 | .iadd32 => 4 | .fadd64 => 8 | .iadd64 => 8 | .wadd => 32
    let run := Machine.exec (.atomicLineRequest k op a ⟨leBytes e v, false⟩) s
    a % e = 0 →
    (∀ l, c.en = true → c.find a = some l → l.poison = false → l.data.length = 256 →
      let old := leNat ((l.data.drop (a % 256)).take e)
      ∃ t l', run = .next t ∧ t.caches[hbmDie a] = c.put l' ∧ l'.dirty = true ∧ l'.tag = l.tag ∧ l'.set_ = l.set_ ∧ l'.way = l.way ∧ t.hbm = s.hbm ∧
        (∀ i < 256, (i < a % 256 ∨ a % 256 + e ≤ i) → l'.data.getD i 0#8 = l.data.getD i 0#8) ∧
        (op = .iadd32 ∨ op = .iadd64 → leNat ((l'.data.drop (a % 256)).take e) = (old + v) % 256 ^ e ∧ t.out.getLast? = some (.lineReply 0#8 0#7 [])) ∧
        (op = .fadd32 → leNat ((l'.data.drop (a % 256)).take e) = (fp32.add .rne old (v % 2 ^ 32)).1 % 2 ^ 32) ∧
        (op = .fadd64 → leNat ((l'.data.drop (a % 256)).take e) = (fp64.add .rne old (v % 2 ^ 64)).1 % 2 ^ 64) ∧
        (op = .wadd → leNat ((l'.data.drop (a % 256)).take 32) = (waddNat old (v % 2 ^ 256)).1)) ∧
    (c.en = false → run = .next (s.emit (.lineReply 0x06#8 0#7 []))) ∧
    (∀ x, a < x → x < a + e → a % 256 + e + e ≤ 256 → Machine.exec (.atomicLineRequest k op x ⟨leBytes e v, false⟩) s = .next (s.emit (.lineReply 0x04#8 0#7 []))))


/-- SC_CTRL: refused with WREJ while a context is resident or a walk runs; FLUSH writes every dirty line back and keeps the lines, clean;
INV alone drops the lines; EN takes its value once no walk is left, with DWD and STALE as R434 says; the end of a walk clears the bits of
R435, a FLUSH with INV going on as an INV (R431 to R435). SC_CTRL_FLUSH, SC_CTRL_INV and SC_CTRL_ENABLE are writes of SC_CTRL with bit 6, with
bit 7, and with the value as it is.
Rests on the model's choice or reading in log entries 50 and 51. -/
def Obligations.SharedCacheControl : Prop :=
  ∀ (s : State) (d : DieId) (v : Word),
    let c := s.cache d
    let withEn (x : Cache) (e : Bool) : Cache := { x with
      en := e, enNext := none, stale := x.stale || (e && !x.en && x.wwd && !x.lines.isEmpty), dwd := x.dwd || (!e && x.en && x.lines.any Line.dirty) }
    let x : Cache := if c.flush then { c with flush := false, dwd := c.dwd && c.lines.any Line.dirty, lines := if c.inv then [] else c.lines }
        else { c with inv := false, dwd := false, wwd := false, stale := false }
    (∀ i w, (i, w) ∈ [(Instr.scCtrlFlush d v, v ||| 0x40#64), (Instr.scCtrlInv d v, v ||| 0x80#64), (Instr.scCtrlEnable d v, v)] →
      (s.ctxs ≠ [] ∨ c.flush = true ∨ c.inv = true → Machine.exec i s = .next (s.setCache d { c with wrej := true })) ∧
      (s.ctxs = [] → c.flush = false → c.inv = false →
        (w.getLsbD 6 = true → ∃ t, Machine.exec i s = .next t ∧ (t.cache d).flush = true ∧ (t.cache d).inv = w.getLsbD 7 ∧
          (t.cache d).lines = c.lines.map (fun l => { l with dirty := false }) ∧ (t.cache d).enNext = some (w.getLsbD 0) ∧
          (t.cache d).en = c.en ∧ (t.cache d).dwd = c.dwd ∧ (t.cache d).stale = c.stale ∧ t.cores = s.cores ∧
          (c.lines.Pairwise (fun x y => lineAddr x.set_ x.tag ≠ lineAddr y.set_ y.tag) → (∀ l ∈ c.lines, l.data.length = 256) →
            ∀ l ∈ c.lines, l.dirty = true → t.hbm.getN (lineAddr l.set_ l.tag) 256 = l.data)) ∧
        (w.getLsbD 6 = false → w.getLsbD 7 = true → Machine.exec i s =
          .next (s.setCache d { c with inv := true, enNext := some (w.getLsbD 0), lines := [] })) ∧
        (w.getLsbD 6 = false → w.getLsbD 7 = false → Machine.exec i s = .next (s.setCache d (withEn c (w.getLsbD 0)))))) ∧
    ((c.flush = false → c.inv = false → Machine.exec (.scWalkComplete d) s = .next s) ∧
      (c.flush = true → c.inv = true → Machine.exec (.scWalkComplete d) s = .next (s.setCache d x)) ∧
      (c.flush ≠ c.inv → Machine.exec (.scWalkComplete d) s = .next (s.setCache d (match c.enNext with
        | some e => withEn x e
        | none => x))))

/-- Stack temperatures: above 85 °C the refresh doubles, above 95 °C the bandwidth halves, and neither ends before the stack has read at
least 3 °C below its threshold for a tick (R450). Traffic generators: while a run is in progress only STOP acts, a START is refused as R453 says
or begins a run with its results cleared, and a run that ends leaves its counts, its errors and, where it wrote, WWD and the contents
of the granules gone (R452 to R454).
Rests on the model's choice or reading in log entries 55 and 153. -/
def Obligations.StackTemperaturesAndTraffic : Prop :=
  (∀ (s : State) (ts : List Int),
    ((s.pstate = .run ∨ s.pstate = .idle) → ∃ v, Machine.exec (.hbmTemperatureSample ts) s = .next { s with hbmTemps := v } ∧ ∀ i : Fin 8,
      let x := ts.getD i.val 0
      let old := s.hbmTemps[i]
      (ts.length ≤ i.val → v[i] = old) ∧
      (i.val < ts.length → (v[i]).temp = x ∧
        (85 < x → (v[i]).dbl = true) ∧ (82 < x → x ≤ 85 → (v[i]).dbl = old.dbl) ∧ (x ≤ 82 → old.dblCool = none → (v[i]).dbl = old.dbl) ∧
        (x ≤ 82 → ∀ t0, old.dblCool = some t0 → (v[i]).dbl = (old.dbl && decide (4 * (s.xtal - t0) < 1953125))) ∧
        (95 < x → (v[i]).half = true) ∧ (92 < x → x ≤ 95 → (v[i]).half = old.half) ∧ (x ≤ 92 → old.halfCool = none → (v[i]).half = old.half) ∧
        (x ≤ 92 → ∀ t0, old.halfCool = some t0 → (v[i]).half = (old.half && decide (4 * (s.xtal - t0) < 1953125))))) ∧
    (s.pstate ≠ .run → s.pstate ≠ .idle → Machine.exec (.hbmTemperatureSample ts) s = .next s)) ∧
  (∀ (s : State) (n : Fin 256) (v : Word),
    let h := s.htg[n]
    let w : Htg := { h with pattern := BitVec.ofNat 4 (v.toNat / 2 ^ 12), mode := BitVec.ofNat 2 (v.toNat / 2 ^ 8), raw := v.getLsbD 4 }
    let d : DieId := if n.val < 128 then 0 else 1
    let refused := s.ctxs ≠ [] ∨ (s.cache d).en = true ∨ 4 ≤ w.pattern.toNat ∨ w.mode = 3#2 ∨ h.end_.toNat ≤ h.begin_.toNat ∨ 0xC00000 < h.end_.toNat
    (h.running = false → ¬refused → Machine.exec (.htgStart n v) s = .next ((if w.mode = 1#2 then s else s.setCache d { s.cache d with wwd := true }).setHtg n
      { w with running := true, stop := v.getLsbD 1, errors := 0#32, ue := false, bytes := 0#64, word := 0#5, granule := 0#32 })) ∧
    (h.running = false → refused → Machine.exec (.htgStart n v) s = .next (s.setHtg n { w with rej := true })) ∧
    (h.running = true → Machine.exec (.htgStart n v) s = .next (s.setHtg n { h with stop := h.stop || v.getLsbD 1 })) ∧
    (h.running = true → Machine.exec (.htgStop n v) s = .next (s.setHtg n { h with stop := true })) ∧
    (h.running = false → v.getLsbD 0 = false → Machine.exec (.htgStop n v) s = .next (s.setHtg n w)) ∧
    (h.running = false → v.getLsbD 0 = true → Machine.exec (.htgStop n v) s = Machine.exec (.htgStart n (v ||| 2#64)) s)) ∧
  (∀ (s : State) (n : Fin 256) (g e fg fw : Nat) (unc : Bool),
    let h := s.htg[n]
    let total := h.end_.toNat - h.begin_.toNat
    let d : DieId := if n.val < 128 then 0 else 1
    let did := if h.stop then min g total else total
    let bad := if h.mode = 0#2 then 0 else min e did
    (h.running = true → (s.pstate = .run ∨ s.pstate = .idle) → ∃ t, Machine.exec (.htgRunComplete n g e fg fw unc) s = .next t ∧
      (t.htg[n]).running = false ∧ (t.htg[n]).done = true ∧ (∀ m : Fin 256, m ≠ n → t.htg[m] = s.htg[m]) ∧ t.cores = s.cores ∧
      (t.htg[n]).bytes = BitVec.ofNat 64 (256 * did * (if h.mode = 2#2 then 2 else 1)) ∧
      (h.mode ≠ 1#2 ∨ h.wrote = [] → (t.htg[n]).errors = BitVec.ofNat 32 bad ∧ (bad = 0 → (t.htg[n]).granule = 0#32 ∧ (t.htg[n]).word = 0#5) ∧
        (0 < bad → (t.htg[n]).granule = BitVec.ofNat 32 (h.begin_.toNat + min fg (did - bad)) ∧ (t.htg[n]).word = BitVec.ofNat 5 fw)) ∧
      -- a check of another seed than the one that the granules were written with, of the pattern that is the seed itself
      (∀ r, h.mode = 1#2 → h.wrote = [r] → r.pattern = 3#4 → h.pattern = 3#4 → r.seed ≠ h.seed → r.lo ≤ h.begin_.toNat → h.end_.toNat ≤ r.hi → s.hbmKeys = [] →
        0 < did → (t.htg[n]).errors = BitVec.ofNat 32 did ∧ (t.htg[n]).granule = h.begin_.setWidth 32 ∧ (t.htg[n]).word = 0#5) ∧
      (h.mode = 0#2 ∨ h.raw = true → (t.htg[n]).ue = false) ∧ (h.mode ≠ 0#2 → h.raw = false → unc = true → (t.htg[n]).ue = true) ∧
      (h.mode = 1#2 ∨ did = 0 → t.hbmKeys = s.hbmKeys ∧ t.caches = s.caches ∧ t.hbmBad = s.hbmBad) ∧
      (h.mode ≠ 1#2 → 0 < did → ((s.cache d).en = false → (t.cache d).wwd = true) ∧ (∀ p ∈ t.hbmKeys, hbmChannel (p.1 * 256) = n →
        hbmGranule (p.1 * 256) < h.begin_.toNat ∨ h.begin_.toNat + did ≤ hbmGranule (p.1 * 256)) ∧
        (∀ p ∈ s.hbmKeys, hbmChannel (p.1 * 256) ≠ n → p ∈ t.hbmKeys))) ∧
    (h.running = false ∨ (s.pstate ≠ .run ∧ s.pstate ≠ .idle) → Machine.exec (.htgRunComplete n g e fg fw unc) s = .next s))

/-- Patrol: an uncorrectable word is marked, counted and reported; a corrected one is counted and noticed; a scratchpad row corrected in
two passes is spared; a line whose way fails is written back and its way retired (18:R742 to R746).
Rests on the model's choice or reading in log entries 54 and 152. -/
def Obligations.PatrolFindings : Prop :=
  ∀ (s : State) (c : CoreId) (off : Nat), (s.pstate = .run ∨ s.pstate = .idle) → s.mgmt.events.length < 255 →
    let up (x : BitVec 32) : BitVec 32 := if x = 0xFFFFFFFF#32 then x else x + 1#32
    let noticed (t : State) := (s.ring.open_ = true → s.ring.held = [] → t.ring.tail = s.ring.tail + 1#9) ∧ (s.ring.open_ = false → t.ring.cedrop = up s.ring.cedrop)
    let spad := 0x10000000000 + c.val * 0x8000000 + off
    let imem := 0x10100000000 + c.val * 0x200000 + off
    let dmem := 0x10100000000 + c.val * 0x200000 + 0x100000 + off
    (off < 0x5800000 →
      (∃ t, Machine.exec (.scratchpadPatrolScrub c off .uncorrectable) s = .next t ∧ off / 8 * 8 ∈ (t.core c).badSpad ∧
        t.rep.ecc[0].unc = up s.rep.ecc[0].unc ∧ (9, [0#64, BitVec.ofNat 64 spad]) ∈ t.mgmt.events ∧ (t.core c).spad = (s.core c).spad ∧
        (s.rep.rowsSpared[c].length < 32 → (off / 8 * 8 ∉ (s.core c).badSpad ∨ off / 8 * 8 ∉ s.rep.movedMarks[c]) → off / 4096 ∈ t.rep.rowsSpared[c])) ∧
      (off / 8 * 8 ∉ (s.core c).badSpad → off / 4096 ∉ s.rep.patrolS[c].prev → s.rep.patrolS[c].last ≤ off →
        ∃ t, Machine.exec (.scratchpadPatrolScrub c off .corrected) s = .next t ∧
        t.rep.ecc[0].corr = up s.rep.ecc[0].corr ∧ t.rep.rowsSpared = s.rep.rowsSpared ∧ off / 4096 ∈ t.rep.patrolS[c].cur ∧ noticed t) ∧
      (off / 8 * 8 ∉ (s.core c).badSpad → off / 4096 ∈ s.rep.patrolS[c].prev → s.rep.patrolS[c].last ≤ off → s.rep.rowsSpared[c].length < 32 →
        ∃ t, Machine.exec (.scratchpadPatrolScrub c off .corrected) s = .next t ∧ off / 4096 ∈ t.rep.rowsSpared[c] ∧ noticed t) ∧
      (∃ t, Machine.exec (.scratchpadPatrolScrub c off .clean) s = .next t ∧ t.cores = s.cores ∧ t.rep.ecc = s.rep.ecc ∧ t.rep.rowsSpared = s.rep.rowsSpared) ∧
      (∀ f, Machine.exec (.memoryPatrol .scratchpad c.val off f) s = Machine.exec (.scratchpadPatrolScrub c off f) s)) ∧
    (off < 0x40000 →
      (∃ t, Machine.exec (.memoryPatrol .dmem c.val off .uncorrectable) s = .next t ∧ off / 8 * 8 ∈ (t.core c).badDmem ∧
        t.rep.ecc[1].unc = up s.rep.ecc[1].unc ∧ (9, [1#64, BitVec.ofNat 64 dmem]) ∈ t.mgmt.events ∧ (t.core c).dmem = (s.core c).dmem) ∧
      (off / 8 * 8 ∉ (s.core c).badDmem → ∃ t, Machine.exec (.memoryPatrol .dmem c.val off .corrected) s = .next t ∧
        t.rep.ecc[1].corr = up s.rep.ecc[1].corr ∧ t.cores = s.cores ∧ noticed t)) ∧
    (off < 0x100000 →
      (∃ t, Machine.exec (.memoryPatrol .imem c.val off .uncorrectable) s = .next t ∧ off / 8 * 8 ∈ (t.core c).badImem ∧
        t.rep.ecc[2].unc = up s.rep.ecc[2].unc ∧ (9, [2#64, BitVec.ofNat 64 imem]) ∈ t.mgmt.events ∧ (t.core c).imem = (s.core c).imem) ∧
      (off / 8 * 8 ∉ (s.core c).badImem → ∃ t, Machine.exec (.memoryPatrol .imem c.val off .corrected) s = .next t ∧
        t.rep.ecc[2].corr = up s.rep.ecc[2].corr ∧ t.cores = s.cores ∧ noticed t)) ∧
    (∀ d : DieId, off < 524288 → (s.cache d).en = true → (s.cache d).retired.length < 1024 → (off / 16, off % 16) ∉ (s.cache d).retired →
      ∃ t, Machine.exec (.memoryPatrol .scache d.val off .uncorrectable) s = .next t ∧ t.rep.ecc[3].unc = up s.rep.ecc[3].unc ∧
        (off / 16, off % 16) ∈ (t.cache d).retired ∧ (t.cache d).at_ (off / 16) (off % 16) = none) ∧
    (off < hbmBytes →
      (∃ t, Machine.exec (.memoryPatrol .hbm 0 off .uncorrectable) s = .next t ∧ off / 64 * 64 ∈ t.hbmBad ∧ t.rep.ecc[4].unc = up s.rep.ecc[4].unc ∧
        (9, [4#64, BitVec.ofNat 64 off]) ∈ t.mgmt.events ∧ t.hbm = s.hbm) ∧
      (∃ t, Machine.exec (.memoryPatrol .hbm 0 off .corrected) s = .next t ∧ t.rep.ecc[4].corr = up s.rep.ecc[4].corr ∧ t.hbmBad = s.hbmBad ∧ noticed t)) ∧
    (∀ m, m ≠ .scratchpad → m ≠ .scache → Machine.exec (.memoryPatrol m c.val off .clean) s = .next s)
/-! ## Links (spec/12) -/

/-- The states of a link: its leaving UP for DOWN or HOLD by the causes of R509, the last three of them only once the link itself counts their
event, training, attestation, the retry out of HOLD, and new keys (R507 to R511, R516 to R520).
Rests on the model's choice or reading in log entries 65, 66 and 67. -/
def Obligations.LinkStates : Prop :=
  ∀ (s : State) (l : LinkId),
    let k := s.link l
    let hour := k.upSince + 3600000000000 ≤ s.xtal
    let happened (cause : BitVec 4) := (cause = 2#4 → 32 ≤ k.replays) ∧ (cause = 3#4 → 64 < k.badWords) ∧
      (cause = 6#4 → ∃ (v : Fin 8) (t : Nat), k.starved[v] = some t ∧ t + 10000000 ≤ s.xtal)
    -- leaving UP, or training (R509, R510)
    (∀ cause ∈ [1#4, 2#4, 3#4, 6#4, 7#4, 8#4], k.st = .up →
      (happened cause → ∃ t, Machine.exec (.linkDown l cause) s = .next t ∧ sameCompute s t ∧ otherLinks s t l ∧
        t.link l = { k.cleared with st := .down, cause := cause, downs := satAdd k.downs 1, tagFails := if hour then 0 else k.tagFails }) ∧
      (¬happened cause → Machine.exec (.linkDown l cause) s = .next s)) ∧
    (k.st = .up → let n := if hour then 1 else k.tagFails + 1
      ∃ t, Machine.exec (.linkDown l 4#4) s = .next t ∧ sameCompute s t ∧ otherLinks s t l ∧
        t.link l = { k.cleared with st := if 3 ≤ n then .hold else .down, cause := 4#4, downs := satAdd k.downs 1, tagFails := n }) ∧
    (∀ cause ∈ [1#4, 2#4, 3#4, 4#4, 6#4, 7#4, 8#4], k.st = .train ∨ k.st = .attest → ∃ t, Machine.exec (.linkDown l cause) s = .next t ∧ sameCompute s t ∧
      otherLinks s t l ∧ t.link l = { k.cleared with st := .down }) ∧
    (∀ cause, cause ∉ [1#4, 2#4, 3#4, 4#4, 6#4, 7#4, 8#4] ∨ k.st ∉ [.up, .train, .attest] → Machine.exec (.linkDown l cause) s = .next s) ∧
    -- training (R507, R511)
    (∀ r : TrainResult,
      let x := (if r.order = .reversed then r.lanes.reverse else r.lanes) &&& ~~~(k.lost ||| k.lostRx)
      let out := Machine.exec (.linkTrain l r) s
      let goes (k' : Link) := ∃ t, out = .next t ∧ sameCompute s t ∧ otherLinks s t l ∧ t.link l = k'
      -- attestation begins with the request for the partner's certificate chain, as soon as its credit is there
      let attests (k' : Link) := ∃ t, out = .next t ∧ sameCompute s t ∧ otherLinks s t l ∧ (t.link l).st = .attest ∧ (t.link l).lanemap = k'.lanemap ∧
        (t.link l).spare = k'.spare ∧ (t.link l).degr = k'.degr ∧ (t.link l).keyed = k.keyed ∧
        let m := s.mgmtMsg 0xFFFF#16 mgmtSpdm [0x82#64]
        (Out.message (some l) m ∈ t.out ∨ m ∈ (t.link l).queue) ∧ ∃ g, Out.flit l g ∈ t.out ∧ g.idle = true ∧ g.nak = false
      let locked := r.locked = true ∧ (if l.val < 32 then r.order = .straight ∧ r.inverted = 0#16 else r.order ≠ .other)
      let spared := (∃ j < 8, x.setWidth 8 = ~~~(1#8 <<< j)) ∧ x.getLsbD 8 = true ∧ r.spare = true
      let enough := if l.val < 32 then x.setWidth 8 = 0xFF#8 ∨ spared else x.setWidth 8 = 0xFF#8 ∨ x >>> 8 = 0xFF#16
      let held := l.val < 32 ∧ (s.feed (feedOf l)).st = .switching ∧ k.cause = 8#4
      ((k.st ≠ .down ∧ k.st ≠ .train) ∨ s.lit l = false ∨ s.dataPlane = false → out = .next s) ∧
      ((k.st = .down ∨ k.st = .train) → s.lit l = true → s.dataPlane = true →
        (¬enough → goes { k with st := .down, cause := if held then 8#4 else 7#4 }) ∧
        (enough → ¬locked → goes { k with st := .train }) ∧
        (locked → l.val < 32 → x.setWidth 8 = 0xFF#8 → attests { k with lanemap := 0xFF#16, spare := false }) ∧
        (locked → l.val < 32 → spared → attests { k with lanemap := 0x100#16 ||| (x &&& 0xFF#16), spare := true }) ∧
        (locked → 32 ≤ l.val → x = 0xFFFF#16 → attests { k with lanemap := x, degr := false }) ∧
        (locked → 32 ≤ l.val → x ≠ 0xFFFF#16 → x.setWidth 8 = 0xFF#8 → attests { k with lanemap := 0xFF#16, degr := true }) ∧
        (locked → 32 ≤ l.val → x.setWidth 8 ≠ 0xFF#8 → x >>> 8 = 0xFF#16 → attests { k with lanemap := 0xFF00#16, degr := true }))) ∧
    -- attestation (R516, R517)
    (∀ p : Partner,
      let ok := p.refuses = false ∧ ∃ g, s.secPolicy = some g ∧ p.chainOk = true ∧ p.meas2.toNat = s.measurement 2 ∧ p.meas5.toNat = s.measurement 5 ∧
        (p.meas4 ∈ g.fwAllow.take g.nfw ∨ g.nfw = 0 ∧ p.meas4.toNat = s.measurement 4) ∧ (p.debug = true → g.peerDebugOk = true)
      let out := Machine.exec (.linkAttest l p) s
      (k.st ≠ .attest ∨ s.lit l = false ∨ s.dataPlane = false → out = .next s) ∧
      (k.st = .attest → s.lit l = true → s.dataPlane = true →
      (ok → s.mapped l = some (p.device, p.plink) → ∃ t, out = .next t ∧ sameCompute s t ∧ (s.fab.untold = [] → otherLinks s t l) ∧
        (t.link l).st = .up ∧ (t.link l).keyed = true ∧ (t.link l).partner = p.device ∧ (t.link l).plink = p.plink ∧ (t.link l).lanemap = k.lanemap ∧
        (t.link l).upSince = s.xtal ∧ Out.message (some l) (s.mgmtMsg 0xFFFF#16 mgmtSpdm [0xE4#64, BitVec.ofNat 64 (s.keys + 1)]) ∈ t.out ∧
        Out.message (some l) (s.mgmtMsg 0xFFFF#16 mgmtSpdm [0xE5#64]) ∈ t.out ∧
        (s.fab.untold = [] → (t.link l).txKeyNo = Config.linkKey (s.keys + 1) p.share true ∧ (t.link l).rxKeyNo = Config.linkKey (s.keys + 1) p.share false)) ∧
      (ok → s.mapped l ≠ some (p.device, p.plink) → ∃ t, out = .next t ∧ sameCompute s t ∧ otherLinks s t l ∧
        t.link l = { k.cleared with st := .hold, cause := 9#4, upSince := s.xtal }) ∧
      (¬ok → ∃ t, out = .next t ∧ sameCompute s t ∧ otherLinks s t l ∧
        t.link l = { k.cleared with st := .hold, cause := 5#4, upSince := s.xtal }))) ∧
    -- the retry every 10 s (R517), and new keys (R519)
    (k.st = .hold → k.cause = 5#4 → k.upSince + 10000000000 ≤ s.xtal → ∃ t, Machine.exec (.linkHoldRetry l) s = .next t ∧ sameCompute s t ∧
      otherLinks s t l ∧ t.link l = { k with st := .down }) ∧
    (k.st ≠ .hold ∨ k.cause ≠ 5#4 ∨ s.xtal < k.upSince + 10000000000 → Machine.exec (.linkHoldRetry l) s = .next s) ∧
    (k.st = .up → k.txNext = none → ∃ t, Machine.exec (.linkRekey l true) s = .next t ∧ sameCompute s t ∧ otherLinks s t l ∧ (t.link l).st = .up ∧
      (t.link l).rxKey = k.rxKey ∧ (t.link l).rxKeyNo = k.rxKeyNo ∧
      (let m := s.mgmtMsg 0xFFFF#16 mgmtKeyUpdate []
       (k.canSend l m = true → k.queue = [] → Out.message (some l) m ∈ t.out ∧ (t.link l).txKey = !k.txKey ∧ (t.link l).txSlot = 0 ∧
          (t.link l).txKeyNo = Config.nextKey k.txKeyNo ∧ (t.link l).txNext = none) ∧
       (k.canSend l m = false → m ∈ (t.link l).queue ∧ (t.link l).txKey = k.txKey ∧ (t.link l).txKeyNo = k.txKeyNo ∧
          (t.link l).txNext = some (Config.nextKey k.txKeyNo)))) ∧
    (k.st = .up → k.txNext ≠ none → Machine.exec (.linkRekey l true) s = .next s) ∧
    (k.st = .up → Machine.exec (.linkRekey l false) s = .next (s.setLink l { k with rxNext := some (Config.nextKey k.rxKeyNo) })) ∧
    (k.st ≠ .up → ∀ b, Machine.exec (.linkRekey l b) s = .next s)

/-- Flits: one received in its turn and intact is taken, and acknowledged when it carries slots; one repeated is dropped; one ahead of its turn
or damaged is answered by NAK; the 65th bad codeword of a tick and a failed tag take the link out of UP; a flit that inverts CTL.KEY brings the
partner's next key into use; on a NAK every unacknowledged flit goes again, and the 32nd replay takes the link DOWN (R509, R513, R514,
R518 to R520).
Rests on the model's choice or reading in log entries 65 and 157. -/
def Obligations.FlitsAndRetry : Prop :=
  ∀ (s : State) (l : LinkId) (f : Flit),
    let k := s.link l
    let k1 := { k with
      feccorr := satAdd k.feccorr f.fecCorr, rxSlot := k.rxSlot + 1, recvUs := k.recvUs + 1, badWords := k.badWords + max (if f.fecOk then 0 else 1) f.fecBad }
    let out := Machine.exec (.flitReceive l f) s
    let turn := if f.idle then k.rxSeq else k.rxSeq + 1#16
    let whole := f.fecOk = true ∧ f.crcOk = true
    let sealed := k.keyed = true → f.tagOk = true ∧ (f.key = k.rxKey ∨ k.rxNext ≠ none)
    let nak (t : State) := sameCompute s t ∧ otherLinks s t l ∧ (t.link l).nak = true ∧ (t.link l).rxSeq = k.rxSeq ∧ (t.link l).unacked = k.unacked ∧
      (t.link l).feccorr = k1.feccorr ∧ ∃ g, t.out = s.out ++ [.flit l g] ∧ g.nak = true ∧ g.idle = true ∧ g.lack = k.rxSeq ∧ g.lseq = k.txSeq
    (k.st ≠ .up → k.st ≠ .attest → out = .next s) ∧
    (k.st = .up → 64 < k1.badWords → ∃ t, out = .next t ∧ sameCompute s t ∧ otherLinks s t l ∧ (t.link l).st = .down ∧ (t.link l).cause = 3#4) ∧
    ((k.st = .up ∧ k1.badWords ≤ 64) ∨ k.st = .attest →
      (¬whole → ∃ t, out = .next t ∧ nak t) ∧
      (whole → ¬sealed → ∃ t, out = .next t ∧ sameCompute s t ∧ otherLinks s t l ∧
        (k.st = .up → (t.link l).cause = 4#4 ∧ ((t.link l).st = .down ∨ (t.link l).st = .hold)) ∧ (k.st = .attest → (t.link l).st = .attest)) ∧
      (whole → sealed → (k.keyed = true → f.key = k.rxKey) → f.lseq ≠ turn → (k.rxSeq - f.lseq).toNat < 2 ^ 15 → out = .next (s.setLink l k1)) ∧
      (whole → sealed → f.lseq ≠ turn → 2 ^ 15 ≤ (k.rxSeq - f.lseq).toNat → ∃ t, out = .next t ∧ nak t) ∧
      (whole → sealed → f.lseq = turn → k.queue = [] → (l.val < 32 → (s.feed (feedOf l)).st ≠ .draining) → ∃ t, out = .next t ∧
        sameCompute s t ∧ otherLinks s t l ∧ (t.link l).st = k.st ∧ (t.link l).rxSeq = f.lseq ∧ (t.link l).nak = false ∧ (t.link l).nakIn = (k.nakIn || f.nak) ∧
        (t.link l).credits = k.credits.set f.cvc.toNat (k.credits[f.cvc.toNat] + f.cred) ∧ (t.link l).feccorr = k1.feccorr ∧
        (∀ pre post, k.unacked = pre ++ f.lack :: post → f.lack ∉ pre → (t.link l).unacked = post ∧ (t.link l).replays = 0) ∧
        (f.lack ∉ k.unacked → (t.link l).unacked = k.unacked ∧ (t.link l).replays = k.replays) ∧
        (∀ n, k.keyed = true → f.key ≠ k.rxKey → k.rxNext = some n → (t.link l).rxKey = f.key ∧ (t.link l).rxKeyNo = n ∧ (t.link l).rxNext = none) ∧
        (f.idle = true → t.out = s.out) ∧
        (f.idle = false → ∃ g rest, t.out = s.out ++ Out.flit l g :: rest ∧ g.lack = f.lseq ∧ g.idle = true ∧ g.nak = false))) ∧
    -- resending
    (k.st = .up → k.nakIn = true → k.unacked ≠ [] → k.replays < 31 → ∃ (t : State) (gs : List FlitOut), Machine.exec (.flitResend l) s = .next t ∧ sameCompute s t ∧ otherLinks s t l ∧
      t.out = s.out ++ gs.map (Out.flit l) ∧ gs.map (fun g => (g.lseq, g.slots)) = k.unacked.zip k.buf ∧
      (∀ g ∈ gs, g.lack = k.rxSeq ∧ g.nak = false ∧ g.idle = false ∧ g.key = k.txKey) ∧ (t.link l).unacked = k.unacked ∧ (t.link l).nakIn = false ∧
      (t.link l).replays = k.replays + 1 ∧ (t.link l).retry = satAdd k.retry k.unacked.length ∧ (t.link l).txSlot = k.txSlot + gs.length) ∧
    (k.st = .up → k.nakIn = true → k.unacked ≠ [] → 31 ≤ k.replays → ∃ t, Machine.exec (.flitResend l) s = .next t ∧ sameCompute s t ∧ otherLinks s t l ∧
      (t.link l).st = .down ∧ (t.link l).cause = 2#4) ∧
    (k.st = .up → k.nakIn = true → k.unacked = [] → Machine.exec (.flitResend l) s = .next (s.setLink l { k with nakIn := false })) ∧
    (k.st ≠ .up ∨ k.nakIn = false → Machine.exec (.flitResend l) s = .next s)

/-! ## The fabric above the links (spec/12, 18:R756) -/

/-- Requests at an inbound window: the expected one takes effect and is answered 0x00, one that no window allows or that its window cannot serve
is answered 0x01, and both move the expected SEQ on; a repeated one is answered again without taking effect (a READ is read again), one
ahead is answered with the expected SEQ, one of another epoch is not answered, and with 256 other sources at the window a new source's
requests are answered 0x01 (R524, R527, R537 to R540). An offset in a valid entry of a window is its base plus the offset in the granule;
a request over an invalid entry, or over the end of 256 bytes, has no address (R523).
Rests on the model's choice or reading in log entry 71. -/
def Obligations.RequestsAtTheReceiver : Prop :=
  (∀ (j : InWin) (off n : Nat),
    let g := if j.gran = 0#2 then 0x10000 else if j.gran = 1#2 then 0x200000 else 0x4000000
    (∀ b, 0 < n → off % 256 + n ≤ 256 → j.entries[off / g]? = some (some b) → j.addr off n = some (b + off % g)) ∧
    (j.entries[off / g]? = some none ∨ j.entries.length ≤ off / g → j.addr off n = none) ∧ (256 < off % 256 + n ∨ n = 0 → j.addr off n = none)) ∧
  ∀ (s : State) (m : Msg) (k : Fin 4) (mk : Msg → Instr),
    (k.val = 0 ∧ mk = .writeRequestReceive ∨ k.val = 1 ∧ mk = .readRequestReceive ∨ k.val = 2 ∧ mk = .waddRequestReceive ∨ k.val = 3 ∧ mk = .signalRequestReceive) →
    let out := Machine.exec (mk m) s
    (m.cls.toNat ≠ k.val ∨ m.dest ≠ s.deviceId ∨ m.rsp = true ∨ (s.pstate ≠ .run ∧ s.pstate ≠ .idle) ∨ s.quietWin m.rwin = true → out = .next s) ∧
    (m.cls.toNat = k.val → m.dest = s.deviceId → m.rsp = false → (s.pstate = .run ∨ s.pstate = .idle) → s.quietWin m.rwin = false →
      -- a request at a window is traffic: idleness counts anew from it (16:R706)
      let s : State := { s with power := { s.power with idleSince := s.xtal } }
      let answer (seq : BitVec 16) (status : BitVec 8) (ahead : BitVec 38) (data : List Byte) : Msg :=
        { dest := m.src, src := s.deviceId, cls := m.cls, rsp := true, hops := 0#4, rwin := m.rwin, seq := seq, epoch := m.epoch, offset := ahead,
          len := status, data := data }
      let done (u : State) (status : BitVec 8) (data : List Byte) : Prop :=
        out = .next ((u.setReceiver ⟨m.rwin, m.src, m.epoch, m.seq + 1#16, status⟩).sendMsg (answer m.seq status 0#38 data))
      let full := 256 ≤ (s.fab.receivers.filter (fun y => y.win == m.rwin)).length
      let allowed (x : Context) (j : InWin) : Prop := s.inWin m.rwin = some (x, j) ∧
        (j.srcsel = m.src ∨ j.srcsel = 0xFFFF#16 ∨ m.src ∈ s.groupMembers j.srcsel) ∧ j.perm.getLsbD k.val = true
      let turn := (∃ r, s.receiver m.rwin m.src = some r ∧ (r.epoch = m.epoch ∧ r.expect = m.seq ∨ r.epoch ≠ m.epoch ∧ m.seq = 0#16)) ∨
        (s.receiver m.rwin m.src = none ∧ ¬full ∧ m.seq = 0#16)
      (turn → (∀ x j, ¬allowed x j) → done s 1#8 []) ∧
      (turn → ∀ x j, allowed x j → k.val = 0 → match j.addr m.offset.toNat m.data.length with
        | none => done s 1#8 []
        | some a =>
          let w := s.devWrite j.cls none a m.data
          done w.1 (if w.2.1 = 0#8 then 0#8 else 1#8) []) ∧
      (turn → ∀ x j, allowed x j → k.val = 1 → match j.addr m.offset.toNat (m.len.toNat + 1) with
        | none => done s 1#8 []
        | some a =>
          let w := s.devRead j.cls a (m.len.toNat + 1)
          if w.2.1 = 0#8 then done w.1 0#8 w.2.2 else done w.1 1#8 []) ∧
      (turn → ∀ x j, allowed x j → k.val = 2 → match j.addr m.offset.toNat m.data.length with
        | none => done s 1#8 []
        | some a =>
          let w := s.devWrite j.cls (some .wadd) a m.data
          if a < hbmBytes ∧ a % 32 = 0 ∧ m.data.length % 32 = 0 then
            (if w.2.1 = 0#8 then done w.1 0#8 [(dmaFlags w.2.2).setWidth 8] else done w.1 1#8 [])
          else done s 1#8 []) ∧
      (turn → ∀ x j, allowed x j → k.val = 3 → let n := (m.offset.setWidth 8).toNat
        done (s.updCtx x.pasid (fun y => { y with
          counters := y.counters.set! n (y.counters.toList.getD n 0#64 + (m.offset >>> 8).setWidth 64) })) 0#8 []) ∧
      -- out of turn
      (∀ r, s.receiver m.rwin m.src = some r → r.epoch = m.epoch → m.seq ≠ r.expect → (r.expect - m.seq).toNat < 2 ^ 15 →
        (k.val ≠ 1 ∨ r.status ≠ 0#8 → out = .next (s.sendMsg (answer m.seq r.status 0#38 []))) ∧
        (k.val = 1 → r.status = 0#8 → ∀ x j a, allowed x j → j.addr m.offset.toNat (m.len.toNat + 1) = some a →
          let w := s.devRead j.cls a (m.len.toNat + 1)
          w.2.1 = 0#8 → out = .next (w.1.sendMsg (answer m.seq 0#8 0#38 w.2.2)))) ∧
      (∀ r, s.receiver m.rwin m.src = some r → r.epoch = m.epoch → m.seq ≠ r.expect → 2 ^ 15 ≤ (r.expect - m.seq).toNat →
        out = .next (s.sendMsg (answer r.expect r.status 1#38 []))) ∧
      (∀ r, s.receiver m.rwin m.src = some r → r.epoch ≠ m.epoch → m.seq ≠ 0#16 → out = .next s) ∧
      (s.receiver m.rwin m.src = none → ¬full → m.seq ≠ 0#16 → out = .next (s.sendMsg (answer 0#16 0#8 1#38 []))) ∧
      (s.receiver m.rwin m.src = none → full → out = .next (s.sendMsg (answer m.seq 1#8 0#38 []))))

/-- Streams at the sender: the answer to the oldest request takes it off, an error counts for a signal and ends a descriptor, the last answer of
an access lets its walk go on, an answer with the expected SEQ makes every unacknowledged request go again, as a timeout of 200 µs and a route
switch do; and an unreachable stream gives its requests up and starts a new epoch (R525, R526, R532, R591).
Rests on the model's choice or reading in log entries 68, 69, 70 and 158. -/
def Obligations.StreamsAtTheSender : Prop :=
  let plain (x : Stream) : Prop := ∀ q ∈ x.unacked, ∀ ch tk, q.2 ≠ .chan ch tk
  let kept (q : Msg × Sender) := (q.1.seq, q.1.epoch, q.1.cls, q.1.offset, q.1.len, q.2)
  (∀ (s : State) (r : Msg), (r.rsp = false ∨ r.dest ≠ s.deviceId ∨ (s.pstate ≠ .run ∧ s.pstate ≠ .idle) ∨ s.answered r = none) →
    Machine.exec (.responseReceive r) s = .next s) ∧
  (∀ (s : State) (r : Msg) (x : Stream) (m : Msg) (by_ : Sender) (rest : List (Msg × Sender)),
    r.rsp = true → r.dest = s.deviceId → (s.pstate = .run ∨ s.pstate = .idle) → s.answered r = some x → x.unacked = (m, by_) :: rest →
    let out := Machine.exec (.responseReceive r) s
    let s1 := s.setStream { x with unacked := rest, resends := 0, advAt := s.xtal }
    let more := by_ ∈ rest.map Prod.snd
    (r.offset ≠ 1#38 → r.len = 0#8 → by_ = .signal → out = .next s1) ∧
    (r.offset ≠ 1#38 → r.len ≠ 0#8 → by_ = .signal → out = .next (s1.updCtx x.pasid (fun y => { y with sigErrs := y.sigErrs + 1#32 })).settle) ∧
    (∀ ch tk d, by_ = .chan ch tk → s.remoteHead ch tk = some d → r.offset ≠ 1#38 →
      let y := s.chan ch
      let g := if m.cls = 1#4 then y.got ++ r.data else y.got
      let fl := if m.cls = 2#4 then y.flags ||| ((r.data.head?).getD 0#8).setWidth 7 else y.flags
      let n := (tileOf d.words).accessLen y.plane y.row y.col
      (r.len ≠ 0#8 → out = .next (s1.endAt ch (tileOf d.words) 0x0A#8).settle) ∧
      (r.len = 0#8 → more → out = .next (s1.setChan ch { y with got := g, flags := fl })) ∧
      (r.len = 0#8 → ¬more → m.cls = 1#4 →
        out = .next ((s1.setChan ch { y with flags := fl, wait := .none, got := [] }).deliver ch d (tileOf d.words) n g (.data [])).settle) ∧
      (r.len = 0#8 → ¬more → m.cls ≠ 1#4 →
        out = .next ((s1.setChan ch { y with flags := fl, wait := .none, got := [] }).advanceWalk ch d (tileOf d.words) n 0#7).settle)) ∧
    (∀ ch tk, by_ = .chan ch tk → s.remoteHead ch tk = none → r.offset ≠ 1#38 → r.len = 0#8 → out = .next s1) ∧
    (r.offset = 1#38 → ∃ t, out = .next t ∧ (plain x → sameCompute s t) ∧ (t.stream x.pasid x.win).map Stream.resends = some (x.resends + 1) ∧
      (t.stream x.pasid x.win).map Stream.seq = some x.seq)) ∧
  (∀ (s : State) (p : Pasid) (w : BitVec 6), s.stream p w = none →
    Machine.exec (.streamResend p w) s = .next s ∧ Machine.exec (.streamUnreachable p w) s = .next s) ∧
  (∀ (s : State) (p : Pasid) (w : BitVec 6) (x : Stream), s.stream p w = some x →
    let waits := x.unacked ≠ [] ∧ x.resends < 16 ∧ x.advAt + 200000 ≤ s.xtal
    (waits → ∃ t u, Machine.exec (.streamResend p w) s = .next t ∧ t.fab.receivers = s.fab.receivers ∧ (plain x → sameCompute s t) ∧
      t.stream p w = some { x with resends := x.resends + 1, unacked := u, advAt := s.xtal } ∧ u.map kept = x.unacked.map kept ∧
      (plain x → u.map (fun q => q.1.data) = x.unacked.map (fun q => q.1.data))) ∧
    (¬waits → Machine.exec (.streamResend p w) s = .next s) ∧
    (∀ u us, x.unacked = u :: us → (∀ q ∈ x.unacked, q.2 = .signal) → (s.unreachable u.1.dest = true ∨ 16 ≤ x.resends) →
      ∃ t, Machine.exec (.streamUnreachable p w) s = .next t ∧ t.stream p w = none ∧
        (t.openStream p w).2.epoch = s.fab.epoch ∧ (t.openStream p w).2.seq = 0#16 ∧ (t.openStream p w).1.fab.epoch = s.fab.epoch + 1#16 ∧
        (∀ y, s.ctx p = some y → (t.ctx p).map Context.sigErrs = some (y.sigErrs + BitVec.ofNat 32 x.unacked.length)) ∧ t.cores = s.cores ∧
        ((∀ ch, s.walksTo ch p w = false) → t.chans = s.chans ∧ (s.invals = [] → t.out = s.out)) ∧
        (∀ ch, s.walksTo ch p w = true → ((t.chan ch).head.bind Desc.fin).map Fin_.status = some 0x0A#8)) ∧
    (∀ ch tk u d, x.unacked = [u] → u.2 = .chan ch tk → s.remoteHead ch tk = some d → (s.unreachable u.1.dest = true ∨ 16 ≤ x.resends) →
      (∀ e, e ≠ ch → s.walksTo e p w = false) → Machine.exec (.streamUnreachable p w) s = .next
        (({ s with fab := { s.fab with streams := s.fab.streams.filter (fun y => !(y.pasid == p && y.win == w)) } } : State).endAt ch (tileOf d.words) 0x0A#8).settle) ∧
    (x.unacked = [] → Machine.exec (.streamUnreachable p w) s = .next s) ∧
    (∀ u us, x.unacked = u :: us → s.unreachable u.1.dest = false → x.resends < 16 → Machine.exec (.streamUnreachable p w) s = .next s)) ∧
  (∀ (s : State) (dest : BitVec 16) (x : Stream), x ∈ s.fab.streams →
    s.fab.streams.Pairwise (fun a b => a.pasid ≠ b.pasid ∨ a.win ≠ b.win) → ∃ t, Machine.exec (.routeSwitch dest) s = .next t ∧
      ((∀ y ∈ s.fab.streams, plain y) → sameCompute s t) ∧
      (t.stream x.pasid x.win).map Stream.resends = some (x.resends + if x.dest = some dest then 1 else 0)) ∧
  (∀ (s : State) (dest : BitVec 16), (∀ x ∈ s.fab.streams, x.dest ≠ some dest) → Machine.exec (.routeSwitch dest) s = .next s)

/-- Messages that are not for this device go on with one more hop; those with 15 hops, to reserved destinations or to a group with
another class are discarded and counted; a group message goes once, on the group's other UP links (R530, R533); a TIME message on a link is
answered on it (R543). A REDIRECT sets, replaces or removes the entry of the device that sends it, and the 257th is counted (R756).
Rests on the model's choice or reading in log entries 73, 77 and 156. -/
def Obligations.ForwardingAndRedirects : Prop :=
  let plain (s : State) : Prop := ∀ x ∈ s.fab.streams, ∀ q ∈ x.unacked, ∀ ch tk, q.2 ≠ .chan ch tk
  (∀ (s : State) (l : LinkId) (m : Msg), (s.link l).st = .up → m.cls ≠ 0xF#4 →
    let out := Machine.exec (.messageForward l m) s
    let discarded : State := { s with fab := { s.fab with discarded := s.fab.discarded + 1 } }
    let group := 0x8000 ≤ m.dest.toNat ∧ m.dest.toNat < 0x8100
    let seen : State := { s with fab := { s.fab with seen := s.fab.seen ++ [(m.src, m.seq)] } }
    let on : Msg := { m with hops := m.hops + 1#4 }
    (0x8100 ≤ m.dest.toNat → m.dest.toNat < 0xFFFF → out = .next discarded) ∧
    (group → m.cls ≠ 4#4 → m.cls ≠ 5#4 → out = .next discarded) ∧
    (m.dest = 0xFFFF#16 → (m.cls ≠ 4#4 ∨ m.rsp = true) → out = .next s) ∧
    (m.dest = 0xFFFF#16 → m.cls = 4#4 → m.rsp = false → out = .next (s.push l
      { dest := 0xFFFF#16, src := s.deviceId, cls := 4#4, rsp := true, hops := 0#4, rwin := 0#6, seq := 0#16, epoch := 0#16, offset := 0#38,
        len := 0#8, data := List.replicate 16 0#8 })) ∧
    (m.dest = s.deviceId → m.dest.toNat < 0x8000 → out = .next s) ∧
    (m.dest.toNat < 0x8000 → m.dest ≠ s.deviceId → m.hops = 15#4 → out = .next discarded) ∧
    (m.dest.toNat < 0x8000 → m.dest ≠ s.deviceId → m.hops ≠ 15#4 →
      (∀ j, s.route m.dest = some j → out = .next (s.push j on)) ∧ (s.route m.dest = none → out = .next s)) ∧
    (group → (m.cls = 4#4 ∨ m.cls = 5#4) → m.dest ≠ s.deviceId → ((m.src, m.seq) ∈ s.fab.seen ∨ m.src = s.deviceId) → out = .next s) ∧
    (group → (m.cls = 4#4 ∨ m.cls = 5#4) → m.dest ≠ s.deviceId → (m.src, m.seq) ∉ s.fab.seen → m.src ≠ s.deviceId →
      (m.hops = 15#4 → out = .next { seen with fab := { seen.fab with discarded := s.fab.discarded + 1 } }) ∧
      (m.hops ≠ 15#4 → let ls := s.groupLinks (m.dest.setWidth 8)
        ∃ t, out = .next t ∧ sameCompute s t ∧ t.fab = seen.fab ∧ t.link l = s.link l ∧
        (∀ j, j ∉ ls ∨ (s.link j).st ≠ .up → t.link j = s.link j) ∧
        (∀ j ∈ ls, j ≠ l → ls.Nodup → s.takesMessages j = true → (s.link j).queue = [] → (s.link j).canSend j on = true → Out.message (some j) on ∈ t.out)))) ∧
  (∀ (s : State) (l : LinkId) (m : Msg), (s.link l).st ≠ .up ∨ m.cls = 0xF#4 → Machine.exec (.messageForward l m) s = .next s) ∧
  (∀ (s : State) (old new : BitVec 16),
    let out := Machine.exec (.redirectReceive old old new) s
    let others (t : State) := (∀ d, d ≠ old → t.redirected d = s.redirected d) ∧ (plain s → sameCompute s t)
    (old = new → ∃ t, out = .next t ∧ t.redirected old = old ∧ others t) ∧
    (old ≠ new → (∃ q ∈ s.rep.redirects, q.1 = old) ∨ s.rep.redirects.length < 256 → ∃ t, out = .next t ∧ t.redirected old = new ∧ others t) ∧
    (old ≠ new → (∀ q ∈ s.rep.redirects, q.1 ≠ old) → 256 ≤ s.rep.redirects.length →
      out = .next { s with rep := { s.rep with redirOver := s.rep.redirOver + 1 } }) ∧
    (∀ src, src ≠ old → Machine.exec (.redirectReceive src old new) s = .next s))

/-! ## Fabric time and sync groups (spec/12, 16:R703) -/

/-- Fabric time: one exchange a tick, asked for by a TIME message to the parent, gives the offset from the parent, corrected in one step before the first RUN when it is above 1 µs and by
slewing else; LOCKED, HOLDOVER and the parent in use (R542 to R547). Drydown: notices sent, held, and forgotten after 64 ticks, and the
level that the group runs at (R548 to R551, R703).
Rests on the model's choice or reading in log entries 74, 75, 76, 156, 174 and 176. -/
def Obligations.TimeAndDrydown : Prop :=
  ∀ s : State,
    -- time
    (∀ (x : TimeStamps) (l : LinkId), s.timeMaster = false → s.parentLink = some l → s.fab.timeTick ≠ some (s.xtal * 4 / 1953125) →
      let e : Int := ((x.t1 - x.t2) + (x.t4 - x.t3)) / 2
      let asked := s.push l { dest := 0xFFFF#16, src := s.deviceId, cls := 4#4, rsp := false, hops := 0#4, rwin := 0#6, seq := 0#16, epoch := 0#16,
                              offset := 0#38, len := 15#8, data := List.replicate 16 0#8 }
      let f := { s.fab with timeErr := e, timeLink := some l, holdover := false, noParent := none, locked := decide (e.natAbs ≤ 20),
                            timeTick := some (s.xtal * 4 / 1953125) }
      (s.boot.runSeen = false → 1000 < e.natAbs → let now := ((s.time : Int) - e).toNat
        Machine.exec (.timeExchange x) s = .next { asked with time := now, fab := { f with slew := 0 },
                                                              feeds := s.feeds.map (fun y => { y.account s.time with litAt := now }) }) ∧
      (s.boot.runSeen = true ∨ e.natAbs ≤ 1000 → Machine.exec (.timeExchange x) s = .next { asked with fab := { f with slew := -e } })) ∧
    (∀ x : TimeStamps, s.timeMaster = true ∨ s.parentLink = none ∨ s.fab.timeTick = some (s.xtal * 4 / 1953125) →
      Machine.exec (.timeExchange x) s = .next s) ∧
    (let usable (l : LinkId) := (s.link l).st = .up ∧ (l.val < 32 → (s.feed (feedOf l)).st ≠ .draining)
     (∀ (g : ImageSettings) (p : LinkId), s.settings = some g → g.parent = some p → usable p → s.parentLink = some p) ∧
     (∀ (g : ImageSettings) (p a : LinkId), s.settings = some g → g.parent = some p → ¬usable p → g.altParent = some a →
      (usable a → s.parentLink = some a) ∧ (¬usable a → s.parentLink = none))) ∧
    (∀ g, s.settings = some g → g.timeMaster = false →
      (∀ l, s.parentLink = some l → Machine.exec .timeParentLoss s = .next { s with fab := { s.fab with timeLink := some l, holdover := false, noParent := none } }) ∧
      (s.parentLink = none → Machine.exec .timeParentLoss s = .next { s with fab := { s.fab with
        timeLink := none, holdover := true, slew := 0, noParent := some (s.fab.noParent.getD s.xtal) } })) ∧
    (s.timeMaster = true ∨ s.settings = none → Machine.exec .timeParentLoss s = .next s) ∧
    (∀ a, s.fab.noParent = some a →
      (a + 1000000000 ≤ s.xtal → Machine.exec .timeLockLoss s = .next { s with fab := { s.fab with locked := false } }) ∧
      (s.xtal < a + 1000000000 → Machine.exec .timeLockLoss s = .next s)) ∧
    (s.fab.noParent = none → Machine.exec .timeLockLoss s = .next s) ∧
    -- notices: 16 ticks are 7,812,500 ns, 64 ticks 31,250,000 ns
    (s.groupAddr ≠ 0 → (s.fab.noticeLvl ≠ some s.localLevel ∨ s.fab.noticeAt + 7812500 ≤ s.xtal) →
      let q := s.fab.noticeSeq + 1#16
      let d := s.deviceId.toNat
      let m : Msg := { dest := BitVec.ofNat 16 s.groupAddr, src := s.deviceId, cls := 5#4, rsp := false, hops := 0#4, rwin := 0#6, seq := q,
                       epoch := 0#16, offset := 0#38, len := 15#8,
                       data := [BitVec.ofNat 8 d, BitVec.ofNat 8 (d / 256), s.localLevel.setWidth 8, 0#8, BitVec.ofNat 8 q.toNat,
                         BitVec.ofNat 8 (q.toNat / 256)] ++ List.replicate 10 0#8 }
      Machine.exec .drydownNoticeSend s =
        .next (({ s with fab := { s.fab with noticeSeq := q, noticeAt := s.xtal, noticeLvl := some s.localLevel } }).sendOn m
          (s.groupLinks (BitVec.ofNat 8 s.groupAddr)))) ∧
    (s.groupAddr = 0 ∨ s.fab.noticeLvl = some s.localLevel ∧ s.xtal < s.fab.noticeAt + 7812500 → Machine.exec .drydownNoticeSend s = .next s) ∧
    (∀ (sender : BitVec 16) (level : BitVec 3) (seq : BitVec 16),
      let out := Machine.exec (.drydownNoticeReceive sender level seq) s
      let member := ∃ g, s.settings = some g ∧ sender ∈ g.members
      (s.groupAddr ≠ 0 → sender ≠ s.deviceId → member →
        out = .next { s with fab := { s.fab with notices := s.fab.notices.filter (fun n => n.sender != sender) ++ [⟨sender, level, seq, s.xtal⟩] } }) ∧
      (s.groupAddr = 0 ∨ sender = s.deviceId ∨ ¬member → out = .next s)) ∧
    (∀ sender : BitVec 16, ∃ v, Machine.exec (.drydownNoticeExpiry sender) s = .next { s with fab := { s.fab with notices := v } } ∧
      ∀ n, n ∈ v ↔ n ∈ s.fab.notices ∧ (n.sender = sender → s.xtal < n.time + 31250000)) ∧
    -- the group level
    (s.gvalid = true → ∃ t, Machine.exec .groupLevelApply s = .next t ∧ sameCompute s t ∧ t.links = s.links ∧ t.fab.notices = s.fab.notices ∧
      t.fab.grpLevel.toNat ≤ s.localLevel.toNat ∧ (∀ n ∈ s.fab.notices, t.fab.grpLevel.toNat ≤ n.level.toNat) ∧
      (t.fab.grpLevel = s.localLevel ∧ t.fab.grpSource = s.deviceId ∨
        ∃ n ∈ s.fab.notices, n.level = t.fab.grpLevel ∧ n.sender = t.fab.grpSource) ∧
      -- down at once, up by one level a tick
      (s.pstate ≠ .off → s.pstate ≠ .quench → s.power.floorOn = false → s.power.stretched = false →
        let now := s.xtal * 4 / 1953125
        let up := s.power.level.toNat < t.fab.grpLevel.toNat ∧ s.power.rising = none
        (t.fab.grpLevel.toNat < s.power.level.toNat → t.power.level = t.fab.grpLevel ∧ t.power.rising = none) ∧
        (up → s.power.noRaise ≤ s.xtal → s.power.riseTick ≠ some now →
          (s.dataPlane = true → t.power.level = s.power.level ∧ t.power.rising.map Prod.fst = some (s.power.level + 1#3)) ∧
          (s.dataPlane = false → t.power.level = s.power.level + 1#3)) ∧
        (up → s.xtal < s.power.noRaise ∨ s.power.riseTick = some now → t.power.level = s.power.level ∧ t.power.rising = none) ∧
        (t.fab.grpLevel = s.power.level → t.power = s.power))) ∧
    (s.gvalid = false → Machine.exec .groupLevelApply s = .next s)

/-! ## Light sources (spec/13) -/

/-- The modules: presence, the wait for ModuleReady, acceptance and its reasons, the one SoftwareReset and recheck, removal, warming, the poll of
every tick, and the hourly update of page B1h (R560 to R567).
Rests on the model's choice or reading in log entries 78, 81 and 162. -/
def Obligations.LightModules : Prop :=
  ∀ (s : State) (k : FeedId),
    let f := s.feed k
    let others (t : State) := sameCompute s t ∧ (∀ j, j ≠ k → t.feed j = s.feed j) ∧ (∀ l, l ∉ feedGroup k → t.link l = s.link l)
    let page (n : Byte) := Out.moduleWrite k 127 [n]
    let leaves (t : State) (cause : BitVec 4) := ∀ l ∈ feedGroup k, t.link l = if (s.link l).st = .up then (s.link l).left cause .down s.xtal else s.link l
    (∀ m : Module,
      let listed := ∃ g, s.settings = some g ∧ (m.oui, m.part) ∈ g.modules
      let kind := m.ident = Config.elsfpIdent ∧ 1 ≤ m.pageVer.toNat
      let settled := m.responds = false ∨ m.fault = true ∨ m.modState = Config.moduleReady
      let reads := if m.responds then [page 0#8, page 0xB0#8, page 0xB1#8] else []
      let out := Machine.exec (.modulePresence k m) s
      let bad := m.responds = false ∨ kind ∧ listed ∧ m.fault = true
      let rejected (r : BitVec 4) := ∃ t, out = .next t ∧ others t ∧ (t.feed k).st = .rejected ∧ (t.feed k).reason = r ∧ (t.feed k).dark = true ∧
        (t.feed k).forecast = 0xFFFFFFFF#32 ∧ ∀ l ∈ feedGroup k, (t.link l).st ≠ .up ∧ (t.link l).st ≠ .train ∧ (t.link l).st ≠ .attest
      (f.st = .absent ∨ f.st = .check →
        (¬settled → ∃ t, out = .next t ∧ others t ∧ (t.feed k).st = .check ∧ (t.feed k).module = some m ∧ (t.feed k).dark = true ∧ t.links = s.links ∧
          t.out = s.out ++ reads) ∧
        (settled → ¬bad → kind → listed → ∃ t, out = .next t ∧ others t ∧ (t.feed k).st = .warming ∧
          (t.feed k).module = some m ∧ (t.feed k).dark = false ∧ (t.feed k).dead = 0#9 ∧ (t.feed k).warmAt = s.xtal ∧
          t.out = s.out ++ reads ++ [.moduleWrite k 26 [0#8]] ∧
          ∀ l ∈ feedGroup k, (t.link l).spare = false ∧ (t.link l).lost = 0#16 ∧ (t.link l).st = (s.link l).st) ∧
        (settled → m.responds = true → kind → ¬listed → rejected 1#4) ∧
        (settled → m.responds = true → ¬kind → rejected 2#4) ∧
        (bad → f.rechecked = true → rejected 3#4) ∧
        (bad → f.rechecked = false → ∃ t, out = .next t ∧ others t ∧ (t.feed k).st = .check ∧ (t.feed k).rechecked = true ∧
          t.out = s.out ++ reads ++ [.moduleWrite k 26 [0x18#8]] ∧ t.links = s.links)) ∧
      (f.st ≠ .absent → f.st ≠ .check → out = .next s)) ∧
    (f.st ≠ .absent → ∃ t, Machine.exec (.moduleRemoval k) s = .next t ∧ others t ∧ (t.feed k).st = .absent ∧ (t.feed k).module = none ∧
      (t.feed k).forecast = 0xFFFFFFFF#32 ∧ leaves t 1#4) ∧
    (f.st = .absent → Machine.exec (.moduleRemoval k) s = .next s) ∧
    (∀ (power : List Int) (ok : Bool), (f.module = none ∨ f.st ≠ .warming → Machine.exec (.moduleWarmingTimeout k power ok) s = .next s) ∧
      ∀ m, f.module = some m → f.st = .warming →
        let lit := ok = true ∧ ∀ j < 9, m.powerMin ≤ power.getD j 0
        (lit → ∃ t, Machine.exec (.moduleWarmingTimeout k power ok) s = .next t ∧ others t ∧ t.links = s.links ∧ (t.feed k).st = .on ∧
          (t.feed k).reason = 0#4) ∧
        (¬lit → f.warmAt + 2000000000 ≤ s.xtal → ∃ t, Machine.exec (.moduleWarmingTimeout k power ok) s = .next t ∧ others t ∧ (t.feed k).st = .rejected ∧
          (t.feed k).reason = 4#4 ∧ (t.feed k).dark = true) ∧
        (¬lit → s.xtal < f.warmAt + 2000000000 → Machine.exec (.moduleWarmingTimeout k power ok) s = .next s)) ∧
    (∀ (fault warn : Bool) (v : Int) (u : BitVec 16),
      let out := Machine.exec (.modulePoll k fault warn v u) s
      (f.module = none → out = .next s) ∧
      ∀ m, f.module = some m →
        (fault = false ∨ f.dark = true →
          out = .next { s with feeds := s.feeds.set k { f with module := some { m with tempC := v, fault := fault, warn := warn, supply := u } } }) ∧
        (fault = true → f.dark = false → f.rechecked = false → ∃ t, out = .next t ∧ others t ∧ (t.feed k).st = .check ∧
          (t.feed k).rechecked = true ∧ (t.feed k).dark = true ∧ leaves t 1#4) ∧
        (fault = true → f.dark = false → f.rechecked = true → ∃ t, out = .next t ∧ others t ∧ (t.feed k).st = .rejected ∧
          (t.feed k).reason = 3#4 ∧ (t.feed k).dark = true)) ∧
    (∀ bias : List Nat,
      let d := s.time - f.litAt
      let hour := 3600000000000
      let due := f.dark = false ∧ (f.st = .on ∨ f.st = .switching ∨ f.st = .draining) ∧ hour ≤ f.sinceNs + d
      (f.module = none ∨ ¬due → Machine.exec (.laserHourlyUpdate k bias) s = .next s) ∧
      ∀ m, f.module = some m → due →
        let lit (j : Nat) := if j < 9 then m.sel.getD j false = false ∧ f.dead.getLsbD j = false else m.sel.getD (j - 9) false = true ∧ f.dead.getLsbD (j - 9) = false
        ∃ t m', Machine.exec (.laserHourlyUpdate k bias) s = .next t ∧ others t ∧ t.links = s.links ∧ (t.feed k).module = some m' ∧
          m' = { m with laserHrs := m'.laserHrs, modHrs := m.modHrs + (f.modNs + d) / hour, bias := bias, lastDevice := s.deviceId, forecast := m'.forecast } ∧
          (t.feed k).modHrs = BitVec.ofNat 32 m'.modHrs ∧ (t.feed k).forecast = m'.forecast ∧ (t.feed k).sinceNs = f.sinceNs + d - hour ∧
          (∀ j < 18, (lit j → m'.laserHrs.getD j 0 = m.laserHrs.getD j 0 + (f.laserNs.getD j 0 + d) / hour ∧
              ((t.feed k).samples.getD j []).getLast? = some (m'.laserHrs.getD j 0, bias.getD j 0)) ∧
            (¬lit j → m'.laserHrs.getD j 0 = m.laserHrs.getD j 0 + f.laserNs.getD j 0 / hour ∧ (t.feed k).samples.getD j [] = f.samples.getD j [])) ∧
          (f.dead ≠ 0#9 → (t.feed k).forecast = 0#32) ∧ (t.feed k).forecast.toNat ≤ m.modRated - m'.modHrs ∧
          t.out = s.out ++ [page 0xB0#8, page 0xB1#8, .moduleWrite k 0xB180 (pageB1 m')])

/-- Spare lasers and rings. A worn primary starts a planned switch: the links that use the wavelength leave UP one after the other, then SEL is
written, then the spare meets its limits and every ring locks on its line, or the wavelength is DEAD after 1 s; an unplanned switch loses the lane
at once, and goes on in the same way when no link trains any more (R568 to R571). A lane lost takes its link down, with CAUSE 0x7 when too few lanes
are left, and one lost on all eight links starts a switch (R558, R559). SWAP drains a feed, or is refused with REASON 6 or 5, and CANCEL ends the
draining (R572 to R575).
Rests on the model's choice or reading in log entries 79, 80, 159 and 162. -/
def Obligations.LasersRingsAndSwap : Prop :=
  ∀ (s : State) (k : FeedId),
    let f := s.feed k
    let lit (g : Feed) := g.st = .on ∨ g.st = .switching
    (∀ (j : Fin 9) (bias : Nat) (power : Int) (ok : Bool) (m : Module), f.module = some m →
      let bit := BitVec.ofNat 9 (2 ^ j.val)
      let primary := m.sel.getD j.val false = false
      let uses (l : LinkId) := (s.link l).st = .up ∧ (s.link l).lanemap.getLsbD j.val = true
      let waits (planned : Bool) (x : Link) := x.cause = (if planned then 8#4 else 1#4) ∧ x.enoughLanes = true ∧ (x.st = .down ∨ x.st = .train ∨ x.st = .attest)
      let chosen (t : State) := (t.feed k).module.map (fun x => x.sel.getD j.val false) = some true
      let marked (t : State) := (∀ l ∈ feedGroup k, (t.link l).lost.getLsbD j.val = true) ∧ ∀ l, l ∉ feedGroup k → t.link l = s.link l
      let selOut := [Out.moduleWrite k 127 [0xB0#8], Out.moduleWrite k (0xB000 + 142 + j.val) [1#8]]
      let plan := Machine.exec (.plannedLaserSwitch k j bias power ok) s
      let fails := Machine.exec (.unplannedLaserSwitch k j ok) s
      let worn := m.biasEol ≤ bias ∨ power < m.powerMin
      -- planned (R568, R569): a switch goes on, or begins
      (∀ w : LaserSwitch, (f.switchOf j = some w ∧ lit f) ∨ (f.switchOf j = none ∧ f.st = .on ∧ primary ∧ worn ∧ w = ⟨j, true, none, []⟩) →
        (w.selAt = none → (∃ l ∈ feedGroup k, waits w.planned (s.link l)) →
          ∃ t, plan = .next t ∧ (t.feed k).switchOf j = some w ∧ t.links = s.links ∧ t.out = s.out ∧ sameCompute s t) ∧
        (w.selAt = none → (∀ l ∈ feedGroup k, ¬waits w.planned (s.link l)) → w.planned = true →
          ∀ l, (feedGroup k).find? (fun x => decide (uses x)) = some l → ∃ t, plan = .next t ∧ (t.feed k).switchOf j = some w ∧
            (t.link l).st = .down ∧ (t.link l).cause = 8#4 ∧ (t.link l).lost.getLsbD j.val = true ∧ otherLinks s t l ∧ sameCompute s t) ∧
        (w.selAt = none → (∀ l ∈ feedGroup k, ¬waits w.planned (s.link l)) → (w.planned = false ∨ ∀ l ∈ feedGroup k, ¬uses l) →
          ∃ t, plan = .next t ∧ (t.feed k).st = .switching ∧ (t.feed k).switchOf j = some { w with selAt := some s.xtal } ∧ chosen t ∧
            (t.feed k).dead = f.dead ∧ marked t ∧ t.out = s.out ++ selOut ∧ sameCompute s t) ∧
        (∀ t0, w.selAt = some t0 →
          (w.relock ≠ [] → plan = .next s) ∧
          (w.relock = [] → ok = true → ∃ t, plan = .next t ∧ (t.feed k).st = .switching ∧ (t.feed k).switchOf j = some { w with relock := feedGroup k } ∧
            t.links = s.links ∧ t.out = s.out ∧ sameCompute s t) ∧
          (w.relock = [] → ok = false → t0 + 1000000000 ≤ s.xtal → ∃ t, plan = .next t ∧ (t.feed k).dead = f.dead ||| bit ∧ (t.feed k).switchOf j = none ∧
            (f.st = .switching → (∀ x ∈ f.sws, x.lane = j) → (t.feed k).st = .on) ∧ t.links = s.links ∧ sameCompute s t) ∧
          (w.relock = [] → ok = false → s.xtal < t0 + 1000000000 → plan = .next s))) ∧
      (f.switchOf j = none → f.st = .on → primary → ¬worn → plan = .next { s with feeds := s.feeds.set k { f with
        module := some { m with bias := m.bias.set j.val bias, power := m.power.set j.val power } } }) ∧
      (f.switchOf j = none → f.st ≠ .on ∨ ¬primary → plan = .next s) ∧
      (¬lit f → f.switchOf j ≠ none → plan = .next s) ∧
      -- unplanned (R570, R571)
      (¬lit f → fails = .next s) ∧
      (lit f → ∀ w, f.switchOf j = some w → w.selAt ≠ none → fails = plan) ∧
      (lit f → (∀ w, f.switchOf j = some w → w.selAt = none) → ∃ t, fails = .next t ∧ sameCompute s t ∧ marked t ∧
        (∀ l ∈ feedGroup k, (uses l → (t.link l).st = .down) ∧ ((s.link l).lanemap.getLsbD j.val = false → (t.link l).st = (s.link l).st)) ∧
        (f.switchOf j = none → ¬primary → (t.feed k).switchOf j = none ∧ (t.feed k).dead = f.dead ||| bit) ∧
        (∀ v : LaserSwitch, (f.switchOf j = none ∧ primary ∧ v = ⟨j, false, none, []⟩) ∨ (∃ w, f.switchOf j = some w ∧ v = { w with planned := false }) →
          (t.feed k).st = .switching ∧ (t.feed k).dead = f.dead ∧
          ((∃ l ∈ feedGroup k, waits false (t.link l)) → (t.feed k).switchOf j = some v) ∧
          ((∀ l ∈ feedGroup k, ¬waits false (t.link l)) → (t.feed k).switchOf j = some { v with selAt := some s.xtal } ∧ chosen t)))) ∧
    -- rings (R554, R558, R559)
    (∀ (l : LinkId) (j : Fin 9) (rx : Bool),
      let x := s.link l
      let g := s.feed (feedOf l)
      let bit := BitVec.ofNat 16 (2 ^ j.val)
      let lost := if rx then { x with lostRx := x.lostRx ||| bit } else { x with lost := x.lost ||| bit }
      let locks := Machine.exec (.ringLock l j rx) s
      let out := Machine.exec (.ringLockLoss l j rx) s
      let owed (w : LaserSwitch) := g.switchOf j = some w ∧ l ∈ w.relock
      let starts := rx = false ∧ lit g ∧ g.spares.getD j.val false = false ∧ g.switchOf j = none ∧
        ∀ h ∈ feedGroup (feedOf l), h ≠ l → (s.link h).lost.getLsbD j.val = true
      (32 ≤ l.val → locks = .next s ∧ out = .next s) ∧
      (l.val < 32 → (rx = true → locks = .next (s.setLink l { x with lostRx := x.lostRx &&& ~~~bit })) ∧
        (rx = false → g.dark = false → (∀ w, ¬owed w) → locks = .next (s.setLink l { x with lost := x.lost &&& ~~~bit })) ∧
        -- the last ring that locks on the spare's line ends the switch
        (rx = false → g.dark = false → ∀ w, owed w → ∃ t, locks = .next t ∧ sameCompute s t ∧ otherLinks s t l ∧
          t.link l = { x with lost := x.lost &&& ~~~bit } ∧
          ((∀ h ∈ w.relock, h = l) → (t.feed (feedOf l)).switchOf j = none ∧ (g.st = .switching → (∀ y ∈ g.sws, y.lane = j) → (t.feed (feedOf l)).st = .on)) ∧
          (∀ h ∈ w.relock, h ≠ l → (t.feed (feedOf l)).switchOf j = some { w with relock := w.relock.filter (fun y => y != l) })) ∧
        (rx = false → g.dark = true → locks = .next s)) ∧
      (l.val < 32 → ¬starts → (rx = true ∨ ∀ w, ¬owed w) → x.lanemap.getLsbD j.val = false ∨ (x.st ≠ .up ∧ x.st ≠ .attest) → out = .next (s.setLink l lost)) ∧
      (l.val < 32 → ∃ t, out = .next t ∧ sameCompute s t ∧ otherLinks s t l ∧ (t.link l).lost = lost.lost ∧ (t.link l).lostRx = lost.lostRx ∧
        (x.lanemap.getLsbD j.val = true → x.st = .up → (t.link l).st = .down ∧
          ((∀ h : Fin 9, h ≠ j → (x.lost ||| x.lostRx).getLsbD h.val = false) → (t.link l).cause = 1#4) ∧
          (∀ h : Fin 9, h ≠ j → (x.lost ||| x.lostRx).getLsbD h.val = true → (t.link l).cause = 7#4)) ∧
        (x.lanemap.getLsbD j.val = true → x.st = .attest → t.link l = { lost.cleared with st := .down }) ∧
        (starts → (t.feed (feedOf l)).st = .switching ∧ (t.feed (feedOf l)).switchOf j = some ⟨j, false, none, []⟩))) ∧
    -- SWAP and CANCEL (R572 to R575)
    (let busy := f.st = .switching ∨ ∃ j, j ≠ k ∧ ((s.feed j).st = .draining ∨ (s.feed j).st = .switching ∨ (s.feed j).st = .warming)
     let strands := ∃ g, s.settings = some g ∧ ∃ r ∈ g.routes, ∀ l ∈ r.links, (s.link l).st ≠ .up ∨ l ∈ feedGroup k
     (busy → ∃ t, Machine.exec (.swap k) s = .next t ∧ t.feed k = { f with reason := 6#4 } ∧ t.links = s.links ∧ sameCompute s t) ∧
     (¬busy → strands → ∃ t, Machine.exec (.swap k) s = .next t ∧ t.feed k = { f with reason := 5#4 } ∧ t.links = s.links ∧ sameCompute s t) ∧
     (¬busy → ¬strands → f.st ≠ .on → Machine.exec (.swap k) s = .next s) ∧
     (¬busy → ¬strands → f.st = .on → (∀ l ∈ feedGroup k, (s.link l).queue = [] ∧ (s.link l).unacked = []) →
       ∃ t, Machine.exec (.swap k) s = .next t ∧ (t.feed k).st = .removable ∧ (t.feed k).dark = true ∧
         (∀ l ∈ feedGroup k, (t.link l).st ≠ .up ∧ (t.link l).st ≠ .train ∧ (t.link l).st ≠ .attest ∧ ((s.link l).st = .up → (t.link l).cause = 8#4)) ∧
         (∀ l, l ∉ feedGroup k → t.link l = s.link l) ∧ sameCompute s t) ∧
     (¬busy → ¬strands → f.st = .on → ∀ l ∈ feedGroup k, (s.link l).st = .up → (s.link l).unacked ≠ [] → (∀ x ∈ feedGroup k, (s.link x).queue = []) →
       ∃ t, Machine.exec (.swap k) s = .next t ∧ (t.feed k).st = .draining ∧ (t.feed k).swapBit = true ∧ (t.link l).st = .up ∧ sameCompute s t)) ∧
    (f.st = .draining → ∃ t, Machine.exec (.cancel k) s = .next t ∧ t.feed k = { f with st := .on, swapBit := false, cancelBit := true } ∧
      t.links = s.links ∧ sameCompute s t) ∧
    (f.st ≠ .draining → Machine.exec (.cancel k) s = .next s)


/-! ## Command queues and commands (spec/15) -/

/-- The registers of a queue, the reading of a command with its checks, and its completion: journal, completion record, interrupt
(R613 to R626, R655 to R660).
Rests on the model's choice or reading in log entries 2, 91 and 160. -/
def Obligations.QueueProtocol : Prop :=
  ∀ (s : State) (q : QueueId),
    let x := s.queue q
    -- doorbell (R615)
    (∀ v : BitVec 32, let t : BitVec 17 := v.setWidth 17
      (x.en = true → v.toNat < 2 ^ 17 → (t - x.head).toNat ≤ 2 ^ x.log2n.toNat → Machine.exec (.doorbellWrite q v) s = .next (s.setQueue q { x with tail := t })) ∧
      (x.en = false ∨ 2 ^ 17 ≤ v.toNat ∨ 2 ^ x.log2n.toNat < (t - x.head).toNat →
        Machine.exec (.doorbellWrite q v) s = .next (s.setQueue q { x with dberr := true }))) ∧
    -- CQ_CTRL (R614, 19:R779)
    (∀ v : Word,
      let n : BitVec 5 := (v >>> 8).setWidth 5
      let out := Machine.exec (.cqCtrlWrite q v) s
      (v.getLsbD 0 = false ∨ s.hostOpen = true → ∃ t, out = .next t ∧ sameMachine s t ∧ otherQueues s t q ∧ t.journal = s.journal ∧
        let y := if x.en = true ∨ x.cur ≠ none then x else { x with
          pasid := (v >>> 24).setWidth 20, vec := (v >>> 16).setWidth 8, log2n := if 4 ≤ n.toNat ∧ n.toNat ≤ 16 then n else x.log2n }
        t.queue q = if v.getLsbD 0 = true ∧ x.en = false then { y with en := true, head := 0#17, tail := 0#17 } else { y with en := v.getLsbD 0 }) ∧
      (v.getLsbD 0 = true → s.hostOpen = false → out = .next s)) ∧
    -- reading a command (R616, R619, R620, R622, R655 to R659)
    (∀ e : CmdEntry, x.en = true → x.cur = none → x.tail ≠ x.head → s.slotBusy = false → s.hostOpen = true →
      let opc := bitsN e.w0.toNat 56 8
      let count := bitsN e.w0.toNat 0 32
      ∃ t f g, Machine.exec (.commandRead q e) s = .next t ∧ otherQueues s t q ∧ t.cores = s.cores ∧ t.hbm = s.hbm ∧
        t.out = s.out ++ [.hostRead none false (x.addr.toNat * 4096 + 64 * (x.head.toNat % 2 ^ x.log2n.toNat)) 64] ∧
        t.queue q = { x with head := x.head + 1#17, cur := some f } ∧ f.entry = e ∧ f.seq = s.journal.tail ∧ f.started = false ∧
        t.journal = s.journal.add g ∧ g.seq = s.journal.tail ∧ g.tAccept = natW s.time ∧ g.pasid = x.pasid ∧
        -- the entry of a refused command takes its times in the same update (R660)
        (f.done = none ∨ f.done = some (0#64, 0#64) → g.phase = .accepted) ∧
        (∀ st, f.done = some (st, 0#64) → st ≠ 0#64 → g.phase = .completed ∧ g.status = st ∧ g.tStart = natW s.time ∧ g.tDone = natW s.time) ∧
        g.queue = BitVec.ofNat 6 q.val ∧ g.dev = false ∧ g.kind = (if 1 ≤ opc ∧ opc ≤ 0x0A then BitVec.ofNat 5 opc else 0#5) ∧
        (opc = 0 ∨ 0x0A < opc → f.done = some (0x0102000000000000#64, 0#64)) ∧
        (1 ≤ opc → opc ≤ 0x0A → bitsN e.w0.toNat 32 8 ≠ 0 ∨ e.w4 ≠ 0#64 ∨ e.w5 ≠ 0#64 ∨ (opc ≠ 9 ∧ bitsN e.w0.toNat 40 8 ≠ 0) →
          f.done = some (0x0101000000000000#64, 0#64)) ∧
        (cmdReason e = 0 → s.safeHold = true → opc ≠ 9 → f.done = some (0x0103000000000000#64, 0#64)) ∧
        (cmdReason e = 0 → s.safeHold = false → (opc = 1 ∨ opc = 2 ∨ (opc = 3 ∧ e.w1.toNat % 64 = 0) ∨ opc = 6) → count = 0 → f.done = some (0#64, 0#64)) ∧
        (cmdReason e = 0 → s.safeHold = false → opc = 3 → count = 0 → e.w1.toNat % 64 ≠ 0 → f.done = some (0x010B000000000000#64, 0#64)) ∧
        (cmdReason e = 0 → s.safeHold = false → (opc = 1 ∨ opc = 6) → count ≠ 0 → (s.ctx x.pasid).isSome = true →
          f.done = some (0x0103000000000000#64, 0#64) ∧ t.ctxs = s.ctxs) ∧
        (cmdReason e = 0 → s.safeHold = false → (opc = 1 ∨ opc = 6) → count ≠ 0 → s.ctx x.pasid = none →
          f.done = none ∧ ∃ c, t.ctx x.pasid = some c ∧ c.loading = true ∧ c.st = (if opc = 1 then .loaded else .paused)) ∧
        (cmdReason e = 0 → s.safeHold = false → (opc = 2 ∨ opc = 3) → count ≠ 0 → f.done = none ∧ t.ctxs = s.ctxs) ∧
        (cmdReason e = 0 → s.safeHold = false → (opc = 5 ∨ opc = 7 ∨ opc = 8 ∨ opc = 9) → f.done = none ∧ t.ctxs = s.ctxs) ∧
        (cmdReason e = 0 → s.safeHold = false → opc = 4 →
          f.done = (if count = 0 ∧ e.w0.getLsbD 49 = false then some (0#64, 0#64) else none) ∧ t.ctxs = s.ctxs) ∧
        (cmdReason e = 0 → s.safeHold = false → opc = 0x0A → f.done = (if e.w2 = 0#64 then some (0#64, 0#64) else none) ∧ t.ctxs = s.ctxs)) ∧
    (∀ e, x.en = false ∨ x.cur ≠ none ∨ x.tail = x.head ∨ s.slotBusy = true ∨ s.hostOpen = false → Machine.exec (.commandRead q e) s = .next s) ∧
    -- completion (R623, R624, R660)
    (∀ f st r2 reach, x.cur = some f → f.done = some (st, r2) → (f.entry.w6 = 0#64 ∨ s.hostOpen = true) →
      let record := wordsBytes [f.seq, st, r2, f.entry.w7]
      let lost := f.entry.w6 ≠ 0#64 ∧ reach = false
      let u := if f.entry.w6 = 0#64 then s else if reach then s.cmdWrite x.pasid f.entry.w6.toNat record else s.unreachedAt q f.entry.w6 true false
      ∃ t, Machine.exec (.commandComplete q reach) s = .next t ∧ (s.ats = false ∨ f.entry.w6 = 0#64 → sameMachine s t) ∧ t.cores = s.cores ∧ t.ctxs = s.ctxs ∧ t.hbm = s.hbm ∧
        t.queue q = { x with cur := none } ∧ otherQueues s t q ∧
        t.out = u.out ++ (if f.entry.w0.getLsbD 48 = true then [.msix x.vec] else []) ∧
        t.journal.tail = s.journal.tail ∧ (∀ n, n ≠ f.seq → t.jentry n = s.jentry n) ∧
        (∀ g, s.jentry f.seq = some g → t.jentry f.seq = some (if g.phase = .completed then g else { g with
          phase := .completed, status := if lost then statusWord 7 0 0 0 else st, tDone := natW s.time,
          tStart := if g.phase = .accepted then natW s.time else g.tStart }))) ∧
    (∀ f st r2 reach, x.cur = some f → f.done = some (st, r2) → f.entry.w6 ≠ 0#64 → s.hostOpen = false →
      Machine.exec (.commandComplete q reach) s = .next s) ∧
    (∀ reach, x.cur = none → Machine.exec (.commandComplete q reach) s = .next s) ∧
    (∀ f reach, x.cur = some f → f.started = false → f.done = none → Machine.exec (.commandComplete q reach) s = .next s) ∧
    -- the host accesses of a command, untranslated when ATS is off (R621, 11:R489)
    (∀ (p : Pasid) (a : Nat) (bs : List Byte), s.ats = false → 0 < bs.length → a % 4096 + bs.length ≤ 4096 →
      s.cmdWrite p a bs = s.emit (.hostWrite (some p) false a bs)) ∧
    (∀ (p : Pasid) (a n : Nat), s.ats = false → 0 < n → a % 4096 + n ≤ 4096 → s.cmdRead p a n = s.emit (.hostRead (some p) false a n))

/-- The commands that work on a resident context: SIGNAL, DMA, QUERY, FENCE, LOAD, RUN and the end of a RUN (R629, R634 to R642, R646,
R647, R653, R654).
Rests on the model's choice or reading in log entries 93, 94, 96, 97 and 160. -/
def Obligations.CommandsOfAContext : Prop :=
  ∀ (s : State) (q : QueueId) (f : Flight), s.flight q = some f → f.done = none → f.started = false →
    let p := (s.queue q).pasid
    let opc := bitsN f.entry.w0.toNat 56 8
    let count := bitsN f.entry.w0.toNat 0 32
    let sub := bitsN f.entry.w0.toNat 40 8
    let kept (t : State) := sameMachine s t ∧ otherQueues s t q
    let refused (o : Host.Outcome State Fault Refusal) (reason resource : Nat) := ∃ t, o = .next t ∧ kept t ∧ doneWith t q (statusWord 1 reason resource 0) 0#64
    let late (o : Host.Outcome State Fault Refusal) := ∃ t, o = .next t ∧ otherQueues s t q ∧ t.cores = s.cores ∧ t.hbm = s.hbm ∧ t.ctxs = s.ctxs ∧
      (s.ats = false → sameMachine s t) ∧ doneWith t q (statusWord 7 0 0 0) 0#64
    -- QUERY (R653)
    (opc = 9 → sub = 0 → ∃ t r, Machine.exec (.queryState q) s = .next t ∧ kept t ∧ doneWith t q 0#64 r ∧ (s.ctx p = none → r = 0#64) ∧
      (∀ x, s.ctx p = some x → bitsN r.toNat 0 2 = (match x.st with | .loaded => 1 | .running => 2 | .paused => 3) ∧ bitsN r.toNat 32 32 = x.mask.toNat)) ∧
    (opc = 9 → sub = 1 → s.hostOpen = true → ∀ x, s.ctx p = some x → Machine.exec (.queryCounters q true) s =
      .next (((s.begin_ q).cmdWrite p f.entry.w2.toNat (wordsBytes x.counters.toList)).finish q 0#64 0#64)) ∧
    (opc = 9 → sub = 1 → s.hostOpen = true → s.ctx p = none → ∃ t u bs, Machine.exec (.queryCounters q true) s = .next t ∧ otherQueues s t q ∧ t.cores = s.cores ∧ t.ctxs = s.ctxs ∧ (s.ats = false → kept t) ∧ doneWith t q 0#64 0#64 ∧
      sameMachine s u ∧ u.out = s.out ∧ bs.length = 2048 ∧ t.out = ((u.begin_ q).cmdWrite p f.entry.w2.toNat bs).out) ∧
    (opc = 9 → sub = 1 → s.hostOpen = true → late (Machine.exec (.queryCounters q false) s)) ∧
    (opc = 9 → sub = 2 → s.hostOpen = true → ∀ (e : CmdEntry) (k : Nat), (s.sec.jkeys.find? (fun y => y.1 == p)) = some (p, k) →
      Machine.exec (.queryDigest q (some e) true) s = .next ((((s.begin_ q).cmdRead p f.entry.w1.toNat 64).cmdWrite p f.entry.w2.toNat
        (leBytes 16 (Config.cmac k [e.w0, e.w1, e.w2, e.w3, e.w4, e.w5, e.w6, e.w7]).toNat)).finish q 0#64 0#64)) ∧
    (opc = 9 → sub = 2 → s.hostOpen = true → ∀ e : CmdEntry, (s.sec.jkeys.find? (fun y => y.1 == p)) = none →
      ∃ t, Machine.exec (.queryDigest q (some e) true) s = .next t ∧ otherQueues s t q ∧ t.cores = s.cores ∧ t.ctxs = s.ctxs ∧ (s.ats = false → kept t) ∧ doneWith t q 0#64 0#64 ∧ t.sec.jkeys = s.sec.jkeys ++ [(p, s.keys + 1)]) ∧
    (opc = 9 → sub = 2 → s.hostOpen = true → (∀ e, late (Machine.exec (.queryDigest q (some e) false) s)) ∧
      ∀ reach, late (Machine.exec (.queryDigest q none reach) s)) ∧
    (s.hostOpen = false → ∀ e reach, Machine.exec (.queryCounters q reach) s = .next s ∧ Machine.exec (.queryDigest q e reach) s = .next s) ∧
    (opc = 9 → sub = 3 → ∃ t r, Machine.exec (.queryFree q) s = .next t ∧ kept t ∧ doneWith t q 0#64 r ∧
      (∀ i < 32, r.getLsbD i = s.ctxs.all (fun x => !x.mask.getLsbD i)) ∧
      bitsN r.toNat 32 8 = ((List.range 64).filter (fun w => s.ctxs.all (fun x => x.ins.all (fun i => i.win.toNat != w)))).length ∧
      bitsN r.toNat 40 8 = (s.chans.toList.filter (fun c => c.owner == none)).length) ∧
    -- FENCE (R654)
    (opc = 0x0A → (∀ n ∈ f.fence, ∀ j g, s.flight j = some g → g.seq ≠ n) → ∃ t, Machine.exec (.fence q) s = .next t ∧ kept t ∧ doneWith t q 0#64 0#64) ∧
    (opc = 0x0A → (∃ n ∈ f.fence, ∃ j g, s.flight j = some g ∧ g.seq = n) → ∃ t, Machine.exec (.fence q) s = .next t ∧ kept t ∧ underWay t q) ∧
    -- SIGNAL (R647)
    (opc = 4 → s.cmdCtx q = none → refused (Machine.exec (.signal q) s) 3 0) ∧
    (∀ x, opc = 4 → s.cmdCtx q = some x → 2 ^ 30 ≤ count → refused (Machine.exec (.signal q) s) 0x0B 0) ∧
    (∀ x, opc = 4 → s.cmdCtx q = some x → count < 2 ^ 30 → s.dataPlane = false → Machine.exec (.signal q) s = .next s) ∧
    (∀ x, opc = 4 → s.cmdCtx q = some x → count < 2 ^ 30 → s.dataPlane = true →
      let n := (f.entry.w2.setWidth 8).toNat
      let v := x.counters.toList.getD n 0#64 + natW count
      ∃ t, Machine.exec (.signal q) s = .next t ∧ t.cores = s.cores ∧ t.hbm = s.hbm ∧ t.chans = s.chans ∧ otherQueues s t q ∧ t.pstate = .run ∧
        t.cmdCtx q = some { x with counters := x.counters.set! n v } ∧
        (f.entry.w0.getLsbD 49 = false ∨ f.entry.w3.toNat ≤ v.toNat → doneWith t q (natW (v.toNat % 2 ^ 32)) 0#64) ∧
        (f.entry.w0.getLsbD 49 = true → v.toNat < f.entry.w3.toNat → underWay t q)) ∧
    -- DMA (R646)
    (opc = 3 → s.cmdCtx q = none → ∀ d, refused (Machine.exec (.dma q d) s) 3 0) ∧
    (∀ x d, opc = 3 → s.cmdCtx q = some x → (65536 < count ∨ f.entry.w1.toNat % 64 ≠ 0) → refused (Machine.exec (.dma q d) s) 0x0B 0) ∧
    (∀ x d, opc = 3 → s.cmdCtx q = some x → count ≤ 65536 → f.entry.w1.toNat % 64 = 0 →
      (s.chan (Fin.ofNat 128 f.entry.w2.toNat)).owner ≠ some x.pasid → refused (Machine.exec (.dma q d) s) 0x0A 0) ∧
    (∀ x bs, opc = 3 → s.cmdCtx q = some x → 0 < count → count ≤ 16 → f.entry.w1.toNat % 64 = 0 → s.dataPlane = true → s.hostOpen = true →
      let ch : ChanId := Fin.ofNat 128 f.entry.w2.toNat
      (s.chan ch).owner = some x.pasid → (s.chan ch).queue = [] → bs.length = 64 * count →
      ∃ t, Machine.exec (.dma q (some bs)) s = .next t ∧ underWay t q ∧ otherQueues s t q ∧ t.cores = s.cores ∧ t.hbm = s.hbm ∧ t.ctxs = s.ctxs ∧
        (∀ j, j ≠ ch → t.chan j = s.chan j) ∧ (t.chan ch).ticket = (s.chan ch).ticket + BitVec.ofNat 32 count ∧
        (t.chan ch).queue.length = count ∧ (∀ j < count, ∃ d, (t.chan ch).queue[j]? = some d ∧ d.words = descWords (bs.drop (64 * j)) ∧
          d.queue = some q ∧ d.core = none ∧ d.ticket = (s.chan ch).ticket + BitVec.ofNat 32 (j + 1))) ∧
    (∀ x, opc = 3 → s.cmdCtx q = some x → count ≤ 65536 → f.entry.w1.toNat % 64 = 0 → s.dataPlane = true → s.hostOpen = true →
      (s.chan (Fin.ofNat 128 f.entry.w2.toNat)).owner = some x.pasid → late (Machine.exec (.dma q none) s)) ∧
    (∀ x d, opc = 3 → s.cmdCtx q = some x → count ≤ 65536 → f.entry.w1.toNat % 64 = 0 → (s.dataPlane = false ∨ s.hostOpen = false) →
      (s.chan (Fin.ofNat 128 f.entry.w2.toNat)).owner = some x.pasid → Machine.exec (.dma q d) s = .next s) ∧
    -- LOAD (R634 to R636)
    (∀ l key pages bs, opc = 1 → s.admitting f.seq = false → s.dataPlane = true → s.hostOpen = true → bs.length = count → (s.ctx p).isSome = true →
      parseLoadable bs count = some l → s.admission p l pages = none → key = s.keys + 1 →
      ∃ t r, Machine.exec (.load q ⟨some bs, pages⟩) s = .next t ∧ doneWith t q 0#64 r ∧ otherQueues s t q ∧ t.hbm = s.hbm ∧ t.keys = key ∧
        t.ctx p = some (l.context p .loaded key) ∧ (∀ ch ∈ l.chans, (t.chan ch).owner = some p ∧ (t.chan ch).ticket = 0#32 ∧ (t.chan ch).done = 0#32) ∧
        (∀ ch, ch ∉ l.chans → t.chan ch = s.chan ch) ∧ (∀ c, l.mask.getLsbD c.val = true → (t.core c).regions = (l.context p .loaded key).regionsOf c) ∧
        (∀ c : CoreId, l.mask.getLsbD c.val = false → (∀ y ∈ l.table, coreOf y.core ≠ c) → t.core c = s.core c) ∧
        (∀ y, l.of 1 = [y] → (s.core (coreOf y.core)).badImem = [] → ∀ o, o < y.c.toNat → (t.core (coreOf y.core)).imem.get (y.a.toNat + o) = bs.getD (y.b.toNat + o) 0#8) ∧
        (∀ c, l.mask.getLsbD c.val = true → ∀ o < 0x10000, (t.core c).imem.get (0xF0000 + o) = Config.residentCode.toList.getD o 0#8)) ∧
    (∀ pages bs, opc = 1 → s.admitting f.seq = false → s.dataPlane = true → s.hostOpen = true → bs.length = count → parseLoadable bs count = none →
      ∃ t, Machine.exec (.load q ⟨some bs, pages⟩) s = .next t ∧ doneWith t q (statusWord 1 4 0 0) 0#64 ∧ t.ctx p = none ∧ t.cores = s.cores) ∧
    (∀ l pages bs r res, opc = 1 → s.admitting f.seq = false → s.dataPlane = true → s.hostOpen = true → bs.length = count → parseLoadable bs count = some l →
      s.admission p l pages = some (r, res) → ∃ t, Machine.exec (.load q ⟨some bs, pages⟩) s = .next t ∧ doneWith t q (statusWord 1 r res 0) 0#64 ∧
        t.ctx p = none ∧ t.cores = s.cores ∧ t.chans = s.chans) ∧
    (∀ pages, opc = 1 → s.admitting f.seq = false → s.dataPlane = true → s.hostOpen = true →
      ∃ t, Machine.exec (.load q ⟨none, pages⟩) s = .next t ∧ doneWith t q (statusWord 7 0 0 0) 0#64 ∧ t.ctx p = none ∧ t.cores = s.cores) ∧
    (∀ g, opc = 1 → (s.admitting f.seq = true ∨ s.dataPlane = false ∨ s.hostOpen = false) → Machine.exec (.load q g) s = .next s) ∧
    -- RUN (R638 to R641)
    (opc = 2 → (s.cmdCtx q = none ∨ ∃ x, s.cmdCtx q = some x ∧ x.st = .running) → refused (Machine.exec (.run q) s) 3 0) ∧
    (∀ x, opc = 2 → s.cmdCtx q = some x → x.st = .loaded → f.entry.w0.getLsbD 49 = true → refused (Machine.exec (.run q) s) 3 0) ∧
    (∀ x, opc = 2 → s.cmdCtx q = some x → x.st ≠ .running → f.entry.w0.getLsbD 49 = false → BitVec.ofNat 32 count &&& ~~~x.mask ≠ 0#32 →
      refused (Machine.exec (.run q) s) 0x0B 0) ∧
    (∀ x, opc = 2 → s.cmdCtx q = some x → x.st ≠ .running → f.entry.w0.getLsbD 49 = false → BitVec.ofNat 32 count &&& ~~~x.mask = 0#32 → s.dataPlane = true →
      ∃ t y, Machine.exec (.run q) s = .next t ∧ underWay t q ∧ otherQueues s t q ∧ t.hbm = s.hbm ∧ t.boot.runSeen = true ∧ t.cmdCtx q = some y ∧
        y.st = .running ∧ y.pausedRun = none ∧ y.run = some ⟨some q, f.seq, BitVec.ofNat 32 count, []⟩ ∧ y.counters = x.counters ∧ ∀ c : CoreId,
          ((BitVec.ofNat 32 count).getLsbD c.val = false → t.core c = s.core c ∧ t.gated.getLsbD c.val = s.gated.getLsbD c.val) ∧
          ((BitVec.ofNat 32 count).getLsbD c.val = true → let k := t.core c
            t.gated.getLsbD c.val = false ∧ k.pc = x.entry ∧ k.tlvl = ⟨false, true, 1#2, .kernel⟩ ∧ k.spK = 0x3EC00#64 ∧ k.spR = 0x3F800#64 ∧
            k.spF = 0x3FC00#64 ∧ k.gregs = Vector.replicate 30 0#64 ∧ k.halted = false ∧ k.active = true ∧ k.spint = x.spintUs.setWidth 16 ∧
            k.seed = #v[f.entry.w1.setWidth 32, (f.entry.w1 >>> 32).setWidth 32, f.entry.w2.setWidth 32, (f.entry.w2 >>> 32).setWidth 32] ∧
            k.imem = (s.core c).imem ∧ k.dmem = (s.core c).dmem ∧ k.spad = (s.core c).spad ∧ k.ckpt.map Checkpoint.pc = some x.entry)) ∧
    (∀ x r, opc = 2 → s.cmdCtx q = some x → x.st = .paused → x.pausedRun = some r → f.entry.w0.getLsbD 49 = true → r.cores = BitVec.ofNat 32 count →
      s.dataPlane = true → ∃ t y, Machine.exec (.run q) s = .next t ∧ underWay t q ∧ t.cmdCtx q = some y ∧ y.st = .running ∧ y.pausedRun = none ∧
        y.run = some ⟨some q, f.seq, r.cores, r.exits⟩ ∧ ∀ (c : CoreId) (k : Checkpoint), r.cores.getLsbD c.val = true → (∀ e ∈ r.exits, e.1 ≠ c) →
          (s.core c).ckpt = some k → (t.core c).pc = k.pc ∧ (t.core c).gregs = k.gregs ∧ (t.core c).dmem = k.dmem ∧ (t.core c).vregs = k.vregs ∧
            t.gated.getLsbD c.val = false ∧ ∀ ch ∈ x.chans, (t.chan ch).prefetch = true) ∧
    (∀ x r, opc = 2 → s.cmdCtx q = some x → x.st = .paused → x.pausedRun = some r → f.entry.w0.getLsbD 49 = true → r.cores ≠ BitVec.ofNat 32 count →
      refused (Machine.exec (.run q) s) 0x0B 0) ∧
    (∀ x, opc = 2 → s.cmdCtx q = some x → runReason (some x) f.entry = 0 → s.dataPlane = false → Machine.exec (.run q) s = .next s)

/-- A RUN completes once every core of it has ended and their descriptors have completed; its RESULT counts the signal errors and RESULT2
is the first exit value that is not 0 (R642, R591).
Rests on the model's choice or reading in log entries 98 and 101. -/
def Obligations.RunCompletes : Prop :=
  ∀ (s : State) (q : QueueId) (f : Flight) (x : Context) (r : RunRec), s.flight q = some f → f.done = none → s.cmdCtx q = some x → x.run = some r →
    (∀ y ∈ s.ctxs, y.pasid = x.pasid → y = x) →
    let ended := ∀ c, r.cores.getLsbD c.val = true → (∃ e ∈ r.exits, e.1 = c) ∧ s.ownDescs c = []
    (ended → (r.queue = some q ∨ r.queue = none) → (∀ c, r.cores.getLsbD c.val = true → (s.core c).posts = []) →
      ∃ t r2, Machine.exec (.runComplete q) s = .next t ∧ (r.queue = some q → doneWith t q (statusWord 0 0 0 x.sigErrs.toNat) r2) ∧
        (r.queue = none → t.queues = s.queues) ∧ otherQueues s t q ∧ t.cores = s.cores ∧
        t.chans = s.chans ∧ t.hbm = s.hbm ∧ t.journal = s.journal ∧ t.cmdCtx q = some { x with st := .loaded, run := none } ∧
        ((∀ e ∈ r.exits, e.2 = 0#64) → r2 = 0#64) ∧
        (∀ c v, (∀ j : CoreId, j.val < c.val → ∀ e ∈ r.exits, e.1 = j → e.2 = 0#64) → (c, v) ∈ r.exits → v ≠ 0#64 → r.cores.getLsbD c.val = true →
          (∀ e ∈ r.exits, e.1 = c → e.2 = v) → r2 = v)) ∧
    (¬ended ∨ (∃ j, j ≠ q ∧ r.queue = some j) → Machine.exec (.runComplete q) s = .next s)

/-! ## Contexts that stop, move and end (14:R610, spec/15, spec/18, spec/19) -/

/-- SAVE: its refusals, the NOTICE to the cores that it waits for, the image and the paused RUN once they have stopped, and its timeout;
RESTORE: its refusals, and the paused context that it admits (R610, R629, R645, R648 to R650, R780).
Rests on the model's choice or reading in log entries 20, 96, 102, 103, 104, 160, 161, 173 and 180. -/
def Obligations.SaveAndRestore : Prop :=
  ∀ (s : State) (q : QueueId) (f : Flight), s.flight q = some f → f.done = none →
    let p := (s.queue q).pasid
    let opc := bitsN f.entry.w0.toNat 56 8
    let kept (t : State) := sameMachine s t ∧ otherQueues s t q
    (∀ reach, let out := Machine.exec (.save q reach) s
      (opc = 5 → f.started = false → (s.cmdCtx q = none ∧ s.moving q f.seq = false ∨ ∃ x, s.cmdCtx q = some x ∧ x.st = .loaded) →
        ∃ t, out = .next t ∧ kept t ∧ doneWith t q (statusWord 1 3 0 0) 0#64) ∧
      (opc = 5 → f.started = false → s.cmdCtx q = none → s.moving q f.seq = true →
        ∃ t, out = .next t ∧ kept t ∧ doneWith t q (statusWord 1 7 0 0) 0#64) ∧
      (∀ x, opc = 5 → f.started = false → s.cmdCtx q = some x → x.st ≠ .loaded → s.moving q f.seq = true →
        ∃ t, out = .next t ∧ kept t ∧ doneWith t q (statusWord 1 7 0 0) 0#64) ∧
      (∀ x, opc = 5 → f.started = false → s.cmdCtx q = some x → x.st ≠ .loaded → s.moving q f.seq = false →
        let n := s.saveBytes x
        (f.entry.w1.toNat % 4096 ≠ 0 → ∃ t, out = .next t ∧ kept t ∧ doneWith t q (statusWord 1 0x0B 0 0) 0#64) ∧
        (f.entry.w1.toNat % 4096 = 0 →
        (f.entry.w2.toNat < n → ∃ t, out = .next t ∧ kept t ∧ doneWith t q (statusWord 1 5 0x0D 0) (natW n)) ∧
        (n ≤ f.entry.w2.toNat → s.dataPlane = false → out = .next s) ∧
        (n ≤ f.entry.w2.toNat → s.dataPlane = true → (∃ c ∈ x.live, (s.core c).held = false) →
          ∃ t, out = .next t ∧ underWay t q ∧ otherQueues s t q ∧ t.hbm = s.hbm ∧ t.ctxs = s.ctxs ∧ t.chans = s.chans ∧ ∀ c : CoreId,
            (c ∈ x.live → (s.core c).held = false → t.core c = { s.core c with pNotice := some ((s.core c).pNotice.getD 1#8) }) ∧
            (c ∉ x.live ∨ (s.core c).held = true → t.core c = s.core c)))) ∧
      (∀ x, opc = 5 → f.started = true → s.cmdCtx q = some x → x.st ≠ .loaded → (s.hostOpen = false ∨ ∃ c ∈ x.live, (s.core c).held = false) →
        out = .next s)) ∧
    -- every core has stopped
    (∀ x r, opc = 5 → f.started = true → s.cmdCtx q = some x → x.st = .running → x.run = some r → r.queue ≠ some q → s.hostOpen = true →
      (∀ c ∈ x.live, (s.core c).held = true) →
      (∃ t y, Machine.exec (.save q true) s = .next t ∧ doneWith t q 0#64 (natW (s.saveBytes x)) ∧
        t.out.getLast? = some (.saveImage x.pasid f.entry.w1.toNat (s.saveBytes x) (saveHeader f.keyed (s.keys + 1) (s.saveBytes x))
          (s.transferOf x f.seq false f.keyed).2) ∧ t.keys = s.keys + 1 ∧
        t.cmdCtx q = some y ∧ y.st = .paused ∧ y.run = none ∧ y.pausedRun = some ⟨r.cores, r.exits⟩ ∧ y.counters = x.counters ∧
        (∀ j g, r.queue = some j → s.flight j = some g → doneWith t j (statusWord 3 0 0 0) 0#64) ∧ t.chans = s.chans ∧
        ∀ c : CoreId, r.cores.getLsbD c.val = true → t.gated.getLsbD c.val = true ∧ (t.core c).active = false ∧ (t.core c).ckpt = (s.core c).ckpt ∧
          (t.core c).dmem = (s.core c).dmem) ∧
      ((∀ c ∈ x.live, (s.core c).halted = false) → ∃ t, Machine.exec (.save q false) s = .next t ∧ doneWith t q (statusWord 7 0 0 0) 0#64 ∧
        otherQueues s t q ∧ t.hbm = s.hbm ∧ ∀ c : CoreId, t.core c = if c ∈ x.live then { s.core c with held := false } else s.core c)) ∧
    (∀ x, opc = 5 → f.started = true → s.cmdCtx q = some x → x.st = .paused → x.run = none → s.hostOpen = true →
      ∃ t, Machine.exec (.save q true) s = .next t ∧ doneWith t q 0#64 (natW (s.saveBytes x)) ∧ t.cmdCtx q = some x ∧ otherQueues s t q ∧ t.chans = s.chans ∧
        t.out.getLast? = some (.saveImage x.pasid f.entry.w1.toNat (s.saveBytes x) (saveHeader f.keyed (s.keys + 1) (s.saveBytes x))
          (s.transferOf x f.seq false f.keyed).2)) ∧
    (∀ x, opc = 5 → f.started = true → s.cmdCtx q = some x → (∃ c ∈ x.live, (s.core c).held = false) →
      ((∃ c ∈ x.live, (s.core c).held = false ∧ (s.core c).decided.isSome = true) → Machine.exec (.saveTimeout q) s = .next s) ∧
      (f.since + 4000 * x.spintUs.toNat ≤ s.xtal → (∀ c ∈ x.live, (s.core c).halted = false ∧ ((s.core c).held = false → (s.core c).decided = none)) →
        ∃ t, Machine.exec (.saveTimeout q) s = .next t ∧
        doneWith t q (statusWord 8 0 0 0) 0#64 ∧ otherQueues s t q ∧ t.hbm = s.hbm ∧ t.gated = s.gated ∧
        ∀ c : CoreId, t.core c = if c ∈ x.live then { s.core c with held := false } else s.core c) ∧
      (s.xtal < f.since + 4000 * x.spintUs.toNat → Machine.exec (.saveTimeout q) s = .next s)) ∧
    -- RESTORE
    (∀ (img : Transfer) (n : Nat) (ok : Bool) (pages : List (List AtsReply)), opc = 6 → s.admitting f.seq = false → s.dataPlane = true → s.hostOpen = true →
      let res := Machine.exec (.restore q n ok (some img) pages) s
      let count := bitsN f.entry.w0.toNat 0 32
      let away (t : State) := t.ctx p = none ∧ t.cores = s.cores ∧ t.hbm = s.hbm
      (n ≠ count → ∃ t, res = .next t ∧ away t ∧ doneWith t q (statusWord 1 4 0 0) 0#64) ∧
      (n = count → (ok = false ∨ img.keyed = true ∧ ∀ y ∈ s.sec.secrets, y.1 ≠ p) → ∃ t, res = .next t ∧ away t ∧
        doneWith t q (statusWord 1 9 0 0) 0#64) ∧
      (∀ r u, n = count → ok = true → (img.keyed = false ∨ ∃ y ∈ s.sec.secrets, y.1 = p) → s.admission p img.lo pages = some (r, u) → ∃ t, res = .next t ∧ away t ∧
        doneWith t q (statusWord 1 r u 0) 0#64) ∧
      (n = count → ok = true → (img.keyed = false ∨ ∃ y ∈ s.sec.secrets, y.1 = p) → s.admission p img.lo pages = none → (s.ctx p).isSome = true →
        ∃ t, res = .next t ∧ doneWith t q 0#64 0#64 ∧ otherQueues s t q ∧
          t.ctx p = some { img.lo.context p .paused (s.keys + 1) with
            counters := img.counters, pausedRun := img.run.map (fun m => ⟨m, img.exits⟩) } ∧
          (∀ v, img.cores = [v] → (t.core v.core).ckpt = v.ckpt ∧ (t.core v.core).dmem = v.dmem ∧ (t.core v.core).active = false ∧
            (t.core v.core).imem = v.imem.put 0xF0000 Config.residentCode.toList))) ∧
    (∀ n ok pages, opc = 6 → s.admitting f.seq = false → s.dataPlane = true → s.hostOpen = true →
      ∃ t, Machine.exec (.restore q n ok none pages) s = .next t ∧ t.ctx p = none ∧ doneWith t q (statusWord 7 0 0 0) 0#64) ∧
    (∀ n ok img pages, opc = 6 → (s.admitting f.seq = true ∨ s.dataPlane = false ∨ s.hostOpen = false) →
      Machine.exec (.restore q n ok img pages) s = .next s)

/-- EVACUATE: its refusals, its NOTICEs and its end, by which the context goes to the peer and is NONE here; a core that does not stop in
time; the enquiry and the context's arrival at the peer; and ZEROIZE (R651 to R653, R752 to R757, R781, R782).
Rests on the model's choice or reading in log entries 73, 105, 106, 107, 108 and 161. -/
def Obligations.EvacuateAndZeroize : Prop :=
  -- a management message goes on its route, or waits: for credit on the link, or for a route
  let told (s t : State) (m : Msg) : Prop := (s.route m.dest = none → m ∈ t.fab.untold) ∧
    ∀ l, s.route m.dest = some l → Out.message (some l) m ∈ t.out ∨ m ∈ (t.link l).queue
  (∀ (s : State) (q : QueueId) (f : Flight) (peer : PeerReply), s.flight q = some f → f.done = none →
    let p := (s.queue q).pasid
    let opc := bitsN f.entry.w0.toNat 56 8
    let out := Machine.exec (.evacuate q peer) s
    let dest : BitVec 16 := f.entry.w2.setWidth 16
    let refused (reason resource : Nat) := ∃ t, out = .next t ∧ sameMachine s t ∧ otherQueues s t q ∧ doneWith t q (statusWord 1 reason resource 0) 0#64
    (opc = 7 → f.started = false → s.cmdCtx q = none → (s.moving q f.seq = false → refused 3 0) ∧ (s.moving q f.seq = true → refused 7 0)) ∧
    (∀ x, opc = 7 → f.started = false → s.cmdCtx q = some x →
      (s.moving q f.seq = true → refused 7 0) ∧
      (s.moving q f.seq = false → (dest = s.deviceId ∨ 0x7FFF < dest.toNat) → refused 8 0) ∧
      (s.moving q f.seq = false → dest ≠ s.deviceId → dest.toNat ≤ 0x7FFF → x.host ≠ [] → refused 6 0x0C) ∧
      (s.moving q f.seq = false → dest ≠ s.deviceId → dest.toNat ≤ 0x7FFF → x.host = [] →
        (peer.reachable = false ∨ peer.standsBy = false ∨ s.unreachable dest = true ∨
          (∃ g, s.secPolicy = some g ∧ g.evacDirect = true) ∧ ∀ l : LinkId, ¬((s.link l).st = .up ∧ (s.link l).partner = dest)) → refused 8 0) ∧
      (s.evacReason q f peer = none → s.dataPlane = false → out = .next s) ∧
      (s.evacReason q f peer = none → s.dataPlane = true → (∃ c ∈ x.live, (s.core c).held = false) →
        ∃ t, out = .next t ∧ underWay t q ∧ otherQueues s t q ∧ t.hbm = s.hbm ∧ t.ctxs = s.ctxs ∧
          told s t (s.mgmtMsg dest mgmtEnquiry [natW (if x.direct then 1 else 0), x.modes.setWidth 64]) ∧
          ∀ c ∈ x.live, (s.core c).held = false → t.core c = { s.core c with pNotice := some ((s.core c).pNotice.getD 2#8) })) ∧
    (∀ x, opc = 7 → f.started = true → s.cmdCtx q = some x →
      ((∃ c ∈ x.live, (s.core c).held = false) → out = .next s) ∧
      ((∀ c ∈ x.live, (s.core c).held = true) → ∃ t, out = .next t ∧ doneWith t q 0#64 peer.entrySeq ∧ t.ctx x.pasid = none ∧
        .transfer dest (s.transferOf x f.seq true false).2 ∈ t.out ∧
        (∀ g r, s.settings = some g → r ∈ g.routes → r.dest ≠ s.deviceId →
          told s t (s.mgmtMsg r.dest mgmtRedirect [s.deviceId.setWidth 64, dest.setWidth 64])) ∧
        (∀ c : CoreId, x.mask.getLsbD c.val = true → t.gated.getLsbD c.val = true ∧ (t.core c).active = false ∧ (t.core c).regions = []) ∧
        (∀ c : CoreId, x.mask.getLsbD c.val = false → t.core c = { s.core c with elogD := (t.core c).elogD }) ∧
        (∀ ch ∈ x.chans, (t.chan ch).owner = none ∧ ∀ d ∈ (t.chan ch).queue, d.pasid = x.pasid → d.fin.isSome = true) ∧
        (∀ i ∈ x.ins, i.win ∈ t.fab.quiet ∧ ∀ r ∈ t.fab.receivers, r.win ≠ i.win) ∧ (∀ l : Fin 16, ∀ e ∈ t.tlbs[l], e.pasid = x.pasid → e.pinned = false) ∧
        (∀ j g, j ≠ q → (s.queue j).pasid = x.pasid → s.flight j = some g → g.done = none → doneWith t j (statusWord 5 0 0 0) 0#64))) ∧
    (∀ x (c : CoreId), opc = 7 → f.started = true → s.cmdCtx q = some x → c ∈ x.live → (s.core c).held = false →
      f.since + 4000 * x.spintUs.toNat ≤ s.xtal →
      ((∃ d ∈ x.live, (s.core d).held = false ∧ (s.core d).decided.isSome = true) → Machine.exec (.evacuateSafePointTimeout q c) s = .next s) ∧
      ((∀ d ∈ x.live, (s.core d).held = false → (s.core d).decided = none) →
      (s.replayable c = true → ∃ t y, Machine.exec (.evacuateSafePointTimeout q c) s = .next t ∧ (t.core c).held = true ∧ (t.core c).halted = true ∧
        (t.core c).gregs = Vector.replicate 30 0#64 ∧ (t.core c).ckpt = (s.core c).ckpt ∧ t.cmdCtx q = some y ∧ y.quiet = true ∧ underWay t q ∧
        t.journal.tail = s.journal.tail + 1#64 ∧ ∀ d, d ≠ c → t.core d = s.core d) ∧
      (s.replayable c = false → ∃ t, Machine.exec (.evacuateSafePointTimeout q c) s = .next t ∧ doneWith t q (statusWord 8 0 0 0) 0#64))) ∧
    (∀ x (c : CoreId), opc = 7 → f.started = true → s.cmdCtx q = some x → (c ∉ x.live ∨ (s.core c).held = true ∨ s.xtal < f.since + 4000 * x.spintUs.toNat) →
      Machine.exec (.evacuateSafePointTimeout q c) s = .next s) ∧
    -- ZEROIZE
    (opc = 8 → s.ctx p = none → ∃ t, Machine.exec (.zeroize q) s = .next t ∧ sameMachine s t ∧ otherQueues s t q ∧ doneWith t q 0#64 0#64) ∧
    (∀ x, opc = 8 → s.ctx p = some x → s.dataPlane = false → Machine.exec (.zeroize q) s = .next s) ∧
    (∀ x, opc = 8 → s.ctx p = some x → s.dataPlane = true → ∃ t, Machine.exec (.zeroize q) s = .next t ∧ doneWith t q 0#64 0#64 ∧ t.ctx p = none ∧
      (∀ y ∈ t.sec.secrets, y.1 ≠ p) ∧ (∀ y ∈ t.sec.jkeys, y.1 = p → ∃ j, (s.queue j).pasid = p) ∧ (∀ ch ∈ x.chans, (t.chan ch).owner = none) ∧
      (∀ d : Fin 2, ∀ l ∈ (t.caches[d]).lines, ¬(∃ g ∈ x.hbm, g.base ≤ lineAddr l.set_ l.tag ∧ lineAddr l.set_ l.tag < g.base + g.size)) ∧
      (∀ c : CoreId, x.mask.getLsbD c.val = true → let k := t.core c
        k.imem = [] ∧ k.dmem = [] ∧ k.spad = [] ∧ k.vregs = [] ∧ k.gregs = Vector.replicate 30 0#64 ∧ k.halted = true ∧ k.ckpt = none ∧
        t.gated.getLsbD c.val = true ∧ k.masks = Vector.replicate 8 0#65536 ∧
        ((∀ w ∈ s.rep.movedMarks[c], w / 4096 ∈ s.rep.rowsSpared[c]) → ∀ r ∈ s.stuckRows c, r ∈ t.rep.rowsSpared[c] ∨ t.rep.rowLost = true)) ∧
      (∀ c : CoreId, x.mask.getLsbD c.val = false → t.core c = { s.core c with elogD := (t.core c).elogD }) ∧
      (∀ j g, j ≠ q → (s.queue j).pasid = p → s.flight j = some g → g.done = none → doneWith t j (statusWord 4 0 0 0) 0#64))) ∧
  -- the peer
  (∀ (s : State) (src : BitVec 16) (coupling modes : BitVec 8), ∃ n,
    Machine.exec (.standbyEnquiry src coupling modes) s = .next (s.sendMgmt (s.mgmtMsg src mgmtStandby [n])) ∧
    (n = 1 ↔ s.ctxs = [] ∧ s.boot.hold = 0#8 ∧ s.patina < 4 ∧ ∃ g, s.secPolicy = some g ∧ bitN g.couplingAllow.toNat coupling.toNat = true ∧
      modes &&& ~~~g.modesAllow = 0#8) ∧ (n = 0 ∨ n = 1)) ∧
  (∀ (s : State) (m : Msg), m.dest ≠ s.deviceId → told s (s.sendMgmt m) m ∧ sameCompute s (s.sendMgmt m)) ∧
  (∀ (s : State) (v : Transfer),
    let taken := s.standsBy (BitVec.ofNat 8 v.lo.coupling) (BitVec.ofNat 8 v.lo.modes) = true ∧ s.admission v.pasid v.lo [] = none ∧ s.dataPlane = true
    (taken → ∃ t x, Machine.exec (.evacuateIn v) s = .next t ∧ t.ctxs = [x] ∧ x.pasid = v.pasid ∧ x.mask = v.lo.mask ∧ x.counters = v.counters ∧
        x.st = (if v.running = true then .running else if v.run.isSome = true then .paused else .loaded) ∧
        (v.source ≠ s.deviceId → told s t (s.mgmtMsg v.source mgmtTaken [s.journal.tail])) ∧ t.journal.tail = s.journal.tail + 1#64 ∧
        (∃ g ∈ t.journal.entries, g.seq = s.journal.tail ∧ g.kind = 0x12#5 ∧ g.dev = true ∧ g.phase = .completed ∧ g.pasid = v.pasid)) ∧
    (¬taken → Machine.exec (.evacuateIn v) s = .next s))

/-! ## Power and clocks (spec/16) -/

/-- Levels: a level moves for a cause alone, a fall switches at once and a rise once its rails have slewed, each setting both core rails;
the governor of either mode once a tick, the limit on power above PL2, and the climb of one level a tick (R7, R669, R676 to R685, R689, R703).
Rests on the model's choice or reading in log entries 109, 110, 111, 112, 113, 164 and 174. -/
def Obligations.LevelsAndGovernor : Prop :=
  ∀ s : State, s.pstate ≠ .off → s.pstate ≠ .quench →
    let p := s.power
    let top : Nat := (s.runLevel).toNat
    let closed := s.policy.openMode = false
    let to_ (o : Host.Outcome State Fault Refusal) (v : Power) := o = .next { s with power := v }
    let rail (d : DieId) (l : BitVec 3) : Nat := ((p.temper[d])[l.toNat]).vapp.toNat
    -- while the data plane is stopped its rails are at retention voltage or off, and what ends that sets them for the level
    let live := s.pstate = .run ∨ s.pstate = .idle
    let toRails (o : Host.Outcome State Fault Refusal) (v : Power) (l : BitVec 3) :=
      o = .next { s with power := v, out := s.out ++ (if live then [.avs 0 (rail 0 l), .avs 1 (rail 1 l)] else []) }
    -- in Planish mode a fall from P5 or above sets DEPART
    let fall (l : BitVec 3) : Power := { p with level := l, rising := none, depart := p.depart || (!s.policy.openMode && decide (l.toNat < 5) && decide (5 ≤ p.level.toNat)) }
    -- LEVEL_CHANGE: down to what the device may run at, or one step up towards it in a tick that began no rise and held back by no droop
    let now := s.xtal * 4 / 1953125
    let may := p.noRaise ≤ s.xtal ∧ p.riseTick ≠ some now
    let stay : Nat := match p.rising with
      | some r => r.1.toNat
      | none => p.level.toNat
    let step : Nat := if top < p.level.toNat then top else min top (if may then p.level.toNat + 1 else stay)
    (∀ l : BitVec 3, l.toNat = step →
      (p.stretched = true → to_ (Machine.exec (.levelChange l) s) { p with deferred := some l }) ∧
      (p.stretched = false → l.toNat < p.level.toNat → toRails (Machine.exec (.levelChange l) s) (fall l) l) ∧
      (p.stretched = false → l = p.level → p.rising = none → Machine.exec (.levelChange l) s = .next s) ∧
      -- a rise that is given up puts back the rails that it raised
      (∀ r, p.stretched = false → l = p.level → p.rising = some r → r.1 ≠ l → toRails (Machine.exec (.levelChange l) s) { p with rising := none } l) ∧
      (p.stretched = false → p.level.toNat < l.toNat → (∀ r, p.rising = some r → r.1 ≠ l) →
        toRails (Machine.exec (.levelChange l) s)
          (if live then { p with rising := some (l, 3#3), riseTick := some now } else { fall l with riseTick := some now }) l) ∧
      (∀ r, p.stretched = false → p.level.toNat < l.toNat → p.rising = some r → r.1 = l → Machine.exec (.levelChange l) s = .next s)) ∧
    (∀ l : BitVec 3, l.toNat ≠ step → Machine.exec (.levelChange l) s = .next s) ∧
    -- VOLTAGE_SLEW_COMPLETE
    (∀ (l : BitVec 3) (w : BitVec 3) (n : Fin 3), p.rising = some (l, w) →
      let left := w &&& ~~~(BitVec.ofNat 3 (2 ^ n.val))
      (left ≠ 0#3 → to_ (Machine.exec (.voltageSlewComplete n) s) { p with rising := some (l, left) }) ∧
      (left = 0#3 → p.stretched = false → ∃ t, Machine.exec (.voltageSlewComplete n) s = .next t ∧ t.power.level.toNat = min l.toNat top ∧
        t.power.rising = none ∧ sameCompute s t) ∧
      (left = 0#3 → p.stretched = true → to_ (Machine.exec (.voltageSlewComplete n) s) { p with rising := some (l, 0#3) })) ∧
    (p.rising = none → ∀ n, Machine.exec (.voltageSlewComplete n) s = .next s) ∧
    -- GOVERNOR_TICK: the caps of Planish mode, the burst of Open mode; energies in units of 1/2048 J
    let due := p.govTick ≠ some now
    (∀ (w : Nat) (l : BitVec 3), ¬due → Machine.exec (.governorTick w l) s = .next s) ∧
    (∀ (w : Nat) (l : BitVec 3), closed → due → ∃ t, Machine.exec (.governorTick w l) s = .next t ∧ sameCompute s t ∧ t.fab = s.fab ∧
      t.power.govTick = some now ∧
      t.power.powerCap = (if 2200 < p.avg1s ∧ p.burst = false then BitVec.ofNat 3 (min l.toNat (p.level.toNat - 1)) else 7#3) ∧
      t.power.level.toNat ≤ p.level.toNat ∧ t.power.energy = p.energy ∧ t.power.quads = p.quads) ∧
    (∀ (w : Nat) (l : BitVec 3), s.policy.openMode = true → due → ∃ t, Machine.exec (.governorTick w l) s = .next t ∧ sameCompute s t ∧
      t.power.govTick = some now ∧ (live → t.power.level.toNat ≤ p.level.toNat) ∧ (live ∨ p.rising = none → t.power.level.toNat ≤ p.level.toNat + 1) ∧
      -- it falls as far as the caps require, climbing or not
      (p.stretched = false → p.floorOn = false → s.gvalid = false → t.power.level.toNat ≤ t.power.powerCap.toNat) ∧
      t.power.powerCap = (if 2200 < p.avg1s ∧ t.power.burst = false then BitVec.ofNat 3 (min l.toNat (p.level.toNat - 1)) else l) ∧
      let b : Int := p.balance + ((w : Int) - 2200)
      (p.burst = false → p.armed = true → 2200 < w → 0 < b → t.power.burst = true ∧ t.power.armed = false ∧ t.power.t0 = s.xtal ∧ t.power.balance = b ∧
        t.power.overPl2 = if 2400 < w then p.overPl2 + 1 else 0) ∧
      (p.burst = true → p.t0 + 2000000000 ≤ s.xtal → t.power.burst = false ∧ (0 < b → t.power.balance = b)) ∧
      (p.burst = true → s.xtal < p.t0 + 2000000000 → 0 < b → t.power.burst = true ∧ t.power.balance = b) ∧
      (p.burst = false → p.armed = false → b ≤ 0 → t.power.burst = false ∧ t.power.armed = true ∧ t.power.balance = 0) ∧
      (p.burst = false → p.armed = false → 0 < b → t.power.burst = false ∧ t.power.armed = false ∧ t.power.balance = b)) ∧
    -- PL2_EXCESS_LIMIT
    (∀ l : BitVec 3, (p.burst = false ∨ p.overPl2 < 20 ∨ p.pl2Tick = some now) → Machine.exec (.pl2ExcessLimit l) s = .next s) ∧
    (∀ l : BitVec 3, p.burst = true → 20 ≤ p.overPl2 → p.pl2Tick ≠ some now → ∃ t, Machine.exec (.pl2ExcessLimit l) s = .next t ∧ sameCompute s t ∧
      t.power.pl2Tick = some now ∧ t.power.powerCap.toNat = (if p.overPl2 = 20 then min l.toNat (p.level.toNat - 1) else p.level.toNat - 1) ∧
      t.power.level.toNat ≤ p.level.toNat ∧ (p.stretched = false → s.gvalid = false → t.power.level.toNat ≤ t.power.powerCap.toNat)) ∧
    -- LEVEL_CLIMB
    (p.floorOn = false → p.stretched = false → p.noRaise ≤ s.xtal → p.droopCap = 7#3 → p.level.toNat < top → p.rising = none →
      let l := BitVec.ofNat 3 (p.level.toNat + 1)
      (p.riseTick ≠ some now → toRails (Machine.exec .levelClimb s)
        (if live then { p with rising := some (l, 3#3), riseTick := some now } else { fall l with riseTick := some now }) l) ∧
      (p.riseTick = some now → Machine.exec .levelClimb s = .next s)) ∧
    (p.floorOn = false → p.noRaise ≤ s.xtal → p.droopCap = 7#3 → top ≤ p.level.toNat → to_ (Machine.exec .levelClimb s) { p with climbing := false }) ∧
    (p.floorOn = true → p.noRaise ≤ s.xtal → p.droopCap = 7#3 → Machine.exec .levelClimb s = .next s)

/-- Droop: a detector stretches the clock and counts once, the end of the stretch makes what was deferred, and a droop of 50 µs takes a
level off (R687 to R690). The Temper monitors move a voltage by 1 mV an hour between VNOM − TRIM and VNOM, and mark a level AGED (R673 to
R675). Sleep: retention, heart only and the wake from each (R39, R41, R706, R814, R819); and the energy of a tick shared by cores (R709).
Rests on the model's choice or reading in log entries 113, 116, 117, 118, 163, 164 and 174. -/
def Obligations.DroopTemperAndSleep : Prop :=
  ∀ s : State,
    let p := s.power
    (∀ (d : DieId) (j : Fin 64), (s.pstate = .run ∨ s.pstate = .idle) →
      ((∀ x ∈ p.droops, ¬(x.1 = d ∧ x.2.1 = j)) → Machine.exec (.droopDetect d j) s = .next { s with power := { p with
        droops := p.droops ++ [(d, j, s.xtal)], stretched := true, stretch := if p.stretched = true then p.stretch else satAdd p.stretch 1 } }) ∧
      ((∃ x ∈ p.droops, x.1 = d ∧ x.2.1 = j) → Machine.exec (.droopDetect d j) s = .next s)) ∧
    (p.stretched = true → p.deferred = none → p.rising = none →
      Machine.exec .droopStretchEnd s = .next { s with power := { p with droops := [], stretched := false } }) ∧
    (∀ l, p.stretched = true → p.deferred = some l → l.toNat < p.level.toNat →
      ∃ t, Machine.exec .droopStretchEnd s = .next t ∧ t.power.level = l ∧ t.power.stretched = false ∧ t.power.deferred = none ∧ sameCompute s t) ∧
    (∀ l, p.stretched = true → p.level.toNat < l.toNat → p.deferred = some l → p.rising = some (l, 0#3) → ∃ t, Machine.exec .droopStretchEnd s = .next t ∧
      sameCompute s t ∧ t.power.level.toNat = min l.toNat s.runLevel.toNat ∧ t.power.rising = none ∧ t.power.stretched = false ∧ t.power.deferred = none) ∧
    (∀ l, p.stretched = true → p.deferred = none → p.rising = some (l, 0#3) → ∃ t, Machine.exec .droopStretchEnd s = .next t ∧ sameCompute s t ∧
      t.power.level.toNat = min l.toNat s.runLevel.toNat ∧ t.power.rising = none ∧ t.power.stretched = false) ∧
    (p.stretched = false → Machine.exec .droopStretchEnd s = .next s) ∧
    (∀ (d : DieId) (j : Fin 64),
      ((∃ x ∈ p.droops, x.1 = d ∧ x.2.1 = j ∧ x.2.2 + 50000 ≤ s.xtal) → p.deferred = none → ∃ t, Machine.exec (.sustainedDroop d j) s = .next t ∧
        sameCompute s t ∧ t.power.level.toNat = p.level.toNat - 1 ∧ t.power.droopCap = t.power.level ∧ t.power.noRaise = s.xtal + 31250000 ∧
        t.power.sustain = satAdd p.sustain 1 ∧ t.power.stretched = p.stretched) ∧
      ((∀ x ∈ p.droops, ¬(x.1 = d ∧ x.2.1 = j ∧ x.2.2 + 50000 ≤ s.xtal)) → Machine.exec (.sustainedDroop d j) s = .next s)) ∧
    -- the Temper table
    (∀ (d : DieId) (n : BitVec 3) (ask : Nat), s.pstate ≠ .off →
      let e := (p.temper.toList.getD d.val (Vector.replicate 8 Temper.reset)).toList.getD n.toNat Temper.reset
      ∃ t e', Machine.exec (.temperMonitorAdjust d n ask) s = .next t ∧ sameCompute s t ∧
        (t.power.temper.toList.getD d.val (Vector.replicate 8 Temper.reset)).toList.getD n.toNat Temper.reset = e' ∧ e'.vnom = e.vnom ∧ e'.trim = e.trim ∧
        (e.vnom.toNat < ask → e'.aged = true) ∧ (ask ≤ e.vnom.toNat → e'.aged = e.aged) ∧
        ((∀ h, e.hour = some h → h + 3600000000000 ≤ s.xtal) →
          (ask < e.vapp.toNat → e.vnom.toNat - e.trim.toNat < e.vapp.toNat → e'.vapp.toNat = e.vapp.toNat - 1 ∧ e'.hour = some s.xtal) ∧
          (e.vapp.toNat < ask → e.vapp.toNat < e.vnom.toNat → e'.vapp.toNat = e.vapp.toNat + 1 ∧ e'.hour = some s.xtal) ∧
          (e.vapp.toNat = ask → e'.vapp = e.vapp)) ∧
        -- the level in force, or the one that a rise goes to
        (n = (p.rising.map Prod.fst).getD p.level → e'.vapp ≠ e.vapp → s.dataPlane = true → Out.avs (Fin.castLE (by decide) d) e'.vapp.toNat ∈ t.out) ∧
        (∀ h, e.hour = some h → s.xtal < h + 3600000000000 → e'.vapp = e.vapp ∧ e'.hour = e.hour) ∧
        (∀ d' n', (d', n') ≠ (d.val, n.toNat) → (t.power.temper.toList.getD d' (Vector.replicate 8 Temper.reset)).toList.getD n' Temper.reset =
          (p.temper.toList.getD d' (Vector.replicate 8 Temper.reset)).toList.getD n' Temper.reset)) ∧
    (s.pstate = .off → ∀ d n ask, Machine.exec (.temperMonitorAdjust d n ask) s = .next s) ∧
    -- sleep and wake
    (s.pstate = .idle → s.isIdle = true → s.policy.idleRetMs ≠ 0 → p.idleSince + s.policy.idleRetMs * 1000000 ≤ s.xtal → (∀ l, (s.link l).st ≠ .up) →
      ∃ t, Machine.exec .retentionEntry s = .next t ∧ t.pstate = .retention ∧ sameCompute s t ∧ t.boot.lnkEn = false ∧
        ∃ o, t.out = o ++ [.avs 0 550, .avs 1 550, .avs 2 600]) ∧
    (s.pstate ≠ .idle ∨ s.isIdle = false ∨ s.policy.idleRetMs = 0 ∨ s.xtal < p.idleSince + s.policy.idleRetMs * 1000000 ∨ (∃ l, (s.link l).st = .up) → Machine.exec .retentionEntry s = .next s) ∧
    ((s.pstate = .idle ∨ s.pstate = .retention) → s.boot.wait = .done → s.isIdle = true → s.policy.idleHeartS ≠ 0 →
      p.idleSince + s.policy.idleHeartS * 1000000000 ≤ s.xtal → s.ctxs = [] → ∃ t, Machine.exec .heartOnlyEntry s = .next t ∧ t.pstate = .heartOnly ∧
        t.cores = Vector.replicate 32 Core.reset ∧ t.gated = 0xFFFFFFFF#32 ∧ (∀ d : Fin 2, (t.caches[d]).lines = []) ∧ t.tlbs = Vector.replicate 16 [] ∧
        t.hbm = s.hbm ∧ t.journal = s.journal ∧ t.boot.tnEn = false ∧ t.boot.lnkEn = false ∧ t.boot.waking = none) ∧
    (s.boot.wait ≠ .done ∨ s.ctxs ≠ [] ∨ s.isIdle = false ∨ s.policy.idleHeartS = 0 ∨ s.xtal < p.idleSince + s.policy.idleHeartS * 1000000000 ∨
      (s.pstate ≠ .idle ∧ s.pstate ≠ .retention) → Machine.exec .heartOnlyEntry s = .next s) ∧
    -- from idle at once, from retention by way of LNK_PG and the die-to-die interface, from heart only by a cold start of the data plane
    ((s.boot.wait ≠ .done ∧ s.boot.wait ≠ .links) ∨ s.boot.hold ≠ 0#8 ∨ s.pstate = .run ∨ s.pstate = .off ∨ s.pstate = .quench → Machine.exec .wake s = .next s) ∧
    ((s.boot.wait = .done ∨ s.boot.wait = .links) → s.boot.hold = 0#8 →
      (s.pstate = .idle → Machine.exec .wake s = .next { s with pstate := .run }) ∧
      (s.pstate = .retention → s.boot.lnkEn = false → (∀ i, s.boot.inputs = some i → i.lnkPg = false) → Machine.exec .wake s = .next { s with
        boot := { s.boot with waking := some .retention, depth := Vector.replicate 8 none, lnkEn := true, pgSince := s.xtal, wait := .linkPg }
        out := s.out ++ [.avs 0 ((p.temper[0])[p.level.toNat]).vapp.toNat, .avs 1 ((p.temper[1])[p.level.toNat]).vapp.toNat, .avs 2 750] }) ∧
      (∀ i, s.pstate = .retention → s.boot.inputs = some i → i.lnkPg = true → i.d2d = [] → ∃ t, Machine.exec .wake s = .next t ∧ sameCompute s t ∧
        t.pstate = .retention ∧ t.boot.wait = .d2d ∧ t.boot.lnkEn = true ∧ ∀ g : Fin 8, t.boot.depth[g] = none) ∧
      (∀ i a o, s.pstate = .retention → 13 ≤ s.boot.stage.toNat → s.boot.inputs = some i → i.lnkPg = true → i.d2d = a :: o → a.length = 8 →
        (∀ x ∈ a, ∃ n, x = some n ∧ n ≤ 20) → ∃ t, Machine.exec .wake s = .next t ∧ sameCompute s t ∧ t.pstate = .run ∧ t.boot.lnkEn = true ∧
          t.boot.wait = .done ∧ t.boot.d2dFails = 0 ∧ ∀ (g : Fin 8) n, a[g.val]? = some (some n) → t.boot.depth[g] = some (24 - n)) ∧
      -- four exchanges that fail
      (∀ i w x y z, s.pstate = .retention → s.boot.inputs = some i → i.lnkPg = true → i.d2d = [w, x, y, z] →
        (∀ a ∈ i.d2d, ∃ e ∈ a, ∀ n, e = some n → 20 < n) → ∃ t, Machine.exec .wake s = .next t ∧ t.pstate = .heartOnly ∧ t.boot.hold = 8#8 ∧ t.ctxs = []) ∧
      (s.pstate = .heartOnly → (∀ i, s.boot.inputs = some i → i.tnPg = false ∨ i.refIn = false) → Machine.exec .wake s = .next { s with
        boot := { s.boot with waking := some .heartOnly, tnEn := true, pgSince := s.xtal, wait := .topPg }
        out := s.out ++ [.avs 0 ((p.temper[0])[p.level.toNat]).vapp.toNat, .avs 1 ((p.temper[1])[p.level.toNat]).vapp.toNat, .avs 2 750] })) ∧
    -- energy, once a tick
    let now := s.xtal * 4 / 1953125
    (∀ (mj : Nat) (x : Context) (n : CoreId), p.creditTick ≠ some now → s.ctxs = [x] → x.loading = false → lowestCore x.mask = some n →
      Machine.exec (.energyCredit mj) s = .next { s with power := { p with
        creditTick := some now, slots := p.slots.set! n.val (p.slots.toList.getD n.val 0 + mj * (coresOf x.mask).length) } }) ∧
    (∀ mj, p.creditTick ≠ some now → s.ctxs = [] → Machine.exec (.energyCredit mj) s = .next { s with power := { p with creditTick := some now } }) ∧
    (∀ mj, p.creditTick = some now → Machine.exec (.energyCredit mj) s = .next s)

/-- Temperature: throttles begin at their thresholds, edge skipping moves by one sixteenth, and a quadrant below full rate for 8 ticks
turns into a level (R692 to R696). Quench by the device's own sensors or by QUENCH_N, its hold and its exit (R697 to R700, R824). Floor by
VR_ALERT_N (R701).
Rests on the model's choice or reading in log entries 114, 115, 164 and 174. -/
def Obligations.ThermalQuenchAndFloor : Prop :=
  ∀ s : State,
    let p := s.power
    let same (t : State) := t.cores = s.cores ∧ t.hbm = s.hbm ∧ t.ctxs = s.ctxs ∧ t.chans = s.chans ∧ t.queues = s.queues ∧ t.caches = s.caches ∧
      t.journal = s.journal
    -- THERMAL_SAMPLE
    (∀ v : Temps, s.pstate ≠ .off → ∃ t, Machine.exec (.thermalSample v) s = .next t ∧ sameCompute s t ∧ t.power.temps = v ∧ t.power.level = p.level ∧
      t.links = s.links ∧ ∀ j : Fin 8,
        let die := ((v.die.getD (j.val / 4) []).drop (20 * (j.val % 4))).take 20
        let tier := ((v.tier.getD (j.val / 4) []).drop (8 * (j.val % 4))).take 8
        let k := t.power.quads[j]
        k.ratio = p.quads[j].ratio ∧ ((∃ x ∈ die, 105 ≤ x) → k.core = true) ∧ ((∃ x ∈ tier, 95 ≤ x) → k.tier = true) ∧
        ((∀ x ∈ die, x < 105) → p.quads[j].core = false → k.core = false) ∧
        ((∀ x ∈ die, x < 105) → (∃ x ∈ die, 102 < x) → p.quads[j].core = true → k.core = true)) ∧
    (s.pstate = .off → ∀ v, Machine.exec (.thermalSample v) s = .next s) ∧
    -- EDGE_SKIP_STEP
    (s.pstate ≠ .off → p.skipTick ≠ some (s.xtal * 4 / 1953125) → (∀ d : Fin 2, p.die[d] = false) →
      ∃ v, Machine.exec .edgeSkipStep s = .next { s with power := v } ∧ v.level = p.level ∧ v.skipTick = some (s.xtal * 4 / 1953125) ∧
      ∀ j : Fin 8, let k := p.quads[j]
        let hot := k.core = true ∨ k.tier = true ∨ k.stack = true
        (hot → v.quads[j].ratio = (if 4 < k.ratio then k.ratio - 1 else k.ratio)) ∧ (¬hot → 16 ≤ k.ratio → v.quads[j].ratio = k.ratio) ∧
        (¬hot → k.ratio < 16 → v.quads[j].ratio = if 3 ≤ k.upTicks then k.ratio + 1 else k.ratio) ∧
        v.quads[j].below = (if v.quads[j].ratio < 16 then k.below + 1 else 0)) ∧
    (s.pstate = .off ∨ p.skipTick = some (s.xtal * 4 / 1953125) → Machine.exec .edgeSkipStep s = .next s) ∧
    -- THERMAL_CONVERSION, LOCAL_LIMIT_RISE
    ((∃ j : Fin 8, 8 ≤ p.quads[j].below) → ∃ t, Machine.exec .thermalConversion s = .next t ∧ sameCompute s t ∧ t.power.therm = satAdd p.therm 1 ∧
      t.power.localCap.toNat = min p.localCap.toNat s.modeTop - 1 ∧ ∀ j : Fin 8, t.power.quads[j].ratio = 16 ∧ t.power.quads[j].below = 0) ∧
    ((∀ j : Fin 8, p.quads[j].below < 8) → Machine.exec .thermalConversion s = .next s) ∧
    (64 ≤ p.noSkip → p.localCap.toNat < s.modeTop →
      Machine.exec .localLimitRise s = .next { s with power := { p with localCap := p.localCap + 1#3, noSkip := 0 } }) ∧
    (p.noSkip < 64 ∨ s.modeTop ≤ p.localCap.toNat → Machine.exec .localLimitRise s = .next s) ∧
    -- Quench
    (∀ v : Temps, s.pstate ≠ .off → s.pstate ≠ .quench → reachesQuench v = true → ∃ t, Machine.exec (.quenchEntry v) s = .next t ∧ same t ∧
      t.pstate = .quench ∧ t.power.quenchN = false ∧ t.power.quenches = satAdd p.quenches 1 ∧ t.power.quenchFrom = s.pstate ∧
      t.power.depart = (p.depart || (!s.policy.openMode && decide (5 ≤ p.level.toNat))) ∧
      (∀ l, (s.link l).st = .up → (t.link l).st = .down ∧ (t.link l).cause = 1#4) ∧ (∀ l, (s.link l).st ≠ .up → t.link l = s.link l) ∧
      (s.dataPlane = true → ∃ o, t.out = s.out ++ [.avs 0 550, .avs 1 550, .avs 2 600] ++ o)) ∧
    (∀ v : Temps, s.pstate = .quench → reachesQuench v = true →
      Machine.exec (.quenchEntry v) s = .next { s with power := { p with temps := v, quenchN := false, quenchCool := none } }) ∧
    (∀ v : Temps, s.pstate = .off ∨ reachesQuench v = false → Machine.exec (.quenchEntry v) s = .next s) ∧
    (s.pstate ≠ .off → s.pstate ≠ .quench → s.policy.quenchFollow = true → ∃ t, Machine.exec .quenchFollow s = .next t ∧ same t ∧ t.pstate = .quench ∧
      t.power.quenchN = true ∧ t.power.quenchInLow = true) ∧
    (s.pstate = .quench → ∃ v, Machine.exec .quenchFollow s = .next { s with power := v } ∧ v.quenchInLow = true ∧ v.level = p.level) ∧
    (s.pstate ≠ .quench → s.pstate = .off ∨ s.policy.quenchFollow = false → Machine.exec .quenchFollow s = .next { s with power := { p with quenchInLow := true } }) ∧
    (∃ v, Machine.exec .quenchNRise s = .next { s with power := v } ∧ v.quenchInLow = false ∧ v.level = p.level) ∧
    -- the exit: to heart only, or by the rails, LNK_PG and the die-to-die interface as a wake from retention
    (s.pstate = .quench → s.quenchClears = true → (∃ a, p.quenchCool = some a ∧ a + 31250000 ≤ s.xtal) →
      let left (t : State) := sameCompute s t ∧ t.links = s.links ∧ t.power.level = 0#3 ∧ t.power.climbing = true ∧ t.power.quenchN = true
      let ends (f : State → Prop) := ∃ t, Machine.exec .quenchExit s = .next t ∧ left t ∧ f t
      (p.quenchFrom = .heartOnly → s.boot.wait ≠ .d2d → ends fun t => t.pstate = .heartOnly ∧ t.boot = s.boot) ∧
      (p.quenchFrom ≠ .heartOnly → s.boot.wait = .linkPg → ends fun t => t.pstate = .retention ∧ t.boot = s.boot) ∧
      (p.quenchFrom ≠ .heartOnly → s.boot.wait ≠ .linkPg → s.boot.wait ≠ .d2d →
        (s.boot.lnkEn = false → (∀ i, s.boot.inputs = some i → i.lnkPg = false) → ends fun t => t.pstate = .retention ∧ t.boot.lnkEn = true ∧
          t.boot.wait = .linkPg ∧ t.boot.waking = some (if p.quenchFrom = .run then PState.run else .idle)) ∧
        (∀ i, s.boot.inputs = some i → (s.boot.lnkEn = true ∨ i.lnkPg = true) →
          (i.d2d = [] → ends fun t => t.pstate = .retention ∧ t.boot.wait = .d2d ∧ t.boot.waking = some (if p.quenchFrom = .run then PState.run else .idle)) ∧
          (∀ a o, i.d2d = a :: o → 13 ≤ s.boot.stage.toNat → a.length = 8 → (∀ x ∈ a, ∃ n, x = some n ∧ n ≤ 20) →
            ends fun t => t.pstate = (if p.quenchFrom = .run then .run else .idle) ∧ t.boot.wait = .done)))) ∧
    (s.pstate ≠ .quench ∨ s.quenchClears = false ∨ (∀ a, p.quenchCool = some a → s.xtal < a + 31250000) → Machine.exec .quenchExit s = .next s) ∧
    -- Floor
    (s.pstate ≠ .off → ∃ t, Machine.exec .vrAlert s = .next t ∧ sameCompute s t ∧ t.power.level = 0#3 ∧ t.power.alertLow = true ∧
      (p.floorOn = false → t.power.floors = satAdd p.floors 1) ∧ (p.floorOn = true → t.power.floors = p.floors)) ∧
    (s.pstate = .off → Machine.exec .vrAlert s = .next s) ∧
    (p.alertLow = true → Machine.exec .vrAlertNReturnsHigh s = .next { s with power := { p with alertLow := false, floorHold := some s.xtal } }) ∧
    (p.alertLow = false → Machine.exec .vrAlertNReturnsHigh s = .next s) ∧
    (∀ a, p.floorHold = some a → a + 31250000 ≤ s.xtal → ∃ t, Machine.exec .floorHoldEnd s = .next t ∧ sameCompute s t ∧
      t.power = { p with floorHold := none, floored := false, climbing := true }) ∧
    (∀ a, p.floorHold = some a → s.xtal < a + 31250000 → Machine.exec .floorHoldEnd s = .next s) ∧ (p.floorHold = none → Machine.exec .floorHoldEnd s = .next s)

/-! ## Start-up, reset and images (spec/17, 14:R582 to R584, spec/21) -/

/-- Start-up, wait by wait: power-good, crystal, the reset chain, fuses, the image, firmware, power-good of the groups, the die-to-die
exchange at start, at a wake and in service, and the causes of Safe hold (R712 to R728, R582 to R584, R816 to R823); reset and power-down
(R729, R735, R736, R663).
Rests on the model's choice or reading in log entries 120, 121, 122, 123, 127, 128, 163 and 165. -/
def Obligations.StartUpAndReset : Prop :=
  ∀ s : State,
    let b := s.boot
    -- Quench, which only QUENCH_EXIT ends, keeps the power state until then
    let held (o : Host.Outcome State Fault Refusal) (cause : BitVec 8) := ∃ t, o = .next t ∧ t.boot.hold = cause ∧ (s.pstate ≠ .quench → t.pstate = .heartOnly) ∧
      t.boot.wait = .done ∧ t.boot.ready = true ∧ t.cores = Vector.replicate 32 Core.reset
    let mayRestart := (7 ≤ b.stage.toNat ∨ b.hold ≠ 0#8) ∧ s.pstate ≠ .off ∧ b.staging ≠ 1#2
    let input (g : StartInputs → Prop) := ∃ i, b.inputs = some i ∧ g i
    -- step 1
    (∀ i : StartInputs, b.pwrgd = false → i.crystal = false → ∃ t, Machine.exec (.coldStart i) s = .next t ∧ t.boot.stage = 1#4 ∧ t.boot.wait = .crystal ∧
      t.boot.pwrgd = true ∧ t.boot.xspiRstN = true ∧ t.boot.refOut = (if i.qslot = 0#2 ∧ i.refIn = true then 7#3 else 0#3) ∧ t.boot.qslot = i.qslot ∧ t.boot.qrstIn = i.qrstIn ∧ t.boot.inputs = some i ∧ t.pstate = .heartOnly ∧
      t.boot.slotA = i.slotA.getD b.slotA ∧ t.boot.slotB = i.slotB.getD b.slotB ∧
      t.cores = Vector.replicate 32 Core.reset ∧ t.ctxs = [] ∧ t.hbm = [] ∧ t.queues = Vector.replicate 64 Queue.reset ∧ t.pending = s.pending) ∧
    (∀ i : StartInputs, b.pwrgd = true → Machine.exec (.coldStart i) s = .next s) ∧
    -- step 2 and the chain
    (b.wait = .crystal → b.qrstIn = false → Machine.exec .crystalStable s =
      .next { s with time := 0, boot := { b with crystal := true, stage := 2#4, wait := .chain, chainFrom := s.xtal } }) ∧
    (b.wait ≠ .crystal → Machine.exec .crystalStable s = .next s) ∧
    (b.wait ≠ .chain → Machine.exec .qrstInRelease s = .next { s with boot := { b with qrstIn := true } }) ∧
    (b.wait ≠ .chain ∨ s.xtal < b.chainFrom + 1000000000 → Machine.exec .qrstInTimeout s = .next s) ∧
    -- step 3: the fuses of the two dies; where they cannot be trusted the heart domain starts, and Safe hold follows
    (b.wait = .chain → b.chainFrom + 1000000000 ≤ s.xtal → ∀ o ∈ [Machine.exec .qrstInRelease s, Machine.exec .qrstInTimeout s], ∀ (i : StartInputs) (f g : Fuses),
      b.inputs = some i → i.fuses = [f, g] →
      let good (k : RivetCopy) := k.crc = crcOfBits k.data
      let bad (k : RivetCopy) := k.crc ≠ crcOfBits k.data
      let fails (cause : BitVec 8) := (i.hrtPg = false → ∃ t, o = .next t ∧ t.boot.failed = cause ∧ t.boot.stage = b.stage ∧ t.boot.hrtEn = true ∧ t.boot.wait = .heartPg) ∧
        (i.hrtPg = true → held o cause)
      (∀ m n v w, f.rivet = [m, m, m] → f.temper = [v, v] → g.rivet = [n, n, n] → g.temper = [w, w] → good m → good n → v.crc = crcOfBits v.data →
        w.crc = crcOfBits w.data → i.hrtPg = false →
        ∃ t, o = .next t ∧ t.boot.stage = 3#4 ∧ t.boot.failed = 0#8 ∧ t.boot.hrtEn = true ∧ t.boot.wait = .heartPg ∧ t.boot.report = b.report ∧ t.boot.hold = b.hold ∧
          t.rep.good = #v[m.map.good, n.map.good] ∧ (∀ j : Fin 8, (t.power.temper[0])[j].vnom = (v.data >>> (16 * j.val + 6)).setWidth 10 ∧
            (t.power.temper[1])[j].vnom = (w.data >>> (16 * j.val + 6)).setWidth 10) ∧ t.rep.map[0].pcore = m.map.serve.getD 0 0#5) ∧
      -- two copies that agree are used, and reported
      (∀ m n k v w, f.rivet = [m, k, m] → bad k → f.temper = [v, v] → g.rivet = [n, n, n] → g.temper = [w, w] → good m → good n → v.crc = crcOfBits v.data →
        w.crc = crcOfBits w.data → i.hrtPg = false → ∃ t, o = .next t ∧ t.boot.stage = 3#4 ∧ t.rep.good = #v[m.map.good, n.map.good] ∧
          t.boot.report = b.report ||| 4#8) ∧
      ((∀ k ∈ f.rivet, bad k) → fails 2#8) ∧
      (∀ m n, f.rivet = [m, n] → good m → good n → m.data ≠ n.data → fails 1#8) ∧
      (∀ m, f.rivet = [m, m, m] → good m → (∀ k ∈ f.temper, k.crc ≠ crcOfBits k.data) → fails 3#8) ∧
      -- the second die's fuses are sensed whatever the first die's hold
      (∀ n, (∀ k ∈ f.rivet, bad k) → g.rivet = [n] → good n → ∃ t, o = .next t ∧ t.boot.report.getLsbD 3 = true ∧ t.rep.good[1] = n.map.good)) ∧
    -- steps 4 to 6: the heart domain, and the image
    (b.wait = .heartPg → b.failed ≠ 0#8 → held (Machine.exec (.regulatorPowerGood 0) s) b.failed ∧
      ∃ t, Machine.exec (.regulatorPowerGood 0) s = .next t ∧ t.boot.qrstOut = true ∧ t.journal.ident = natW (Config.random (s.keys + 3))) ∧
    (b.wait = .heartPg → b.failed = 0#8 → ∀ i, b.inputs = some i →
      let out := Machine.exec (.regulatorPowerGood 0) s
      let key := (StartInputs.root i).imageKeyHash
      let a := validSlot key b.slotA
      let c := validSlot key b.slotB
      -- the image of a slot is taken: which slot, and what is reported
      let takes (useB : Bool) (x : SlotImage) (report : BitVec 8) :=
        ((∃ q, x.settings.quadSlot = some q ∧ q ≠ b.qslot) → held out 9#8) ∧
        (i.fwRuns = false → (∀ q, x.settings.quadSlot = some q → q = b.qslot) → ∃ t, out = .next t ∧ t.boot.wait = .firmware ∧ t.boot.stage = 6#4 ∧
          t.boot.image = some x ∧ t.boot.slot = useB ∧ t.boot.report = b.report ||| report ∧ t.boot.version = x.version ∧ t.boot.qrstOut = true ∧
          t.keys = s.keys + 5 ∧ t.journal.ident = natW (Config.random (s.keys + 3)) ∧ t.out = s.out ++ [.pmbus 0 1400, .pmbus 1 1400])
      (a = none → c = none → held out 4#8) ∧
      (∀ x, a = some x → c = none → takes false x 2#8) ∧ (∀ y, a = none → c = some y → takes true y 2#8) ∧
      (∀ x y, a = some x → c = some y →
        (y.version.toNat < x.version.toNat → takes false x 0#8) ∧ (x.version.toNat < y.version.toNat → takes true y 0#8) ∧
        (x.version = y.version → ((StartInputs.root i).bootSel = false → takes false x (if x.digest = y.digest then 0#8 else 1#8)) ∧
          ((StartInputs.root i).bootSel = true → takes true y (if x.digest = y.digest then 0#8 else 1#8))))) ∧
    -- steps 7 to 9
    (b.wait = .topPg → input (fun i => i.refIn = true ∧ i.lnkPg = false) → Machine.exec (.regulatorPowerGood 1) s =
      .next { s with boot := { b with lnkEn := true, pgSince := s.xtal, wait := .linkPg } }) ∧
    (b.wait = .topPg → input (fun i => i.refIn = false) → Machine.exec (.regulatorPowerGood 1) s = .next s) ∧
    (b.wait = .linkPg → b.waking ≠ some .retention → input (fun i => ∃ f ∈ i.sram, f.has < f.needs) → held (Machine.exec (.regulatorPowerGood 2) s) 6#8) ∧
    (b.wait = .linkPg → b.waking ≠ some .retention → ∀ i, b.inputs = some i →
      (s.rep.selfTest i.bist = none → held (Machine.exec (.regulatorPowerGood 2) s) 6#8 ∧
        ∃ t, Machine.exec (.regulatorPowerGood 2) s = .next t ∧ t.rep.coreLost = true) ∧
      -- each logical core is served by a core that passed, its own if that did
      ((s.rep.selfTest i.bist).isSome = true → (∀ f ∈ i.sram, f.needs ≤ f.has) → (i.hbmOk = false → held (Machine.exec (.regulatorPowerGood 2) s) 7#8) ∧
        (i.hbmOk = true → i.d2d = [] → ∃ t, Machine.exec (.regulatorPowerGood 2) s = .next t ∧ t.boot.stage = (if b.stage.toNat < 9 then 9#4 else b.stage) ∧
          t.boot.wait = .d2d ∧ t.cores = s.cores ∧ (∀ f ∈ i.sram, (f.structure_, f.needs) ∈ t.rep.sram[f.die]) ∧
          ∀ c : CoreId, let passed (p : Nat) := (s.rep.good[dieOf c]).getLsbD p = true ∧ (i.bist.getD (dieOf c).val 0#18).getLsbD p = false
            passed (t.rep.map[c]).pcore.toNat ∧ (passed (s.rep.map[c]).pcore.toNat → t.rep.map[c] = s.rep.map[c]) ∧
            (t.rep.map[c] ≠ s.rep.map[c] → t.rep.map[c].moved = true ∧ t.boot.report.getLsbD 5 = true)))) ∧
    (b.wait = .linkPg → b.waking = some .retention → input (fun i => i.d2d = []) →
      Machine.exec (.regulatorPowerGood 2) s = .next { s with boot := { b with wait := .d2d } }) ∧
    (b.wait ≠ .heartPg → b.wait ≠ .topPg → b.wait ≠ .linkPg → ∀ n, Machine.exec (.regulatorPowerGood n) s = .next s) ∧
    ((b.wait = .topPg ∨ b.wait = .linkPg ∧ b.waking ≠ some .retention) → b.pgSince + 20000000 ≤ s.xtal → held (Machine.exec .powerGoodTimeout s) 6#8) ∧
    (b.wait ≠ .topPg ∧ b.wait ≠ .linkPg ∨ b.wait = .linkPg ∧ b.waking = some .retention ∨ s.xtal < b.pgSince + 20000000 →
      Machine.exec .powerGoodTimeout s = .next s) ∧
    (b.wait = .firmware → b.pgSince + 500000000 ≤ s.xtal → held (Machine.exec .fwStartTimeout s) 5#8) ∧
    (b.wait ≠ .firmware ∨ s.xtal < b.pgSince + 500000000 → Machine.exec .fwStartTimeout s = .next s) ∧
    -- step 10, and lanes: a marker that arrives by cycle 20 is read at the depth that makes it leave in cycle 24
    (∀ a : List (Option Nat), s.pstate ≠ .quench →
      let out := Machine.exec (.d2dMarkerExchange a) s
      let ok := a.length = 8 ∧ ∀ x ∈ a, ∃ n, x = some n ∧ n ≤ 20
      let depth : Vector (Option Nat) 8 := Vector.ofFn (fun g => match a[g.val]? with
        | some (some n) => if n ≤ 20 then some (24 - n) else none
        | _ => none)
      let failed := ¬ok → (3 ≤ b.d2dFails → held out 8#8 ∧ ∀ t, out = .next t → t.ctxs = []) ∧
        (b.d2dFails < 3 → out = .next { s with boot := { b with depth := depth, d2dFails := b.d2dFails + 1 } })
      (b.wait = .d2d → failed) ∧
      (b.wait = .d2d → ok → ∃ t, out = .next t ∧ t.boot.depth = depth ∧ t.boot.d2dFails = 0 ∧
        t.boot.waking = none ∧ t.cores = s.cores ∧ (b.waking = none → t.boot.ready = true) ∧
        t.pstate = (if b.waking = none ∨ b.waking = some .idle then .idle else .run) ∧
        (13 ≤ b.stage.toNat → t.boot.stage = b.stage ∧ t.boot.wait = .done) ∧
        (b.stage.toNat < 13 → (∀ l, s.linkMapped l = false) → t.boot.stage = 13#4 ∧ t.boot.wait = .done) ∧
        (b.stage.toNat < 13 → (∃ l, s.linkMapped l = true ∧ s.linkTried l = false) →
          t.boot.stage = (if b.stage.toNat < 10 then 10#4 else b.stage) ∧ t.boot.wait = .links)) ∧
      (b.wait ≠ .d2d → (s.pstate = .run ∨ s.pstate = .idle) → b.aligned = false → failed ∧
        (ok → out = .next { s with boot := { b with depth := depth, d2dFails := 0 } })) ∧
      (b.wait ≠ .d2d → (s.pstate ≠ .run ∧ s.pstate ≠ .idle ∨ b.aligned = true) → out = .next s)) ∧
    (s.pstate = .quench → ∀ a, Machine.exec (.d2dMarkerExchange a) s = .next s) ∧
    (∀ g : Fin 8, (s.pstate = .run ∨ s.pstate = .idle) → ∃ t, Machine.exec (.d2dLaneFailure g) s = .next t ∧ t.rep.d2dLeft[g] = s.rep.d2dLeft[g] - 1 ∧
      t.boot.depth = b.depth.set g none ∧ t.boot.aligned = false ∧ sameCompute s t) ∧
    -- answering, power-down, resets
    (b.mayAnswer = true → b.retry = false → Machine.exec .pcieReady s = .next { s with boot := { b with ready := true } }) ∧
    (b.mayAnswer = false ∨ b.retry = true → Machine.exec .pcieReady s = .next s) ∧
    Machine.exec .fundamentalResetRelease s = .next { s with boot := { b with retry := false, ready := b.ready || b.mayAnswer } } ∧
    Machine.exec .powerDown s = .next { State.reset with
      pending := s.pending, out := s.out, us := s.us, fresh := s.fresh, keys := s.keys, ats := s.ats, pri := s.pri,
      boot := { State.reset.boot with slotA := b.slotA, slotB := b.slotB } } ∧
    -- the management plane asks for a cold restart: contexts are zeroized, and their commands complete
    ((∀ i : StartInputs, mayRestart → ∃ t, Machine.exec (.requestedColdRestart i) s = .next t ∧ t.time = s.time ∧
        t.ctxs = [] ∧ t.hbm = [] ∧ t.sec.secrets = [] ∧ t.boot.qslot = b.qslot ∧ t.boot.inputs = some i ∧ t.pending = s.pending ∧
        t.boot.slotA = i.slotA.getD b.slotA ∧ t.boot.slotB = i.slotB.getD b.slotB ∧ t.power.alertLow = s.power.alertLow ∧ t.power.quenchInLow = s.power.quenchInLow ∧
        (∀ (j : QueueId) f, s.flight j = some f → f.done = none → (∃ x ∈ s.ctxs, x.pasid = (s.queue j).pasid) → f.entry.w6 = 0#64 →
          CmdIrq f.entry = true → Out.msix (s.queue j).vec ∈ t.out)) ∧
      (∀ i : StartInputs, ¬mayRestart → Machine.exec (.requestedColdRestart i) s = .next s)) ∧
    (∀ c : WarmCause, (4 ≤ b.stage.toNat ∨ b.hold ≠ 0#8) → ∃ t, Machine.exec (.warmReset c) s = .next t ∧ t.ctxs = [] ∧ t.queues = Vector.replicate 64 Queue.reset ∧
      t.ring = Ring.reset ∧ (∀ n : Fin 256, t.htg[n] = { Htg.reset with wrote := t.htg[n].wrote } ∧ (s.htg[n].running = false → t.htg[n].wrote = s.htg[n].wrote)) ∧
      t.sec.secrets = [] ∧ t.sec.jkeys = [] ∧ t.boot.warm = true ∧ t.mgmt.dyn = 0#7 ∧
      t.boot.retry = decide (c = .fundamental) ∧ t.boot.image = b.image ∧ t.hbm = s.hbm ∧ t.journal.tail = s.journal.tail + 1#64 ∧
      (∀ x ∈ s.ctxs, ∀ k : CoreId, x.mask.getLsbD k.val = true → (t.core k).dmem = [] ∧ (t.core k).spad = [] ∧ t.gated.getLsbD k.val = true) ∧
      (∀ e ∈ t.journal.entries, e.phase = .completed ∨ e.phase = .abandoned)) ∧
    (∀ c : WarmCause, b.stage.toNat < 4 → b.hold = 0#8 → Machine.exec (.warmReset c) s = .next s)

/-- Staging of an image over PLDM or DOE: data in its turn, the check, the timeout, and the commands of a PLDM update (R732 to R734, R804 to
R806, R796, R797).
Rests on the model's choice or reading in log entries 125, 126, 139, 163, 167 and 175. -/
def Obligations.StagingAndUpdate : Prop :=
  ∀ s : State,
    let b := s.boot
    let up := (7 ≤ b.stage.toNat ∨ b.hold ≠ 0#8) ∧ s.mgmt.actions = []
    let said (t : State) (v : Boot) (kind code : Nat) (body : List Nat) := t = { s with boot := v, out := s.out ++ [.reply kind code body] }
    -- the slot not in use, and the device with something else in it
    let idle : Slot := if b.slot = true then b.slotA else b.slotB
    let put (v : Boot) (x : Slot) : Boot := { (if b.slot = true then { v with slotA := x } else { v with slotB := x }) with other := 0#2 }
    -- a staging that ends leaves BOOT_OTHER, the slot and an event
    let ended (t : State) (m : Slot) (code other : BitVec 2) := t.boot.staging = code ∧ t.boot.other = other ∧ t.boot.path = none ∧
      (if b.slot = true then t.boot.slotA else t.boot.slotB) = m ∧ (if b.slot = true then t.boot.slotB = b.slotB else t.boot.slotA = b.slotA) ∧
      t.boot.image = b.image ∧ sameCompute s t
    -- what the check finds in the bytes that were written, with `f` for what its section values hold
    let found (f : SectionFields) : Option SlotImage :=
      validSlot ((b.inputs.map (fun i => (StartInputs.root i).imageKeyHash)).getD 0#384) { idle with fields := some f }
    let newer (f : SectionFields) := ∃ m, found f = some m ∧ b.version.toNat < m.version.toNat
    (∀ (pldm : Bool) (n : Nat) (bs : List Byte),
      let taken := b.staging = 1#2 ∧ b.path = some pldm ∧ n = b.stBytes ∧ bs.length ≤ 4096 ∧ n + bs.length ≤ 0x2000000
      (taken → Machine.exec (.stagingData pldm n bs) s = .next { s with
        boot := put { b with stBytes := n + bs.length, stLast := s.xtal } { idle with bytes := idle.bytes ++ bs } }) ∧
      (¬taken → Machine.exec (.stagingData pldm n bs) s = .next s)) ∧
    (∀ f : SectionFields, b.staging = 1#2 →
      (newer f → ∃ t, Machine.exec (.stagingCheck f) s = .next t ∧ ended t { idle with fields := some f } 3#2 2#2) ∧
      (¬newer f → ∃ t, Machine.exec (.stagingCheck f) s = .next t ∧ ended t Slot.erased 2#2 0#2)) ∧
    (∀ f, b.staging ≠ 1#2 → Machine.exec (.stagingCheck f) s = .next s) ∧
    (b.staging = 1#2 → b.stLast + 60000000000 ≤ s.xtal → ∃ t, Machine.exec .stagingTimeout s = .next t ∧ ended t Slot.erased 2#2 0#2) ∧
    (b.staging ≠ 1#2 ∨ s.xtal < b.stLast + 60000000000 → Machine.exec .stagingTimeout s = .next s) ∧
    -- PLDM
    (up → b.staging ≠ 1#2 → b.update = false → ∃ t, Machine.exec .requestUpdate s = .next t ∧ said t { b with update := true } pldmRequestUpdate 0 []) ∧
    (up → (b.staging = 1#2 ∨ b.update = true) → ∃ t, Machine.exec .requestUpdate s = .next t ∧ said t b pldmRequestUpdate 0x81 []) ∧
    (∀ (id : BitVec 16) (n : Nat), up →
      let good := id = 1#16 ∧ n ≤ 0x2000000
      (b.update = false → (∃ t, Machine.exec (.passComponentTable id n) s = .next t ∧ said t b pldmPassTable 0x80 []) ∧
        (∃ t, Machine.exec (.updateComponent id n) s = .next t ∧ said t b pldmUpdateComponent 0x80 [])) ∧
      (b.update = true → good → (∃ t, Machine.exec (.passComponentTable id n) s = .next t ∧ said t b pldmPassTable 0 [0]) ∧
        (b.staging ≠ 1#2 → ∃ t, Machine.exec (.updateComponent id n) s = .next t ∧ t.boot.staging = 1#2 ∧ t.boot.path = some true ∧ t.boot.stBytes = 0 ∧
          t.boot.other = 0#2 ∧ (if b.slot = true then t.boot.slotA else t.boot.slotB) = Slot.erased ∧ t.out = s.out ++ [.reply pldmUpdateComponent 0 [0]])) ∧
      (b.update = true → ¬good → (∃ t, Machine.exec (.passComponentTable id n) s = .next t ∧ said t b pldmPassTable 0 [1]) ∧
        (∃ t, Machine.exec (.updateComponent id n) s = .next t ∧ said t b pldmUpdateComponent 0 [1]))) ∧
    (up → b.update = true → ∃ t, Machine.exec .activateFirmware s = .next t ∧ said t { b with update := false } pldmActivate 0 []) ∧
    (up → b.update = false → ∃ t, Machine.exec .activateFirmware s = .next t ∧ said t b pldmActivate 0x80 []) ∧
    -- a request before step 7, or one that comes before an earlier one is answered, is discarded
    (¬up → Machine.exec .requestUpdate s = .next s ∧ Machine.exec .activateFirmware s = .next s ∧
      ∀ id n, Machine.exec (.passComponentTable id n) s = .next s ∧ Machine.exec (.updateComponent id n) s = .next s) ∧
    -- DOE: a staging begins once the firmware runs, and is refused while another runs
    (∀ (bs : List Byte) (f : SectionFields), bs ≠ [] → bs.length ≤ 4096 →
      (b.staging ≠ 1#2 → (7 ≤ b.stage.toNat ∨ b.hold ≠ 0#8) → ∃ t, Machine.exec (.doeStagingObject 0 bs f) s = .next t ∧ t.boot.staging = 1#2 ∧
        t.boot.path = some false ∧ t.boot.stBytes = bs.length ∧ (if b.slot = true then t.boot.slotA else t.boot.slotB) = ⟨bs, none⟩) ∧
      (∀ n, b.staging ≠ 1#2 → (n ≠ 0 ∨ b.stage.toNat < 7 ∧ b.hold = 0#8) → Machine.exec (.doeStagingObject n bs f) s = .next s) ∧
      (b.staging = 1#2 → b.path = some false → b.stBytes + bs.length ≤ 0x2000000 → Machine.exec (.doeStagingObject b.stBytes bs f) s = .next { s with
        boot := put { b with stBytes := b.stBytes + bs.length, stLast := s.xtal } { idle with bytes := idle.bytes ++ bs } }) ∧
      (∀ n, b.staging = 1#2 → b.path = some true → (7 ≤ b.stage.toNat ∨ b.hold ≠ 0#8) →
        Machine.exec (.doeStagingObject n bs f) s = .next { s with out := s.out ++ [.reply 0x01 0x01 [b.otherWord.toNat]] })) ∧
    (∀ (f : SectionFields) (n : Nat), b.staging = 1#2 → b.path = some false →
      (newer f → ∃ t, Machine.exec (.doeStagingObject n [] f) s = .next t ∧ ended t { idle with fields := some f } 3#2 2#2 ∧ t.out = s.out ++ [.reply 0x01 0 [0x32]]) ∧
      (¬newer f → ∃ t, Machine.exec (.doeStagingObject n [] f) s = .next t ∧ ended t Slot.erased 2#2 0#2 ∧ t.out = s.out ++ [.reply 0x01 0 [0x20]])) ∧
    (∀ (f : SectionFields) (n : Nat), (b.staging ≠ 1#2 ∨ b.path ≠ some false) → Machine.exec (.doeStagingObject n [] f) s = .next s)

/-! ## Attestation, secrets, debug (spec/19) -/

/-- What SPDM answers, sessions and tenant secrets, the debug nonce, and IDE streams, while the management plane answers (R763 to R768, R774,
R778, R787).
Rests on the model's choice or reading in log entries 73, 130, 131, 132 and 177. -/
def Obligations.AttestationAndSessions : Prop :=
  ∀ (s : State) (v : Transport), (7 ≤ s.boot.stage.toNat ∨ s.boot.hold ≠ 0#8) →
    let said (i : Instr) (kind code : Nat) (body : List Nat) := Machine.exec i s = .next (s.spdm v kind code body)
    let a := s.sec.aliasKey
    let m := s.measurement
    let ss := s.sec.sessions
    -- an answer over DOE or MCTP, and over a link, where it goes on VC5 as a message between the link's ends
    (v = .doe ∨ v = .mctp → ∀ (u : State) kind code body, u.boot = s.boot → u.spdm v kind code body = u.emit (.reply kind code body)) ∧
    (∀ l, v = .fabric l → ∀ (u : State) kind code body, u.boot = s.boot → ((u.link l).st ≠ .up ∧ (u.link l).st ≠ .attest → u.spdm v kind code body = u) ∧
      ((u.link l).st = .up ∨ (u.link l).st = .attest → body.length ≤ 28 →
        u.spdm v kind code body = u.push l (u.mgmtMsg 0xFFFF#16 mgmtSpdm (natW kind :: natW code :: body.map natW)))) ∧
    -- measurements as DMTF blocks: index, specification 1, size, value type, value size, value; index 6 is a raw value of 8 bytes (R768)
    (let block (n : Nat) : List Nat := if n = 6 then [6, 1, 11, 0, 0x83, 8, 0] ++ (leBytes 8 (m 6)).map BitVec.toNat
        else [n, 1, 51, 0, [0, 0, 2, 1, 1, 3].getD n 0, 48, 0] ++ (beBytes 48 (m n)).map BitVec.toNat
     (said (.getMeasurements v 0#8) spdmMeasurements 0 [6, a]) ∧
     (∀ n : BitVec 8, 1 ≤ n.toNat → n.toNat ≤ 6 → said (.getMeasurements v n) spdmMeasurements 0 (1 :: block n.toNat ++ [a])) ∧
     (said (.getMeasurements v 0xFF#8) spdmMeasurements 0 (6 :: (block 1 ++ block 2 ++ block 3 ++ block 4 ++ block 5 ++ block 6) ++ [a]))) ∧
    (∀ n : BitVec 8, 6 < n.toNat → n ≠ 0xFF#8 → said (.getMeasurements v n) spdmMeasurements spdmInvalid []) ∧
    -- the chain of slot 0: the image's two certificates, then the alias certificate (R765)
    (∀ g c, s.secPolicy = some g → s.sec.aliasCert = some c → said (.getCertificate v 0#8) spdmCertificate 0
      ((g.chain ++ Config.aliasDer (Config.aliasTbs c.key c.ext) c.sig).map BitVec.toNat)) ∧
    (said (.challenge v 0#8) spdmChallenge 0 [a]) ∧
    (∀ n : BitVec 8, n ≠ 0#8 → said (.getCertificate v n) spdmCertificate spdmInvalid [] ∧ said (.challenge v n) spdmChallenge spdmInvalid []) ∧
    -- sessions (R766)
    (∀ b : Bool, ((∃ l, v = .fabric l) ∨ (ss.filter (fun x => x.via == v)).length < 4) → let n := s.keys + 1
      Machine.exec (.keyExchange v b) s = .next (State.spdm { s with keys := n, sec := { s.sec with sessions := ss ++ [⟨v, n, b, false, n⟩] } }
        v spdmKeyExchange 0 [n])) ∧
    (∀ b : Bool, (∀ l, v ≠ .fabric l) → 4 ≤ (ss.filter (fun x => x.via == v)).length → said (.keyExchange v b) spdmKeyExchange spdmBusy []) ∧
    (∀ n : Nat,
      let isIt (x : Session) (set_ : Bool) := x.via = v ∧ x.ident = n ∧ x.open_ = set_
      -- FINISH opens a session only when what it carries verifies; else the session is over
      ((∃ x ∈ ss, isIt x false) →
        Machine.exec (.finish v ⟨n, true⟩) s = .next (State.spdm { s with
          sec := { s.sec with sessions := ss.map (fun y => if y.via = v ∧ y.ident = n then { y with open_ := true } else y) } } v spdmFinish 0 []) ∧
        Machine.exec (.finish v ⟨n, false⟩) s = .next (State.spdm { s with
          sec := { s.sec with sessions := ss.filter (fun y => !(y.via == v && y.ident == n && y.open_ == false)) } } v spdmFinish spdmDecrypt [])) ∧
      ((∀ x ∈ ss, ¬isIt x false) → ∀ ok, said (.finish v ⟨n, ok⟩) spdmFinish spdmUnexpected []) ∧
      ((∃ x ∈ ss, isIt x true) → Machine.exec (.keyUpdate v n) s = .next (State.spdm { s with
        keys := s.keys + 1, sec := { s.sec with sessions := ss.map (fun y => if y.via = v ∧ y.ident = n then { y with key := s.keys + 1 } else y) } }
        v spdmKeyUpdate 0 [])) ∧
      ((∀ x ∈ ss, ¬isIt x true) → said (.keyUpdate v n) spdmKeyUpdate spdmUnexpected []) ∧
      -- tenant secrets (R774)
      (∀ (p : Pasid) (z : BitVec 256),
        ((∃ x ∈ ss, isIt x true ∧ x.mutualAuth = true) → Machine.exec (.setTenantSecret v (some n) p z) s = .next (State.spdm { s with
          sec := { s.sec with secrets := s.sec.secrets.filter (fun k => k.1 != p) ++ [(p, z)] } } v spdmVendor 0 [])) ∧
        ((∀ x ∈ ss, isIt x true → x.mutualAuth = false) → said (.setTenantSecret v (some n) p z) spdmVendor spdmUnexpected []) ∧
        said (.setTenantSecret v none p z) spdmVendor spdmUnexpected [])) ∧
    -- the nonce of debug authorisation (R787)
    ((v = .doe ∨ v = .mctp) → Machine.exec (.getDebugNonce v) s = .next { s with
      keys := s.keys + 1, sec := { s.sec with nonce := some (s.keys + 1, s.xtal) }
      out := s.out ++ [.reply spdmVendor 0 [(nonceOf (s.keys + 1)).toNat]] }) ∧
    (∀ l, v = .fabric l → Machine.exec (.getDebugNonce v) s = .next s ∧ ∀ k, Machine.exec (.debugEnter v k) s = .next s) ∧
    (∀ n w, s.sec.nonce = some (n, w) → (w + 60000000000 ≤ s.xtal → Machine.exec .debugNonceExpiry s = .next { s with sec := { s.sec with nonce := none } }) ∧
      (s.xtal < w + 60000000000 → Machine.exec .debugNonceExpiry s = .next s)) ∧
    (s.sec.nonce = none → Machine.exec .debugNonceExpiry s = .next s) ∧
    (∀ (n : Fin 5) (b : Bool), Machine.exec (.ideStreamStateChange n b) s = .next { s with sec := { s.sec with ide := s.sec.ide.set n b } })

/-- Debug: a token is accepted under every condition of R787 and then wipes the device before debug mode is on, or it is counted as denied;
and what the management plane may do to a core that debug mode has halted (R787 to R790).
Rests on the model's choice or reading in log entries 133, 134 and 136. -/
def Obligations.DebugMode : Prop :=
  (∀ (s : State) (v : Transport) (k : DebugToken), (7 ≤ s.boot.stage.toNat ∨ s.boot.hold ≠ 0#8) → (v = .doe ∨ v = .mctp) →
    let ok := (∃ g, s.secPolicy = some g ∧ g.debugAllow = true ∧ k.keyHash = g.debugKeyHash) ∧ k.magic = 0x47424457#32 ∧ k.version = 1#16 ∧
      k.rsv = 0#8 ∧ 0 < k.scope.toNat ∧ k.scope.toNat < 4 ∧ (∃ i, s.boot.inputs = some i ∧ RootFuses.deviceHash (StartInputs.root i) = k.device) ∧
      (∃ n w, s.sec.nonce = some (n, w) ∧ nonceOf n = k.nonce ∧ s.xtal < w + 60000000000) ∧ k.sigOk = true
    (ok → ∃ t, Machine.exec (.debugEnter v k) s = .next t ∧ t.sec.debug = true ∧ t.sec.scope = k.scope.setWidth 2 ∧ t.sec.nonce = none ∧
      t.sec.secrets = [] ∧ t.sec.jkeys = [] ∧ t.sec.sessions = [] ∧ t.ctxs = [] ∧ (∀ d : Fin 2, (t.caches[d]).lines = []) ∧
      (∀ l, (t.link l).st ≠ .up ∧ (t.link l).st ≠ .attest) ∧
      (∀ l, ((s.link l).st = .up ∨ (s.link l).st = .attest) → (t.link l).st = .down ∧ (t.link l).cause = 8#4) ∧
      (∀ l, (s.link l).st ≠ .up → (s.link l).st ≠ .attest → (t.link l).st = (s.link l).st) ∧ t.sec.devHbm = s.keys + 1 ∧
      t.sec.devSave = s.keys + 2) ∧
    (ok → ∃ t, Machine.exec (.debugEnter v k) s = .next t ∧
      ∀ x ∈ s.ctxs, ∀ c : CoreId, x.mask.getLsbD c.val = true → (t.core c).dmem = [] ∧ (t.core c).spad = [] ∧ (t.core c).vregs = []) ∧
    (¬ok → Machine.exec (.debugEnter v k) s = .next { s with
      sec := { s.sec with nonce := none, denied := satAdd s.sec.denied 1 }, out := s.out ++ [.reply spdmVendor spdmInvalid []] })) ∧
  (∀ (s : State) (c : CoreId),
    let k := s.core c
    let open_ := s.sec.debug = true ∧ s.sec.scope.getLsbD 1 = true ∧ (s.pstate = .run ∨ s.pstate = .idle) ∧ s.gated.getLsbD c.val = false ∧
      k.level = .firmware ∧ k.dfault = false ∧ (k.bank .firmware).trc = Cause.debugHalt.trc
    (open_ →
      (∀ r, Machine.exec (.debugCoreAccess c (.readReg r)) s = .next (s.emit (.debugData (leBytes 8 (k.reg r).toNat)))) ∧
      (∀ r w, Machine.exec (.debugCoreAccess c (.writeReg r w)) s = .next (s.setCore c (k.setReg r w))) ∧
      (∀ n r, csrOf .firmware n.toNat = some r → Machine.exec (.debugCoreAccess c (.readCsr n)) s =
        .next (s.emit (.debugData (leBytes 8 (k.csrRead (s.csrEnv c) r).toNat)))) ∧
      (∀ n r w, csrOf .firmware n.toNat = some r → Machine.exec (.debugCoreAccess c (.writeCsr n w)) s = .next (s.setCore c (k.csrWrite w r))) ∧
      (∀ a n, a + n ≤ 0x40000 → Machine.exec (.debugCoreAccess c (.readVec a n)) s = .next (s.emit (.debugData (k.vregs.getN a n)))) ∧
      (∀ a bs, a + bs.length ≤ 0x40000 → Machine.exec (.debugCoreAccess c (.writeVec a bs)) s = .next (s.setCore c { k with vregs := k.vregs.put a bs })) ∧
      (∀ j w, Machine.exec (.debugCoreAccess c (.writeMask j w)) s = .next (s.setCore c { k with masks := k.masks.set j w })) ∧
      (∀ j, Machine.exec (.debugCoreAccess c (.readMask j)) s = .next (s.emit (.debugData (leBytes 8192 (k.masks[j]).toNat)))) ∧
      (∀ a n, a + n ≤ 0x100000 → k.badImem = [] → Machine.exec (.debugCoreAccess c (.readMem .imem a n)) s = .next (s.emit (.debugData (k.imem.getN a n)))) ∧
      (∀ a n, a + n ≤ 0x40000 → k.badDmem = [] → Machine.exec (.debugCoreAccess c (.readMem .dmem a n)) s = .next (s.emit (.debugData (k.dmem.getN a n)))) ∧
      (∀ a bs, a + bs.length ≤ 0x40000 → k.badDmem = [] → ∃ t, Machine.exec (.debugCoreAccess c (.writeMem .dmem a bs)) s = .next t ∧
        (t.core c).dmem.getN a bs.length = bs ∧ (∀ x, x < a ∨ a + bs.length ≤ x → (t.core c).dmem.get x = k.dmem.get x) ∧
        (∀ d, d ≠ c → t.core d = s.core d))) ∧
    (¬open_ → ∀ a, Machine.exec (.debugCoreAccess c a) s = .next s))

/-! ## The management plane (spec/20) -/

/-- MCTP control, sensors and PDRs, events and effecters: what they answer and what they leave; and the tick edge, at which the readings are
published once in a tick and accepted actions take place (R793 to R803, R10).
Rests on the model's choice or reading in log entries 138, 140, 141, 143, 144, 145, 146, 166 and 167. -/
def Obligations.ManagementPlane : Prop :=
  ∀ s : State, (7 ≤ s.boot.stage.toNat ∨ s.boot.hold ≠ 0#8) →
    let m := s.mgmt
    let said (i : Instr) (kind code : Nat) (body : List Nat) := Machine.exec i s = .next (s.emit (.reply kind code body))
    let left (i : Instr) (v : Mgmt) (kind code : Nat) (body : List Nat) :=
      Machine.exec i s = .next { s with mgmt := v, out := s.out ++ [.reply kind code body] }
    let taken (i : Instr) (a : Action) := Machine.exec i s = .next { s with mgmt := { m with actions := [a] } }
    -- MCTP (R793 to R796)
    (∀ a : BitVec 7, (m.dyn = 0#7 → Machine.exec (.dynamicAddressAssign a) s = .next { s with mgmt := { m with dyn := a } }) ∧
      (m.dyn ≠ 0#7 → Machine.exec (.dynamicAddressAssign a) s = .next s)) ∧
    (∀ a : BitVec 8, left (.setEndpointId a) { m with eid := a } mctpSetEid 0 [a.toNat]) ∧ said .getEndpointId mctpGetEid 0 [m.eid.toNat] ∧
    said (.getMctpVersionSupport 0xFF#8) mctpVersions 0 [0xF1F3F000] ∧ said (.getMctpVersionSupport 0#8) mctpVersions 0 [0xF1F3F000] ∧
    (∀ a ∈ [1#8, 5#8, 6#8], ∃ n, Machine.exec (.getMctpVersionSupport a) s = .next (({ s with fresh := s.fresh + 1 }).emit (.reply mctpVersions 0 [n]))) ∧
    (∀ a : BitVec 8, a ∉ [0#8, 1#8, 5#8, 6#8, 0xFF#8] → said (.getMctpVersionSupport a) mctpVersions 0x80 []) ∧
    said .getMessageTypeSupport mctpTypes 0 [0, 1, 5, 6] ∧ Machine.exec .smbusPecFailure s = .next s ∧
    -- a PLDM request that comes before an earlier one is answered is discarded (R796)
    (m.actions ≠ [] → (∀ n, Machine.exec (.getSensorReading n) s = .next s ∧ Machine.exec (.setSensorThresholds n) s = .next s ∧
        Machine.exec (.getPdr n) s = .next s) ∧ (∀ a, Machine.exec (.setEventReceiver a) s = .next s) ∧
      Machine.exec .pollForPlatformEventMessage s = .next s ∧ Machine.exec .effecterColdRestart s = .next s ∧
      Machine.exec .effecterWarmReset s = .next s ∧ Machine.exec .effecterHeartOnly s = .next s ∧
      (∀ k, Machine.exec (.effecterSwapFeed k) s = .next s ∧ Machine.exec (.effecterCancelSwap k) s = .next s) ∧
      ∀ c, Machine.exec (.effecterDebugHalt c) s = .next s) ∧
    (m.actions = [] →
      -- sensors and records (R798, R799)
      (∀ p, m.pub = some p →
        let reads (n : BitVec 16) (v : Int) := said (.getSensorReading n) pldmReading 0 [0, (v % 2 ^ 32).toNat, p.stamp]
        reads 0x01#16 p.tickW ∧ reads 0x02#16 p.avg1s ∧ reads 0x03#16 p.energy ∧ reads 0x10#16 p.level ∧ reads 0x11#16 p.pstate ∧ reads 0x12#16 p.patina ∧
        reads 0x13#16 p.boot ∧
        (∀ n : Nat, n < 96 → ∀ d : Fin 2, ∀ v, (p.temps.die.getD d.val [])[n]? = some v → reads (BitVec.ofNat 16 (0x100 + 0x60 * d.val + n)) v) ∧
        (∀ n : Nat, n < 32 → ∀ d : Fin 2, ∀ v, (p.temps.tier.getD d.val [])[n]? = some v → reads (BitVec.ofNat 16 (0x1C0 + 32 * d.val + n)) v) ∧
        (∀ n : Nat, n < 8 → ∀ v, p.temps.hbm[n]? = some v → reads (BitVec.ofNat 16 (0x200 + n)) v) ∧
        (∀ n : Nat, n < 64 → ∀ v, p.temps.optic[n]? = some v → reads (BitVec.ofNat 16 (0x210 + n)) v) ∧
        (∀ l : LinkId, ∀ v, p.links[l.val]? = some v → reads (BitVec.ofNat 16 (0x400 + l.val)) v)) ∧
      (m.pub = none → ∀ n ∈ [0x01#16, 0x05#16, 0x13#16, 0x100#16, 0x300#16, 0x422#16], said (.getSensorReading n) pldmReading 0 [2]) ∧
      (∀ n ∈ [0x00#16, 0x08#16, 0x14#16, 0x208#16, 0x250#16, 0x308#16, 0x423#16], said (.getSensorReading n) pldmReading 0x80 []) ∧
      (∀ n, said (.setSensorThresholds n) pldmThresholds 0x05 []) ∧
      (∀ j : Nat, j < 192 → said (.getPdr (BitVec.ofNat 16 (0x100 + j))) pldmPdr 0 [0x100 + j, 1, 5, 105, 115]) ∧
      (∀ j ∈ [0x20, 0x22, 0x30, 0x37, 0x40, 0x5F], said (.getPdr (BitVec.ofNat 16 j)) pldmPdr 0 [j, 2]) ∧
      (∀ j ∈ [0x00#16, 0x23#16, 0x38#16, 0x60#16], said (.getPdr j) pldmPdr 0x82 []) ∧
      -- events (R800, R801)
      (∀ a : BitVec 8, left (.setEventReceiver a) { m with rcvr := some a } pldmEventReceiver 0 []) ∧
      (m.events = [] → said .pollForPlatformEventMessage pldmPoll 0 [] ∧ Machine.exec .platformEventMessage s = .next s) ∧
      (∀ code data rest, m.events = (code, data) :: rest → m.owed = 0 →
        left .pollForPlatformEventMessage { m with events := rest } pldmPoll 0 (code :: data.map BitVec.toNat) ∧
        (∀ r, m.rcvr = some r → Machine.exec .platformEventMessage s = .next { s with
          mgmt := { m with events := rest }, out := s.out ++ [.event r (m.dyn != 0#7) code data] }) ∧
        (m.rcvr = none → Machine.exec .platformEventMessage s = .next s)) ∧
      (∀ code data rest, m.events = (code, data) :: rest → m.owed ≠ 0 → left .pollForPlatformEventMessage
        { m with events := rest ++ [(0xC, [natW m.owed])], owed := 0 } pldmPoll 0 (code :: data.map BitVec.toNat)) ∧
      -- effecters (R802, R803)
      ((s.boot.staging ≠ 1#2 → taken .effecterColdRestart .coldRestart) ∧ (s.boot.staging = 1#2 → said .effecterColdRestart pldmEffecter 0x81 [0x20]) ∧
        taken .effecterWarmReset .warmReset ∧
        (s.ctxs = [] → taken .effecterHeartOnly .heartOnly) ∧ (s.ctxs ≠ [] → said .effecterHeartOnly pldmEffecter 0x80 [0x22]) ∧
        (∀ k, ((s.feed k).st = .draining → taken (.effecterCancelSwap k) (.cancelSwap k)) ∧
          ((s.feed k).st ≠ .draining → said (.effecterCancelSwap k) pldmEffecter 0x83 [0x34 + k.val]) ∧
          ((s.feed k).st = .on → s.swapBusy k = false → s.swapStrands k = false → taken (.effecterSwapFeed k) (.swapFeed k)) ∧
          ((s.feed k).st ≠ .on → s.swapBusy k = false → s.swapStrands k = false → said (.effecterSwapFeed k) pldmEffecter 0x83 [0x30 + k.val]) ∧
          (s.swapBusy k = true → Machine.exec (.effecterSwapFeed k) s =
            .next ((s.setFeed k { s.feed k with reason := 6#4 }).emit (.reply pldmEffecter 0x83 [0x30 + k.val]))) ∧
          (s.swapBusy k = false → s.swapStrands k = true → Machine.exec (.effecterSwapFeed k) s =
            .next ((s.setFeed k { s.feed k with reason := 5#4 }).emit (.reply pldmEffecter 0x83 [0x30 + k.val])))) ∧
        (∀ c, (s.sec.debug = true → s.sec.scope.getLsbD 1 = true → taken (.effecterDebugHalt c) (.debugHalt c)) ∧
          (s.sec.debug = false ∨ s.sec.scope.getLsbD 1 = false → said (.effecterDebugHalt c) pldmEffecter 0x82 [0x40 + c.val])))) ∧
    -- the tick edge (R682, R798, R802)
    let now := s.xtal * 4 / 1953125
    (∀ (v : Temps) (w : Nat) (vs as_ : List Nat), s.pstate ≠ .off → m.pubTick ≠ some now →
      let p := s.power.measure w
      p.tickW = BitVec.ofNat 16 (min w 65535) ∧ p.energy = s.power.energy + w ∧
      (m.actions = [] → ∃ q, Machine.exec (.telemetryPublish v w vs as_) s = .next { s with power := p, mgmt := { m with pubTick := some now, pub := some q } } ∧
        q.stamp = s.time ∧ q.tickW = p.tickW.toNat ∧ q.energy = p.energy * 125 / 256 ∧ q.volts = vs ∧ q.amps = as_ ∧ q.temps = v ∧
        q.level = s.power.level.toNat ∧ q.patina = s.rep.level.toNat ∧
        q.boot = (if s.boot.hold = 0#8 then s.boot.stage.toNat else 0x100 + s.boot.hold.toNat)) ∧
      (∀ c : CoreId, m.actions = [.debugHalt c] → s.sec.debug = true → s.sec.scope.getLsbD 1 = true →
        ∃ t, Machine.exec (.telemetryPublish v w vs as_) s = .next t ∧ (t.core c).pHalt = true ∧ t.mgmt.actions = [] ∧
          t.out = s.out ++ [.reply pldmEffecter 0 [0x40 + c.val]] ∧ ∀ d, d ≠ c → t.core d = s.core d)) ∧
    (s.pstate = .off ∨ m.pubTick = some now → ∀ v w vs as_, Machine.exec (.telemetryPublish v w vs as_) s = .next s)

/-- Host register writes: each register's own effect, and no effect of a write that is not aligned or that no register takes (R808; R434,
R452, R499, R613, R711). FR_BASE and FR_HEAD: the address is taken only while the ring is off, switching it on restarts the counts, and a
head that would leave more than 256 entries is ignored (R499, R500).
Rests on the model's choice or reading in log entries 147 and 148. -/
def Obligations.HostRegisterWrites : Prop :=
  ∀ (s : State) (v : Word),
    let put (off : Nat) := Machine.exec (.registerWrite (BitVec.ofNat 25 off) v) s
    (∀ off : BitVec 25, off.toNat % 8 ≠ 0 → Machine.exec (.registerWrite off v) s = .next s) ∧
    (put 0xA000 = .next { s with power := { s.power with depart := s.power.depart && !v.getLsbD 18 } }) ∧
    (put 0x5020 = .next { s with ring := { s.ring with ovec := (v >>> 8).setWidth 8, fvec := v.setWidth 8 } }) ∧
    (∀ off ∈ [0x5010, 0x5018, 0x0000, 0x0008, 0x7000, 0xA008], put off = .next s) ∧
    (∀ d : Fin 2, put (0x4008 + 0x100 * d.val) = .next (s.setCache d { s.cache d with wrej := (s.cache d).wrej && !v.getLsbD 6 })) ∧
    (∀ q : QueueId, let x := s.queue q
      (x.en = false → x.cur = none → put (0x8000 + 0x20 * q.val) = .next (s.setQueue q { x with addr := (v >>> 12).setWidth 52 })) ∧
      (x.en = true ∨ x.cur ≠ none → put (0x8000 + 0x20 * q.val) = .next s) ∧
      put (0x8000 + 0x20 * q.val + 8) = Machine.exec (.cqCtrlWrite q v) s ∧
      put (0x8000 + 0x20 * q.val + 24) = .next (s.setQueue q { x with dberr := x.dberr && !v.getLsbD 17 })) ∧
    (∀ k : FeedId, (v.getLsbD 0 = true → v.getLsbD 1 = false → put (0x6800 + 0x40 * k.val) = Machine.exec (.swap k) s) ∧
      (v.getLsbD 0 = false → v.getLsbD 1 = true → put (0x6800 + 0x40 * k.val) = Machine.exec (.cancel k) s) ∧
      (v.getLsbD 0 = true → v.getLsbD 1 = true → ∀ t, Machine.exec (.swap k) s = .next t → put (0x6800 + 0x40 * k.val) = Machine.exec (.cancel k) t) ∧
      (v.getLsbD 0 = false → v.getLsbD 1 = false → put (0x6800 + 0x40 * k.val) = .next s)) ∧
    (∀ n : Fin 256, let h := s.htg[n]
      (h.running = false → put (0x100000 + 0x40 * n.val + 8) = .next (s.setHtg n { h with begin_ := v.setWidth 32, end_ := (v >>> 32).setWidth 32 }) ∧
        put (0x100000 + 0x40 * n.val + 16) = .next (s.setHtg n { h with seed := v })) ∧
      (h.running = true → put (0x100000 + 0x40 * n.val + 8) = .next s ∧ put (0x100000 + 0x40 * n.val + 16) = .next s) ∧
      put (0x100000 + 0x40 * n.val + 24) = .next (s.setHtg n { h with rej := h.rej && !v.getLsbD 3, done := h.done && !v.getLsbD 1 })) ∧
    (put 0x5000 = Machine.exec (.frBaseWrite v) s ∧ put 0x5008 = Machine.exec (.frHeadWrite v) s) ∧
    -- FR_BASE and FR_HEAD (R499, R500)
    (s.ring.held = [] →
      let r := s.ring
      (r.en = false → v.getLsbD 0 = true → Machine.exec (.frBaseWrite v) s =
        .next { s with ring := { r with addr := BitVec.ofNat 50 (v.toNat / 2 ^ 14), en := true, tail := r.head, cedrop := 0#32, ovf := 0#32 } }) ∧
      (r.en = false → v.getLsbD 0 = false → Machine.exec (.frBaseWrite v) s = .next { s with ring := { r with addr := BitVec.ofNat 50 (v.toNat / 2 ^ 14) } }) ∧
      (r.en = true → Machine.exec (.frBaseWrite v) s = .next { s with ring := { r with en := v.getLsbD 0 } }) ∧
      ((r.tail.toNat + 512 - v.toNat % 512) % 512 ≤ 256 →
        Machine.exec (.frHeadWrite v) s = .next { s with ring := { r with head := BitVec.ofNat 9 v.toNat } }) ∧
      (256 < (r.tail.toNat + 512 - v.toNat % 512) % 512 → Machine.exec (.frHeadWrite v) s = .next s))

/-! ## Reset -/

/-- The device right after reset: no supply, every core in reset at Firmware level with the values of R68, R110, R167 and R375, the registers
of R427, R499, R512, R564, R613, R665 and R731 at theirs, memories with nothing listed, store buffers empty, and the fault ring within its bounds.
Rests on the model's choice or reading in log entries 9, 10, 11 and 12. -/
def Obligations.ResetState : Prop :=
  let s := State.reset
  s.pending = [] ∧ s.out = [] ∧ s.invals = [] ∧ s.pstate = .off ∧ s.gated = 0xFFFFFFFF#32 ∧ s.hbm = [] ∧ s.hbm.wf = true ∧ s.ctxs = [] ∧ s.ring.bounded ∧ s.ring.en = false ∧
  (∀ c : CoreId, let k := s.core c
    k.pc = 0xF0000#20 ∧ k.tlvl = ⟨false, false, 0#2, .firmware⟩ ∧ k.fmode = ⟨0#10, false, 0#3⟩ ∧ k.fflags = 0#10 ∧ k.vl = 0#18 ∧ k.ew = 0b011#3 ∧
    k.grp = 0#2 ∧ (k.bank .firmware).base = 0x1E1#9 ∧ (k.bank .runtime).base = 0#9 ∧ (k.bank .kernel).base = 0#9 ∧ k.dmem.wf = true ∧
    k.imem.wf = true ∧ k.spad.wf = true ∧ k.vregs.wf = true ∧ k.sb = [] ∧ k.bufferOk) ∧
  (∀ d : Fin 2, (s.caches[d]).en = true ∧ (s.caches[d]).lines = [] ∧ (s.caches[d]).classes[7].policy = 1#2) ∧
  (∀ l : LinkId, (s.link l).st = .unmapped ∧ (s.link l).partner = 0xFFFF#16) ∧ (∀ k : FeedId, (s.feed k).st = .absent) ∧
  (∀ q : QueueId, (s.queue q).en = false ∧ (s.queue q).log2n = 4#5) ∧ s.journal.tail = 1#64 ∧ s.journal.entries = [] ∧ s.boot.stage = 0#4 ∧
  s.boot.hold = 0#8 ∧ s.sec.debug = false

end Statements
end

