-- ==== Sys2Proof/Laws/Core.lean ====
section
/-! SUPPORT. What the shared operations of a core do: registers, the ends of an instruction, one instruction on a core that is
ready for it. -/

namespace Sys2Proof.Machine

/-! ## Cores of a state -/

@[simp] theorem core_setCore (s : State) (c : CoreId) (k : Core) : (s.setCore c k).core c = k := by
  simp [State.core, State.setCore]

theorem core_setCore_ne (s : State) (c d : CoreId) (k : Core) (h : c ≠ d) : (s.setCore c k).core d = s.core d := by
  have : c.val ≠ d.val := fun e => h (Fin.ext e)
  simp [State.core, State.setCore, this]

@[simp] theorem setCore_setCore (s : State) (c : CoreId) (k k' : Core) : (s.setCore c k).setCore c k' = s.setCore c k' := by
  simp [State.setCore]

@[simp] theorem setCore_core (s : State) (c : CoreId) : s.setCore c (s.core c) = s := by
  simp [State.setCore, State.core]

/-! ## Registers (02:R63, R64) -/

@[simp] theorem setReg_pc (k : Core) (r : Reg) (v : Word) : (k.setReg r v).pc = k.pc := by
  unfold Core.setReg; split <;> (try split) <;> (try unfold Core.setSp) <;> (try split) <;> rfl

@[simp] theorem setReg_stale (k : Core) (r : Reg) (v : Word) : (k.setReg r v).stale = k.stale := by
  unfold Core.setReg; split <;> (try split) <;> (try unfold Core.setSp) <;> (try split) <;> rfl

@[simp] theorem setReg_fmode (k : Core) (r : Reg) (v : Word) : (k.setReg r v).fmode = k.fmode := by
  unfold Core.setReg; split <;> (try split) <;> (try unfold Core.setSp) <;> (try split) <;> rfl

@[simp] theorem setReg_fflags (k : Core) (r : Reg) (v : Word) : (k.setReg r v).fflags = k.fflags := by
  unfold Core.setReg; split <;> (try split) <;> (try unfold Core.setSp) <;> (try split) <;> rfl

/-! ## Ends of an instruction -/

/-- With no flag raised nothing joins FFLAGS or the record. -/
@[simp] theorem raise_none (k : Core) (a : BitVec 20) : k.raise 0#10 a = k := by
  unfold Core.raise; simp

/-- An instruction that completes with no flag leaves the core past it (02:R87, R98). -/
theorem retire_past (k : Core) (len : Nat) (h : k.pc.toNat + len < 0x100000) : k.retire len 0#10 = k.past len := by
  simp [Core.retire, Core.retireTo, Core.advance, Core.past, h]

/-- With no trap enabled, an instruction that completes adds its flags to FFLAGS (02:R105, 09:R399). -/
theorem retire_quiet (k : Core) (len : Nat) (fl : Flags) (q : k.quiet) (h : k.pc.toNat + len < 0x100000) :
    k.retire len fl = ({ k with fflags := k.fflags ||| fl }).past len := by
  have q' : k.fmode.ten = 0#10 := q
  simp [Core.retire, Core.retireTo, Core.raise, Core.advance, Core.past, h, q']

/-- An instruction no strips of which left flags for its end ends as it does by itself (09:R404). -/
theorem continued_plain {k : Core} (h : k.parts.all (fun p => p.1 != k.pc) = true) (r : Core × Ending) : k.continued r = r := by
  have e : k.parts.filter (fun p => p.1 == k.pc) = [] := by
    rw [List.filter_eq_nil_iff]; intro p m; simpa using List.all_eq_true.mp h p m
  obtain ⟨k', e'⟩ := r
  cases e' <;> simp [Core.continued, Core.contFlags, e]

/-- A transfer to a good target. -/
theorem transfer_ok (k k' : Core) (t : Word) (h : targetOk t) : k.transfer k' t = k'.atTarget t := by
  simp [Core.transfer, Core.atTarget, h.1, h.2]

/-- A transfer to a bad one (02:R97). -/
theorem transfer_bad (k k' : Core) (t : Word) (h : ¬ targetOk t) : k.transfer k' t = k.takeTrap .fetch t k.pcWord := by
  have : ¬ (t.toNat % 4 = 0 ∧ t.toNat < 0x100000) := h
  simp [Core.transfer]
  intro a b; exact absurd ⟨a, b⟩ this

/-! ## Uncorrectable words found (09:R397) -/

/-- A core that found none beyond those it had leaves nothing to count. -/
theorem noteFound_same {s : State} {c : CoreId} {n : Nat} (h : (s.core c).found.length ≤ n) : s.noteFound c n = s := by
  have e : (s.core c).found.take n = (s.core c).found := List.take_of_length_le h
  have e' : (s.core c).found.drop n = [] := List.drop_of_length_le h
  simp only [State.noteFound, e, e', State.updCore, List.foldl]
  exact setCore_core s c

@[simp] theorem raise_found (k : Core) (fl : Flags) (a : BitVec 20) : (k.raise fl a).found = k.found := by
  unfold Core.raise; (try dsimp only); (repeat' split) <;> rfl

@[simp] theorem setReg_found (k : Core) (r : Reg) (v : Word) : (k.setReg r v).found = k.found := by
  unfold Core.setReg; split <;> (try split) <;> (try unfold Core.setSp) <;> (try split) <;> rfl

/-! ## One instruction -/

/-- The instruction of a core that is ready runs its own effect, which ends as its ending says. -/
theorem instr_ready {s : State} {c : CoreId} {len : Nat} (h : s.ready c len) (body : State → State × Ending) :
    s.instr c len body = (body s).1.endInstr c (s.core c) len (body s).2 := by
  obtain ⟨h1, h2, h3, -⟩ := h
  simp [State.instr, h1, h2, h3]

/-- The instruction of a core that does not issue changes nothing. -/
theorem instr_stopped {s : State} {c : CoreId} {len : Nat} (h : s.issues c = false) (body : State → State × Ending) :
    s.instr c len body = s := by
  simp [State.instr, h]

theorem coreInstr_ready {s : State} {c : CoreId} {len : Nat} (h : s.ready c len) (body : Core → Core × Ending) :
    s.coreInstr c len body = (s.setCore c (body (s.core c)).1).endInstr c (s.core c) len (body (s.core c)).2 := by
  simp [State.coreInstr, instr_ready h]

/-- An instruction whose effect is `k'` and which completes with no flag. -/
theorem coreInstr_past {s : State} {c : CoreId} {len : Nat} {body : Core → Core × Ending} {k' : Core} (h : s.ready c len)
    (e : body (s.core c) = (k', .retire 0#10)) (p : k'.pc = (s.core c).pc) (w : k'.found = (s.core c).found) :
    s.coreInstr c len body = s.setCore c (k'.past len) := by
  have r : k'.retire len 0#10 = k'.past len := retire_past _ _ (by rw [p]; exact h.2.2.2)
  rw [coreInstr_ready h, e]
  simp only [State.endInstr, Core.finish, State.updCore, core_setCore, setCore_setCore, r]
  exact noteFound_same (by simp [Core.past, w])

/-- One that completes with flags and no trap enabled. -/
theorem coreInstr_quiet {s : State} {c : CoreId} {len : Nat} {body : Core → Core × Ending} {k' : Core} {fl : Flags} (h : s.ready c len)
    (e : body (s.core c) = (k', .retire fl)) (p : k'.pc = (s.core c).pc) (q : k'.fmode = (s.core c).fmode)
    (t : (s.core c).quiet) (w : k'.found = (s.core c).found) :
    s.coreInstr c len body = s.setCore c (({ k' with fflags := k'.fflags ||| fl }).past len) := by
  have r : k'.retire len fl = ({ k' with fflags := k'.fflags ||| fl }).past len :=
    retire_quiet _ _ _ ((congrArg Fmode.ten q).trans t) (by rw [p]; exact h.2.2.2)
  rw [coreInstr_ready h, e]
  simp only [State.endInstr, Core.finish, State.updCore, core_setCore, setCore_setCore, r]
  exact noteFound_same (by simp [Core.past, w])

/-- One that ends in a trap, whose entry may find uncorrectable words where it drains the store buffer. -/
theorem coreInstr_trap {s : State} {c : CoreId} {len : Nat} {body : Core → Core × Ending} {k' : Core} {x : Cause} {v : Word}
    (h : s.ready c len) (e : body (s.core c) = (k', .trap x v)) :
    s.coreInstr c len body = (s.setCore c (k'.takeTrap x v (s.core c).pcWord)).noteFound c (s.core c).found.length := by
  rw [coreInstr_ready h, e]; simp [State.endInstr, Core.finish, State.updCore]

/-- One that traps with the core as it was. -/
theorem coreInstr_traps {s : State} {c : CoreId} {len : Nat} {body : Core → Core × Ending} {x : Cause} {v : Word}
    (h : s.ready c len) (e : body (s.core c) = (s.core c, .trap x v)) : s.coreInstr c len body = s.traps c x v := by
  rw [coreInstr_trap h e]; rfl

/-- One that transfers control. -/
theorem coreInstr_goto {s : State} {c : CoreId} {len : Nat} {body : Core → Core × Ending} {k' : Core} {t : Word}
    (h : s.ready c len) (e : body (s.core c) = (k', .goto t)) (o : targetOk t) (w : k'.found = (s.core c).found) :
    s.coreInstr c len body = s.setCore c (k'.atTarget t) := by
  rw [coreInstr_ready h, e]
  simp only [State.endInstr, Core.finish, State.updCore, core_setCore, setCore_setCore, transfer_ok _ _ _ o]
  exact noteFound_same (by simp [Core.atTarget, w])

end Sys2Proof.Machine
end

