-- ==== Sys2Proof/Laws/State.lean ====
section
/-! SUPPORT. The named updates of State, field by field: each changes one field and no other. -/

namespace Sys2Proof.Machine

variable (s : State)

/-! ## setCore -/

@[simp] theorem setCore_pending (c : CoreId) (k : Core) : (s.setCore c k).pending = s.pending := rfl
theorem setCore_cores (c : CoreId) (k : Core) : (s.setCore c k).cores = s.cores.set c k := rfl
@[simp] theorem setCore_pstate (c : CoreId) (k : Core) : (s.setCore c k).pstate = s.pstate := rfl
@[simp] theorem setCore_gated (c : CoreId) (k : Core) : (s.setCore c k).gated = s.gated := rfl
@[simp] theorem setCore_time (c : CoreId) (k : Core) : (s.setCore c k).time = s.time := rfl
@[simp] theorem setCore_us (c : CoreId) (k : Core) : (s.setCore c k).us = s.us := rfl
@[simp] theorem setCore_fresh (c : CoreId) (k : Core) : (s.setCore c k).fresh = s.fresh := rfl
@[simp] theorem setCore_keys (c : CoreId) (k : Core) : (s.setCore c k).keys = s.keys := rfl
@[simp] theorem setCore_out (c : CoreId) (k : Core) : (s.setCore c k).out = s.out := rfl
@[simp] theorem setCore_caches (c : CoreId) (k : Core) : (s.setCore c k).caches = s.caches := rfl
@[simp] theorem setCore_hbm (c : CoreId) (k : Core) : (s.setCore c k).hbm = s.hbm := rfl
@[simp] theorem setCore_hbmBad (c : CoreId) (k : Core) : (s.setCore c k).hbmBad = s.hbmBad := rfl
@[simp] theorem setCore_hbmKeys (c : CoreId) (k : Core) : (s.setCore c k).hbmKeys = s.hbmKeys := rfl
@[simp] theorem setCore_htg (c : CoreId) (k : Core) : (s.setCore c k).htg = s.htg := rfl
@[simp] theorem setCore_hbmTemps (c : CoreId) (k : Core) : (s.setCore c k).hbmTemps = s.hbmTemps := rfl
@[simp] theorem setCore_chans (c : CoreId) (k : Core) : (s.setCore c k).chans = s.chans := rfl
@[simp] theorem setCore_tlbs (c : CoreId) (k : Core) : (s.setCore c k).tlbs = s.tlbs := rfl
@[simp] theorem setCore_ring (c : CoreId) (k : Core) : (s.setCore c k).ring = s.ring := rfl
@[simp] theorem setCore_invals (c : CoreId) (k : Core) : (s.setCore c k).invals = s.invals := rfl
@[simp] theorem setCore_ats (c : CoreId) (k : Core) : (s.setCore c k).ats = s.ats := rfl
@[simp] theorem setCore_pri (c : CoreId) (k : Core) : (s.setCore c k).pri = s.pri := rfl
@[simp] theorem setCore_priStopped (c : CoreId) (k : Core) : (s.setCore c k).priStopped = s.priStopped := rfl
@[simp] theorem setCore_links (c : CoreId) (k : Core) : (s.setCore c k).links = s.links := rfl
@[simp] theorem setCore_fab (c : CoreId) (k : Core) : (s.setCore c k).fab = s.fab := rfl
@[simp] theorem setCore_ctxs (c : CoreId) (k : Core) : (s.setCore c k).ctxs = s.ctxs := rfl
@[simp] theorem setCore_queues (c : CoreId) (k : Core) : (s.setCore c k).queues = s.queues := rfl
@[simp] theorem setCore_journal (c : CoreId) (k : Core) : (s.setCore c k).journal = s.journal := rfl
@[simp] theorem setCore_rep (c : CoreId) (k : Core) : (s.setCore c k).rep = s.rep := rfl
@[simp] theorem setCore_left (c : CoreId) (k : Core) : (s.setCore c k).left = s.left := rfl
@[simp] theorem setCore_feeds (c : CoreId) (k : Core) : (s.setCore c k).feeds = s.feeds := rfl
@[simp] theorem setCore_power (c : CoreId) (k : Core) : (s.setCore c k).power = s.power := rfl
@[simp] theorem setCore_boot (c : CoreId) (k : Core) : (s.setCore c k).boot = s.boot := rfl
@[simp] theorem setCore_sec (c : CoreId) (k : Core) : (s.setCore c k).sec = s.sec := rfl
@[simp] theorem setCore_mgmt (c : CoreId) (k : Core) : (s.setCore c k).mgmt = s.mgmt := rfl

/-! ## updCore -/

@[simp] theorem updCore_pending (c : CoreId) (f : Core → Core) : (s.updCore c f).pending = s.pending := rfl
theorem updCore_cores (c : CoreId) (f : Core → Core) : (s.updCore c f).cores = s.cores.set c (f (s.core c)) := rfl
@[simp] theorem updCore_pstate (c : CoreId) (f : Core → Core) : (s.updCore c f).pstate = s.pstate := rfl
@[simp] theorem updCore_gated (c : CoreId) (f : Core → Core) : (s.updCore c f).gated = s.gated := rfl
@[simp] theorem updCore_time (c : CoreId) (f : Core → Core) : (s.updCore c f).time = s.time := rfl
@[simp] theorem updCore_us (c : CoreId) (f : Core → Core) : (s.updCore c f).us = s.us := rfl
@[simp] theorem updCore_fresh (c : CoreId) (f : Core → Core) : (s.updCore c f).fresh = s.fresh := rfl
@[simp] theorem updCore_keys (c : CoreId) (f : Core → Core) : (s.updCore c f).keys = s.keys := rfl
@[simp] theorem updCore_out (c : CoreId) (f : Core → Core) : (s.updCore c f).out = s.out := rfl
@[simp] theorem updCore_caches (c : CoreId) (f : Core → Core) : (s.updCore c f).caches = s.caches := rfl
@[simp] theorem updCore_hbm (c : CoreId) (f : Core → Core) : (s.updCore c f).hbm = s.hbm := rfl
@[simp] theorem updCore_hbmBad (c : CoreId) (f : Core → Core) : (s.updCore c f).hbmBad = s.hbmBad := rfl
@[simp] theorem updCore_hbmKeys (c : CoreId) (f : Core → Core) : (s.updCore c f).hbmKeys = s.hbmKeys := rfl
@[simp] theorem updCore_htg (c : CoreId) (f : Core → Core) : (s.updCore c f).htg = s.htg := rfl
@[simp] theorem updCore_hbmTemps (c : CoreId) (f : Core → Core) : (s.updCore c f).hbmTemps = s.hbmTemps := rfl
@[simp] theorem updCore_chans (c : CoreId) (f : Core → Core) : (s.updCore c f).chans = s.chans := rfl
@[simp] theorem updCore_tlbs (c : CoreId) (f : Core → Core) : (s.updCore c f).tlbs = s.tlbs := rfl
@[simp] theorem updCore_ring (c : CoreId) (f : Core → Core) : (s.updCore c f).ring = s.ring := rfl
@[simp] theorem updCore_invals (c : CoreId) (f : Core → Core) : (s.updCore c f).invals = s.invals := rfl
@[simp] theorem updCore_ats (c : CoreId) (f : Core → Core) : (s.updCore c f).ats = s.ats := rfl
@[simp] theorem updCore_pri (c : CoreId) (f : Core → Core) : (s.updCore c f).pri = s.pri := rfl
@[simp] theorem updCore_priStopped (c : CoreId) (f : Core → Core) : (s.updCore c f).priStopped = s.priStopped := rfl
@[simp] theorem updCore_links (c : CoreId) (f : Core → Core) : (s.updCore c f).links = s.links := rfl
@[simp] theorem updCore_fab (c : CoreId) (f : Core → Core) : (s.updCore c f).fab = s.fab := rfl
@[simp] theorem updCore_ctxs (c : CoreId) (f : Core → Core) : (s.updCore c f).ctxs = s.ctxs := rfl
@[simp] theorem updCore_queues (c : CoreId) (f : Core → Core) : (s.updCore c f).queues = s.queues := rfl
@[simp] theorem updCore_journal (c : CoreId) (f : Core → Core) : (s.updCore c f).journal = s.journal := rfl
@[simp] theorem updCore_rep (c : CoreId) (f : Core → Core) : (s.updCore c f).rep = s.rep := rfl
@[simp] theorem updCore_left (c : CoreId) (f : Core → Core) : (s.updCore c f).left = s.left := rfl
@[simp] theorem updCore_feeds (c : CoreId) (f : Core → Core) : (s.updCore c f).feeds = s.feeds := rfl
@[simp] theorem updCore_power (c : CoreId) (f : Core → Core) : (s.updCore c f).power = s.power := rfl
@[simp] theorem updCore_boot (c : CoreId) (f : Core → Core) : (s.updCore c f).boot = s.boot := rfl
@[simp] theorem updCore_sec (c : CoreId) (f : Core → Core) : (s.updCore c f).sec = s.sec := rfl
@[simp] theorem updCore_mgmt (c : CoreId) (f : Core → Core) : (s.updCore c f).mgmt = s.mgmt := rfl

/-! ## emit -/

@[simp] theorem emit_pending (o : Out) : (s.emit o).pending = s.pending := rfl
@[simp] theorem emit_cores (o : Out) : (s.emit o).cores = s.cores := rfl
@[simp] theorem emit_pstate (o : Out) : (s.emit o).pstate = s.pstate := rfl
@[simp] theorem emit_gated (o : Out) : (s.emit o).gated = s.gated := rfl
@[simp] theorem emit_time (o : Out) : (s.emit o).time = s.time := rfl
@[simp] theorem emit_us (o : Out) : (s.emit o).us = s.us := rfl
@[simp] theorem emit_fresh (o : Out) : (s.emit o).fresh = s.fresh := rfl
@[simp] theorem emit_keys (o : Out) : (s.emit o).keys = s.keys := rfl
theorem emit_out (o : Out) : (s.emit o).out = s.out ++ [o] := rfl
@[simp] theorem emit_caches (o : Out) : (s.emit o).caches = s.caches := rfl
@[simp] theorem emit_hbm (o : Out) : (s.emit o).hbm = s.hbm := rfl
@[simp] theorem emit_hbmBad (o : Out) : (s.emit o).hbmBad = s.hbmBad := rfl
@[simp] theorem emit_hbmKeys (o : Out) : (s.emit o).hbmKeys = s.hbmKeys := rfl
@[simp] theorem emit_htg (o : Out) : (s.emit o).htg = s.htg := rfl
@[simp] theorem emit_hbmTemps (o : Out) : (s.emit o).hbmTemps = s.hbmTemps := rfl
@[simp] theorem emit_chans (o : Out) : (s.emit o).chans = s.chans := rfl
@[simp] theorem emit_tlbs (o : Out) : (s.emit o).tlbs = s.tlbs := rfl
@[simp] theorem emit_ring (o : Out) : (s.emit o).ring = s.ring := rfl
@[simp] theorem emit_invals (o : Out) : (s.emit o).invals = s.invals := rfl
@[simp] theorem emit_ats (o : Out) : (s.emit o).ats = s.ats := rfl
@[simp] theorem emit_pri (o : Out) : (s.emit o).pri = s.pri := rfl
@[simp] theorem emit_priStopped (o : Out) : (s.emit o).priStopped = s.priStopped := rfl
@[simp] theorem emit_links (o : Out) : (s.emit o).links = s.links := rfl
@[simp] theorem emit_fab (o : Out) : (s.emit o).fab = s.fab := rfl
@[simp] theorem emit_ctxs (o : Out) : (s.emit o).ctxs = s.ctxs := rfl
@[simp] theorem emit_queues (o : Out) : (s.emit o).queues = s.queues := rfl
@[simp] theorem emit_journal (o : Out) : (s.emit o).journal = s.journal := rfl
@[simp] theorem emit_rep (o : Out) : (s.emit o).rep = s.rep := rfl
@[simp] theorem emit_left (o : Out) : (s.emit o).left = s.left := rfl
@[simp] theorem emit_feeds (o : Out) : (s.emit o).feeds = s.feeds := rfl
@[simp] theorem emit_power (o : Out) : (s.emit o).power = s.power := rfl
@[simp] theorem emit_boot (o : Out) : (s.emit o).boot = s.boot := rfl
@[simp] theorem emit_sec (o : Out) : (s.emit o).sec = s.sec := rfl
@[simp] theorem emit_mgmt (o : Out) : (s.emit o).mgmt = s.mgmt := rfl

/-! ## setCtx -/

@[simp] theorem setCtx_pending (x : Context) : (s.setCtx x).pending = s.pending := rfl
@[simp] theorem setCtx_cores (x : Context) : (s.setCtx x).cores = s.cores := rfl
@[simp] theorem setCtx_pstate (x : Context) : (s.setCtx x).pstate = s.pstate := rfl
@[simp] theorem setCtx_gated (x : Context) : (s.setCtx x).gated = s.gated := rfl
@[simp] theorem setCtx_time (x : Context) : (s.setCtx x).time = s.time := rfl
@[simp] theorem setCtx_us (x : Context) : (s.setCtx x).us = s.us := rfl
@[simp] theorem setCtx_fresh (x : Context) : (s.setCtx x).fresh = s.fresh := rfl
@[simp] theorem setCtx_keys (x : Context) : (s.setCtx x).keys = s.keys := rfl
@[simp] theorem setCtx_out (x : Context) : (s.setCtx x).out = s.out := rfl
@[simp] theorem setCtx_caches (x : Context) : (s.setCtx x).caches = s.caches := rfl
@[simp] theorem setCtx_hbm (x : Context) : (s.setCtx x).hbm = s.hbm := rfl
@[simp] theorem setCtx_hbmBad (x : Context) : (s.setCtx x).hbmBad = s.hbmBad := rfl
@[simp] theorem setCtx_hbmKeys (x : Context) : (s.setCtx x).hbmKeys = s.hbmKeys := rfl
@[simp] theorem setCtx_htg (x : Context) : (s.setCtx x).htg = s.htg := rfl
@[simp] theorem setCtx_hbmTemps (x : Context) : (s.setCtx x).hbmTemps = s.hbmTemps := rfl
@[simp] theorem setCtx_chans (x : Context) : (s.setCtx x).chans = s.chans := rfl
@[simp] theorem setCtx_tlbs (x : Context) : (s.setCtx x).tlbs = s.tlbs := rfl
@[simp] theorem setCtx_ring (x : Context) : (s.setCtx x).ring = s.ring := rfl
@[simp] theorem setCtx_invals (x : Context) : (s.setCtx x).invals = s.invals := rfl
@[simp] theorem setCtx_ats (x : Context) : (s.setCtx x).ats = s.ats := rfl
@[simp] theorem setCtx_pri (x : Context) : (s.setCtx x).pri = s.pri := rfl
@[simp] theorem setCtx_priStopped (x : Context) : (s.setCtx x).priStopped = s.priStopped := rfl
@[simp] theorem setCtx_links (x : Context) : (s.setCtx x).links = s.links := rfl
@[simp] theorem setCtx_fab (x : Context) : (s.setCtx x).fab = s.fab := rfl
@[simp] theorem setCtx_queues (x : Context) : (s.setCtx x).queues = s.queues := rfl
@[simp] theorem setCtx_journal (x : Context) : (s.setCtx x).journal = s.journal := rfl
@[simp] theorem setCtx_rep (x : Context) : (s.setCtx x).rep = s.rep := rfl
@[simp] theorem setCtx_left (x : Context) : (s.setCtx x).left = s.left := rfl
@[simp] theorem setCtx_feeds (x : Context) : (s.setCtx x).feeds = s.feeds := rfl
@[simp] theorem setCtx_power (x : Context) : (s.setCtx x).power = s.power := rfl
@[simp] theorem setCtx_boot (x : Context) : (s.setCtx x).boot = s.boot := rfl
@[simp] theorem setCtx_sec (x : Context) : (s.setCtx x).sec = s.sec := rfl
@[simp] theorem setCtx_mgmt (x : Context) : (s.setCtx x).mgmt = s.mgmt := rfl

/-! ## updCtx -/

@[simp] theorem updCtx_pending (p : Pasid) (f : Context → Context) : (s.updCtx p f).pending = s.pending := rfl
@[simp] theorem updCtx_cores (p : Pasid) (f : Context → Context) : (s.updCtx p f).cores = s.cores := rfl
@[simp] theorem updCtx_pstate (p : Pasid) (f : Context → Context) : (s.updCtx p f).pstate = s.pstate := rfl
@[simp] theorem updCtx_gated (p : Pasid) (f : Context → Context) : (s.updCtx p f).gated = s.gated := rfl
@[simp] theorem updCtx_time (p : Pasid) (f : Context → Context) : (s.updCtx p f).time = s.time := rfl
@[simp] theorem updCtx_us (p : Pasid) (f : Context → Context) : (s.updCtx p f).us = s.us := rfl
@[simp] theorem updCtx_fresh (p : Pasid) (f : Context → Context) : (s.updCtx p f).fresh = s.fresh := rfl
@[simp] theorem updCtx_keys (p : Pasid) (f : Context → Context) : (s.updCtx p f).keys = s.keys := rfl
@[simp] theorem updCtx_out (p : Pasid) (f : Context → Context) : (s.updCtx p f).out = s.out := rfl
@[simp] theorem updCtx_caches (p : Pasid) (f : Context → Context) : (s.updCtx p f).caches = s.caches := rfl
@[simp] theorem updCtx_hbm (p : Pasid) (f : Context → Context) : (s.updCtx p f).hbm = s.hbm := rfl
@[simp] theorem updCtx_hbmBad (p : Pasid) (f : Context → Context) : (s.updCtx p f).hbmBad = s.hbmBad := rfl
@[simp] theorem updCtx_hbmKeys (p : Pasid) (f : Context → Context) : (s.updCtx p f).hbmKeys = s.hbmKeys := rfl
@[simp] theorem updCtx_htg (p : Pasid) (f : Context → Context) : (s.updCtx p f).htg = s.htg := rfl
@[simp] theorem updCtx_hbmTemps (p : Pasid) (f : Context → Context) : (s.updCtx p f).hbmTemps = s.hbmTemps := rfl
@[simp] theorem updCtx_chans (p : Pasid) (f : Context → Context) : (s.updCtx p f).chans = s.chans := rfl
@[simp] theorem updCtx_tlbs (p : Pasid) (f : Context → Context) : (s.updCtx p f).tlbs = s.tlbs := rfl
@[simp] theorem updCtx_ring (p : Pasid) (f : Context → Context) : (s.updCtx p f).ring = s.ring := rfl
@[simp] theorem updCtx_invals (p : Pasid) (f : Context → Context) : (s.updCtx p f).invals = s.invals := rfl
@[simp] theorem updCtx_ats (p : Pasid) (f : Context → Context) : (s.updCtx p f).ats = s.ats := rfl
@[simp] theorem updCtx_pri (p : Pasid) (f : Context → Context) : (s.updCtx p f).pri = s.pri := rfl
@[simp] theorem updCtx_priStopped (p : Pasid) (f : Context → Context) : (s.updCtx p f).priStopped = s.priStopped := rfl
@[simp] theorem updCtx_links (p : Pasid) (f : Context → Context) : (s.updCtx p f).links = s.links := rfl
@[simp] theorem updCtx_fab (p : Pasid) (f : Context → Context) : (s.updCtx p f).fab = s.fab := rfl
theorem updCtx_ctxs (p : Pasid) (f : Context → Context) : (s.updCtx p f).ctxs = s.ctxs.map (fun y => if y.pasid == p then f y else y) := rfl
@[simp] theorem updCtx_queues (p : Pasid) (f : Context → Context) : (s.updCtx p f).queues = s.queues := rfl
@[simp] theorem updCtx_journal (p : Pasid) (f : Context → Context) : (s.updCtx p f).journal = s.journal := rfl
@[simp] theorem updCtx_rep (p : Pasid) (f : Context → Context) : (s.updCtx p f).rep = s.rep := rfl
@[simp] theorem updCtx_left (p : Pasid) (f : Context → Context) : (s.updCtx p f).left = s.left := rfl
@[simp] theorem updCtx_feeds (p : Pasid) (f : Context → Context) : (s.updCtx p f).feeds = s.feeds := rfl
@[simp] theorem updCtx_power (p : Pasid) (f : Context → Context) : (s.updCtx p f).power = s.power := rfl
@[simp] theorem updCtx_boot (p : Pasid) (f : Context → Context) : (s.updCtx p f).boot = s.boot := rfl
@[simp] theorem updCtx_sec (p : Pasid) (f : Context → Context) : (s.updCtx p f).sec = s.sec := rfl
@[simp] theorem updCtx_mgmt (p : Pasid) (f : Context → Context) : (s.updCtx p f).mgmt = s.mgmt := rfl

/-! ## setChan -/

@[simp] theorem setChan_pending (c : ChanId) (x : Chan) : (s.setChan c x).pending = s.pending := rfl
@[simp] theorem setChan_cores (c : ChanId) (x : Chan) : (s.setChan c x).cores = s.cores := rfl
@[simp] theorem setChan_pstate (c : ChanId) (x : Chan) : (s.setChan c x).pstate = s.pstate := rfl
@[simp] theorem setChan_gated (c : ChanId) (x : Chan) : (s.setChan c x).gated = s.gated := rfl
@[simp] theorem setChan_time (c : ChanId) (x : Chan) : (s.setChan c x).time = s.time := rfl
@[simp] theorem setChan_us (c : ChanId) (x : Chan) : (s.setChan c x).us = s.us := rfl
@[simp] theorem setChan_fresh (c : ChanId) (x : Chan) : (s.setChan c x).fresh = s.fresh := rfl
@[simp] theorem setChan_keys (c : ChanId) (x : Chan) : (s.setChan c x).keys = s.keys := rfl
@[simp] theorem setChan_out (c : ChanId) (x : Chan) : (s.setChan c x).out = s.out := rfl
@[simp] theorem setChan_caches (c : ChanId) (x : Chan) : (s.setChan c x).caches = s.caches := rfl
@[simp] theorem setChan_hbm (c : ChanId) (x : Chan) : (s.setChan c x).hbm = s.hbm := rfl
@[simp] theorem setChan_hbmBad (c : ChanId) (x : Chan) : (s.setChan c x).hbmBad = s.hbmBad := rfl
@[simp] theorem setChan_hbmKeys (c : ChanId) (x : Chan) : (s.setChan c x).hbmKeys = s.hbmKeys := rfl
@[simp] theorem setChan_htg (c : ChanId) (x : Chan) : (s.setChan c x).htg = s.htg := rfl
@[simp] theorem setChan_hbmTemps (c : ChanId) (x : Chan) : (s.setChan c x).hbmTemps = s.hbmTemps := rfl
theorem setChan_chans (c : ChanId) (x : Chan) : (s.setChan c x).chans = s.chans.set c x := rfl
@[simp] theorem setChan_tlbs (c : ChanId) (x : Chan) : (s.setChan c x).tlbs = s.tlbs := rfl
@[simp] theorem setChan_ring (c : ChanId) (x : Chan) : (s.setChan c x).ring = s.ring := rfl
@[simp] theorem setChan_invals (c : ChanId) (x : Chan) : (s.setChan c x).invals = s.invals := rfl
@[simp] theorem setChan_ats (c : ChanId) (x : Chan) : (s.setChan c x).ats = s.ats := rfl
@[simp] theorem setChan_pri (c : ChanId) (x : Chan) : (s.setChan c x).pri = s.pri := rfl
@[simp] theorem setChan_priStopped (c : ChanId) (x : Chan) : (s.setChan c x).priStopped = s.priStopped := rfl
@[simp] theorem setChan_links (c : ChanId) (x : Chan) : (s.setChan c x).links = s.links := rfl
@[simp] theorem setChan_fab (c : ChanId) (x : Chan) : (s.setChan c x).fab = s.fab := rfl
@[simp] theorem setChan_ctxs (c : ChanId) (x : Chan) : (s.setChan c x).ctxs = s.ctxs := rfl
@[simp] theorem setChan_queues (c : ChanId) (x : Chan) : (s.setChan c x).queues = s.queues := rfl
@[simp] theorem setChan_journal (c : ChanId) (x : Chan) : (s.setChan c x).journal = s.journal := rfl
@[simp] theorem setChan_rep (c : ChanId) (x : Chan) : (s.setChan c x).rep = s.rep := rfl
@[simp] theorem setChan_left (c : ChanId) (x : Chan) : (s.setChan c x).left = s.left := rfl
@[simp] theorem setChan_feeds (c : ChanId) (x : Chan) : (s.setChan c x).feeds = s.feeds := rfl
@[simp] theorem setChan_power (c : ChanId) (x : Chan) : (s.setChan c x).power = s.power := rfl
@[simp] theorem setChan_boot (c : ChanId) (x : Chan) : (s.setChan c x).boot = s.boot := rfl
@[simp] theorem setChan_sec (c : ChanId) (x : Chan) : (s.setChan c x).sec = s.sec := rfl
@[simp] theorem setChan_mgmt (c : ChanId) (x : Chan) : (s.setChan c x).mgmt = s.mgmt := rfl

/-! ## updChan -/

@[simp] theorem updChan_pending (c : ChanId) (f : Chan → Chan) : (s.updChan c f).pending = s.pending := rfl
@[simp] theorem updChan_cores (c : ChanId) (f : Chan → Chan) : (s.updChan c f).cores = s.cores := rfl
@[simp] theorem updChan_pstate (c : ChanId) (f : Chan → Chan) : (s.updChan c f).pstate = s.pstate := rfl
@[simp] theorem updChan_gated (c : ChanId) (f : Chan → Chan) : (s.updChan c f).gated = s.gated := rfl
@[simp] theorem updChan_time (c : ChanId) (f : Chan → Chan) : (s.updChan c f).time = s.time := rfl
@[simp] theorem updChan_us (c : ChanId) (f : Chan → Chan) : (s.updChan c f).us = s.us := rfl
@[simp] theorem updChan_fresh (c : ChanId) (f : Chan → Chan) : (s.updChan c f).fresh = s.fresh := rfl
@[simp] theorem updChan_keys (c : ChanId) (f : Chan → Chan) : (s.updChan c f).keys = s.keys := rfl
@[simp] theorem updChan_out (c : ChanId) (f : Chan → Chan) : (s.updChan c f).out = s.out := rfl
@[simp] theorem updChan_caches (c : ChanId) (f : Chan → Chan) : (s.updChan c f).caches = s.caches := rfl
@[simp] theorem updChan_hbm (c : ChanId) (f : Chan → Chan) : (s.updChan c f).hbm = s.hbm := rfl
@[simp] theorem updChan_hbmBad (c : ChanId) (f : Chan → Chan) : (s.updChan c f).hbmBad = s.hbmBad := rfl
@[simp] theorem updChan_hbmKeys (c : ChanId) (f : Chan → Chan) : (s.updChan c f).hbmKeys = s.hbmKeys := rfl
@[simp] theorem updChan_htg (c : ChanId) (f : Chan → Chan) : (s.updChan c f).htg = s.htg := rfl
@[simp] theorem updChan_hbmTemps (c : ChanId) (f : Chan → Chan) : (s.updChan c f).hbmTemps = s.hbmTemps := rfl
theorem updChan_chans (c : ChanId) (f : Chan → Chan) : (s.updChan c f).chans = s.chans.set c (f (s.chan c)) := rfl
@[simp] theorem updChan_tlbs (c : ChanId) (f : Chan → Chan) : (s.updChan c f).tlbs = s.tlbs := rfl
@[simp] theorem updChan_ring (c : ChanId) (f : Chan → Chan) : (s.updChan c f).ring = s.ring := rfl
@[simp] theorem updChan_invals (c : ChanId) (f : Chan → Chan) : (s.updChan c f).invals = s.invals := rfl
@[simp] theorem updChan_ats (c : ChanId) (f : Chan → Chan) : (s.updChan c f).ats = s.ats := rfl
@[simp] theorem updChan_pri (c : ChanId) (f : Chan → Chan) : (s.updChan c f).pri = s.pri := rfl
@[simp] theorem updChan_priStopped (c : ChanId) (f : Chan → Chan) : (s.updChan c f).priStopped = s.priStopped := rfl
@[simp] theorem updChan_links (c : ChanId) (f : Chan → Chan) : (s.updChan c f).links = s.links := rfl
@[simp] theorem updChan_fab (c : ChanId) (f : Chan → Chan) : (s.updChan c f).fab = s.fab := rfl
@[simp] theorem updChan_ctxs (c : ChanId) (f : Chan → Chan) : (s.updChan c f).ctxs = s.ctxs := rfl
@[simp] theorem updChan_queues (c : ChanId) (f : Chan → Chan) : (s.updChan c f).queues = s.queues := rfl
@[simp] theorem updChan_journal (c : ChanId) (f : Chan → Chan) : (s.updChan c f).journal = s.journal := rfl
@[simp] theorem updChan_rep (c : ChanId) (f : Chan → Chan) : (s.updChan c f).rep = s.rep := rfl
@[simp] theorem updChan_left (c : ChanId) (f : Chan → Chan) : (s.updChan c f).left = s.left := rfl
@[simp] theorem updChan_feeds (c : ChanId) (f : Chan → Chan) : (s.updChan c f).feeds = s.feeds := rfl
@[simp] theorem updChan_power (c : ChanId) (f : Chan → Chan) : (s.updChan c f).power = s.power := rfl
@[simp] theorem updChan_boot (c : ChanId) (f : Chan → Chan) : (s.updChan c f).boot = s.boot := rfl
@[simp] theorem updChan_sec (c : ChanId) (f : Chan → Chan) : (s.updChan c f).sec = s.sec := rfl
@[simp] theorem updChan_mgmt (c : ChanId) (f : Chan → Chan) : (s.updChan c f).mgmt = s.mgmt := rfl

/-! ## setReceiver -/

@[simp] theorem setReceiver_pending (r : Receiver) : (s.setReceiver r).pending = s.pending := rfl
@[simp] theorem setReceiver_cores (r : Receiver) : (s.setReceiver r).cores = s.cores := rfl
@[simp] theorem setReceiver_pstate (r : Receiver) : (s.setReceiver r).pstate = s.pstate := rfl
@[simp] theorem setReceiver_gated (r : Receiver) : (s.setReceiver r).gated = s.gated := rfl
@[simp] theorem setReceiver_time (r : Receiver) : (s.setReceiver r).time = s.time := rfl
@[simp] theorem setReceiver_us (r : Receiver) : (s.setReceiver r).us = s.us := rfl
@[simp] theorem setReceiver_fresh (r : Receiver) : (s.setReceiver r).fresh = s.fresh := rfl
@[simp] theorem setReceiver_keys (r : Receiver) : (s.setReceiver r).keys = s.keys := rfl
@[simp] theorem setReceiver_out (r : Receiver) : (s.setReceiver r).out = s.out := rfl
@[simp] theorem setReceiver_caches (r : Receiver) : (s.setReceiver r).caches = s.caches := rfl
@[simp] theorem setReceiver_hbm (r : Receiver) : (s.setReceiver r).hbm = s.hbm := rfl
@[simp] theorem setReceiver_hbmBad (r : Receiver) : (s.setReceiver r).hbmBad = s.hbmBad := rfl
@[simp] theorem setReceiver_hbmKeys (r : Receiver) : (s.setReceiver r).hbmKeys = s.hbmKeys := rfl
@[simp] theorem setReceiver_htg (r : Receiver) : (s.setReceiver r).htg = s.htg := rfl
@[simp] theorem setReceiver_hbmTemps (r : Receiver) : (s.setReceiver r).hbmTemps = s.hbmTemps := rfl
@[simp] theorem setReceiver_chans (r : Receiver) : (s.setReceiver r).chans = s.chans := rfl
@[simp] theorem setReceiver_tlbs (r : Receiver) : (s.setReceiver r).tlbs = s.tlbs := rfl
@[simp] theorem setReceiver_ring (r : Receiver) : (s.setReceiver r).ring = s.ring := rfl
@[simp] theorem setReceiver_invals (r : Receiver) : (s.setReceiver r).invals = s.invals := rfl
@[simp] theorem setReceiver_ats (r : Receiver) : (s.setReceiver r).ats = s.ats := rfl
@[simp] theorem setReceiver_pri (r : Receiver) : (s.setReceiver r).pri = s.pri := rfl
@[simp] theorem setReceiver_priStopped (r : Receiver) : (s.setReceiver r).priStopped = s.priStopped := rfl
@[simp] theorem setReceiver_links (r : Receiver) : (s.setReceiver r).links = s.links := rfl
@[simp] theorem setReceiver_ctxs (r : Receiver) : (s.setReceiver r).ctxs = s.ctxs := rfl
@[simp] theorem setReceiver_queues (r : Receiver) : (s.setReceiver r).queues = s.queues := rfl
@[simp] theorem setReceiver_journal (r : Receiver) : (s.setReceiver r).journal = s.journal := rfl
@[simp] theorem setReceiver_rep (r : Receiver) : (s.setReceiver r).rep = s.rep := rfl
@[simp] theorem setReceiver_left (r : Receiver) : (s.setReceiver r).left = s.left := rfl
@[simp] theorem setReceiver_feeds (r : Receiver) : (s.setReceiver r).feeds = s.feeds := rfl
@[simp] theorem setReceiver_power (r : Receiver) : (s.setReceiver r).power = s.power := rfl
@[simp] theorem setReceiver_boot (r : Receiver) : (s.setReceiver r).boot = s.boot := rfl
@[simp] theorem setReceiver_sec (r : Receiver) : (s.setReceiver r).sec = s.sec := rfl
@[simp] theorem setReceiver_mgmt (r : Receiver) : (s.setReceiver r).mgmt = s.mgmt := rfl

/-! ## setStream -/

@[simp] theorem setStream_pending (x : Stream) : (s.setStream x).pending = s.pending := rfl
@[simp] theorem setStream_cores (x : Stream) : (s.setStream x).cores = s.cores := rfl
@[simp] theorem setStream_pstate (x : Stream) : (s.setStream x).pstate = s.pstate := rfl
@[simp] theorem setStream_gated (x : Stream) : (s.setStream x).gated = s.gated := rfl
@[simp] theorem setStream_time (x : Stream) : (s.setStream x).time = s.time := rfl
@[simp] theorem setStream_us (x : Stream) : (s.setStream x).us = s.us := rfl
@[simp] theorem setStream_fresh (x : Stream) : (s.setStream x).fresh = s.fresh := rfl
@[simp] theorem setStream_keys (x : Stream) : (s.setStream x).keys = s.keys := rfl
@[simp] theorem setStream_out (x : Stream) : (s.setStream x).out = s.out := rfl
@[simp] theorem setStream_caches (x : Stream) : (s.setStream x).caches = s.caches := rfl
@[simp] theorem setStream_hbm (x : Stream) : (s.setStream x).hbm = s.hbm := rfl
@[simp] theorem setStream_hbmBad (x : Stream) : (s.setStream x).hbmBad = s.hbmBad := rfl
@[simp] theorem setStream_hbmKeys (x : Stream) : (s.setStream x).hbmKeys = s.hbmKeys := rfl
@[simp] theorem setStream_htg (x : Stream) : (s.setStream x).htg = s.htg := rfl
@[simp] theorem setStream_hbmTemps (x : Stream) : (s.setStream x).hbmTemps = s.hbmTemps := rfl
@[simp] theorem setStream_chans (x : Stream) : (s.setStream x).chans = s.chans := rfl
@[simp] theorem setStream_tlbs (x : Stream) : (s.setStream x).tlbs = s.tlbs := rfl
@[simp] theorem setStream_ring (x : Stream) : (s.setStream x).ring = s.ring := rfl
@[simp] theorem setStream_invals (x : Stream) : (s.setStream x).invals = s.invals := rfl
@[simp] theorem setStream_ats (x : Stream) : (s.setStream x).ats = s.ats := rfl
@[simp] theorem setStream_pri (x : Stream) : (s.setStream x).pri = s.pri := rfl
@[simp] theorem setStream_priStopped (x : Stream) : (s.setStream x).priStopped = s.priStopped := rfl
@[simp] theorem setStream_links (x : Stream) : (s.setStream x).links = s.links := rfl
@[simp] theorem setStream_ctxs (x : Stream) : (s.setStream x).ctxs = s.ctxs := rfl
@[simp] theorem setStream_queues (x : Stream) : (s.setStream x).queues = s.queues := rfl
@[simp] theorem setStream_journal (x : Stream) : (s.setStream x).journal = s.journal := rfl
@[simp] theorem setStream_rep (x : Stream) : (s.setStream x).rep = s.rep := rfl
@[simp] theorem setStream_left (x : Stream) : (s.setStream x).left = s.left := rfl
@[simp] theorem setStream_feeds (x : Stream) : (s.setStream x).feeds = s.feeds := rfl
@[simp] theorem setStream_power (x : Stream) : (s.setStream x).power = s.power := rfl
@[simp] theorem setStream_boot (x : Stream) : (s.setStream x).boot = s.boot := rfl
@[simp] theorem setStream_sec (x : Stream) : (s.setStream x).sec = s.sec := rfl
@[simp] theorem setStream_mgmt (x : Stream) : (s.setStream x).mgmt = s.mgmt := rfl

/-! ## setCache -/

@[simp] theorem setCache_pending (d : DieId) (c : Cache) : (s.setCache d c).pending = s.pending := rfl
@[simp] theorem setCache_cores (d : DieId) (c : Cache) : (s.setCache d c).cores = s.cores := rfl
@[simp] theorem setCache_pstate (d : DieId) (c : Cache) : (s.setCache d c).pstate = s.pstate := rfl
@[simp] theorem setCache_gated (d : DieId) (c : Cache) : (s.setCache d c).gated = s.gated := rfl
@[simp] theorem setCache_time (d : DieId) (c : Cache) : (s.setCache d c).time = s.time := rfl
@[simp] theorem setCache_us (d : DieId) (c : Cache) : (s.setCache d c).us = s.us := rfl
@[simp] theorem setCache_fresh (d : DieId) (c : Cache) : (s.setCache d c).fresh = s.fresh := rfl
@[simp] theorem setCache_keys (d : DieId) (c : Cache) : (s.setCache d c).keys = s.keys := rfl
@[simp] theorem setCache_out (d : DieId) (c : Cache) : (s.setCache d c).out = s.out := rfl
theorem setCache_caches (d : DieId) (c : Cache) : (s.setCache d c).caches = s.caches.set d c := rfl
@[simp] theorem setCache_hbm (d : DieId) (c : Cache) : (s.setCache d c).hbm = s.hbm := rfl
@[simp] theorem setCache_hbmBad (d : DieId) (c : Cache) : (s.setCache d c).hbmBad = s.hbmBad := rfl
@[simp] theorem setCache_hbmKeys (d : DieId) (c : Cache) : (s.setCache d c).hbmKeys = s.hbmKeys := rfl
@[simp] theorem setCache_htg (d : DieId) (c : Cache) : (s.setCache d c).htg = s.htg := rfl
@[simp] theorem setCache_hbmTemps (d : DieId) (c : Cache) : (s.setCache d c).hbmTemps = s.hbmTemps := rfl
@[simp] theorem setCache_chans (d : DieId) (c : Cache) : (s.setCache d c).chans = s.chans := rfl
@[simp] theorem setCache_tlbs (d : DieId) (c : Cache) : (s.setCache d c).tlbs = s.tlbs := rfl
@[simp] theorem setCache_ring (d : DieId) (c : Cache) : (s.setCache d c).ring = s.ring := rfl
@[simp] theorem setCache_invals (d : DieId) (c : Cache) : (s.setCache d c).invals = s.invals := rfl
@[simp] theorem setCache_ats (d : DieId) (c : Cache) : (s.setCache d c).ats = s.ats := rfl
@[simp] theorem setCache_pri (d : DieId) (c : Cache) : (s.setCache d c).pri = s.pri := rfl
@[simp] theorem setCache_priStopped (d : DieId) (c : Cache) : (s.setCache d c).priStopped = s.priStopped := rfl
@[simp] theorem setCache_links (d : DieId) (c : Cache) : (s.setCache d c).links = s.links := rfl
@[simp] theorem setCache_fab (d : DieId) (c : Cache) : (s.setCache d c).fab = s.fab := rfl
@[simp] theorem setCache_ctxs (d : DieId) (c : Cache) : (s.setCache d c).ctxs = s.ctxs := rfl
@[simp] theorem setCache_queues (d : DieId) (c : Cache) : (s.setCache d c).queues = s.queues := rfl
@[simp] theorem setCache_journal (d : DieId) (c : Cache) : (s.setCache d c).journal = s.journal := rfl
@[simp] theorem setCache_rep (d : DieId) (c : Cache) : (s.setCache d c).rep = s.rep := rfl
@[simp] theorem setCache_left (d : DieId) (c : Cache) : (s.setCache d c).left = s.left := rfl
@[simp] theorem setCache_feeds (d : DieId) (c : Cache) : (s.setCache d c).feeds = s.feeds := rfl
@[simp] theorem setCache_power (d : DieId) (c : Cache) : (s.setCache d c).power = s.power := rfl
@[simp] theorem setCache_boot (d : DieId) (c : Cache) : (s.setCache d c).boot = s.boot := rfl
@[simp] theorem setCache_sec (d : DieId) (c : Cache) : (s.setCache d c).sec = s.sec := rfl
@[simp] theorem setCache_mgmt (d : DieId) (c : Cache) : (s.setCache d c).mgmt = s.mgmt := rfl

/-! ## setHtg -/

@[simp] theorem setHtg_pending (n : Fin 256) (h : Htg) : (s.setHtg n h).pending = s.pending := rfl
@[simp] theorem setHtg_cores (n : Fin 256) (h : Htg) : (s.setHtg n h).cores = s.cores := rfl
@[simp] theorem setHtg_pstate (n : Fin 256) (h : Htg) : (s.setHtg n h).pstate = s.pstate := rfl
@[simp] theorem setHtg_gated (n : Fin 256) (h : Htg) : (s.setHtg n h).gated = s.gated := rfl
@[simp] theorem setHtg_time (n : Fin 256) (h : Htg) : (s.setHtg n h).time = s.time := rfl
@[simp] theorem setHtg_us (n : Fin 256) (h : Htg) : (s.setHtg n h).us = s.us := rfl
@[simp] theorem setHtg_fresh (n : Fin 256) (h : Htg) : (s.setHtg n h).fresh = s.fresh := rfl
@[simp] theorem setHtg_keys (n : Fin 256) (h : Htg) : (s.setHtg n h).keys = s.keys := rfl
@[simp] theorem setHtg_out (n : Fin 256) (h : Htg) : (s.setHtg n h).out = s.out := rfl
@[simp] theorem setHtg_caches (n : Fin 256) (h : Htg) : (s.setHtg n h).caches = s.caches := rfl
@[simp] theorem setHtg_hbm (n : Fin 256) (h : Htg) : (s.setHtg n h).hbm = s.hbm := rfl
@[simp] theorem setHtg_hbmBad (n : Fin 256) (h : Htg) : (s.setHtg n h).hbmBad = s.hbmBad := rfl
@[simp] theorem setHtg_hbmKeys (n : Fin 256) (h : Htg) : (s.setHtg n h).hbmKeys = s.hbmKeys := rfl
theorem setHtg_htg (n : Fin 256) (h : Htg) : (s.setHtg n h).htg = s.htg.set n h := rfl
@[simp] theorem setHtg_hbmTemps (n : Fin 256) (h : Htg) : (s.setHtg n h).hbmTemps = s.hbmTemps := rfl
@[simp] theorem setHtg_chans (n : Fin 256) (h : Htg) : (s.setHtg n h).chans = s.chans := rfl
@[simp] theorem setHtg_tlbs (n : Fin 256) (h : Htg) : (s.setHtg n h).tlbs = s.tlbs := rfl
@[simp] theorem setHtg_ring (n : Fin 256) (h : Htg) : (s.setHtg n h).ring = s.ring := rfl
@[simp] theorem setHtg_invals (n : Fin 256) (h : Htg) : (s.setHtg n h).invals = s.invals := rfl
@[simp] theorem setHtg_ats (n : Fin 256) (h : Htg) : (s.setHtg n h).ats = s.ats := rfl
@[simp] theorem setHtg_pri (n : Fin 256) (h : Htg) : (s.setHtg n h).pri = s.pri := rfl
@[simp] theorem setHtg_priStopped (n : Fin 256) (h : Htg) : (s.setHtg n h).priStopped = s.priStopped := rfl
@[simp] theorem setHtg_links (n : Fin 256) (h : Htg) : (s.setHtg n h).links = s.links := rfl
@[simp] theorem setHtg_fab (n : Fin 256) (h : Htg) : (s.setHtg n h).fab = s.fab := rfl
@[simp] theorem setHtg_ctxs (n : Fin 256) (h : Htg) : (s.setHtg n h).ctxs = s.ctxs := rfl
@[simp] theorem setHtg_queues (n : Fin 256) (h : Htg) : (s.setHtg n h).queues = s.queues := rfl
@[simp] theorem setHtg_journal (n : Fin 256) (h : Htg) : (s.setHtg n h).journal = s.journal := rfl
@[simp] theorem setHtg_rep (n : Fin 256) (h : Htg) : (s.setHtg n h).rep = s.rep := rfl
@[simp] theorem setHtg_left (n : Fin 256) (h : Htg) : (s.setHtg n h).left = s.left := rfl
@[simp] theorem setHtg_feeds (n : Fin 256) (h : Htg) : (s.setHtg n h).feeds = s.feeds := rfl
@[simp] theorem setHtg_power (n : Fin 256) (h : Htg) : (s.setHtg n h).power = s.power := rfl
@[simp] theorem setHtg_boot (n : Fin 256) (h : Htg) : (s.setHtg n h).boot = s.boot := rfl
@[simp] theorem setHtg_sec (n : Fin 256) (h : Htg) : (s.setHtg n h).sec = s.sec := rfl
@[simp] theorem setHtg_mgmt (n : Fin 256) (h : Htg) : (s.setHtg n h).mgmt = s.mgmt := rfl

/-! ## setLink -/

@[simp] theorem setLink_pending (l : LinkId) (x : Link) : (s.setLink l x).pending = s.pending := rfl
@[simp] theorem setLink_cores (l : LinkId) (x : Link) : (s.setLink l x).cores = s.cores := rfl
@[simp] theorem setLink_pstate (l : LinkId) (x : Link) : (s.setLink l x).pstate = s.pstate := rfl
@[simp] theorem setLink_gated (l : LinkId) (x : Link) : (s.setLink l x).gated = s.gated := rfl
@[simp] theorem setLink_time (l : LinkId) (x : Link) : (s.setLink l x).time = s.time := rfl
@[simp] theorem setLink_us (l : LinkId) (x : Link) : (s.setLink l x).us = s.us := rfl
@[simp] theorem setLink_fresh (l : LinkId) (x : Link) : (s.setLink l x).fresh = s.fresh := rfl
@[simp] theorem setLink_keys (l : LinkId) (x : Link) : (s.setLink l x).keys = s.keys := rfl
@[simp] theorem setLink_out (l : LinkId) (x : Link) : (s.setLink l x).out = s.out := rfl
@[simp] theorem setLink_caches (l : LinkId) (x : Link) : (s.setLink l x).caches = s.caches := rfl
@[simp] theorem setLink_hbm (l : LinkId) (x : Link) : (s.setLink l x).hbm = s.hbm := rfl
@[simp] theorem setLink_hbmBad (l : LinkId) (x : Link) : (s.setLink l x).hbmBad = s.hbmBad := rfl
@[simp] theorem setLink_hbmKeys (l : LinkId) (x : Link) : (s.setLink l x).hbmKeys = s.hbmKeys := rfl
@[simp] theorem setLink_htg (l : LinkId) (x : Link) : (s.setLink l x).htg = s.htg := rfl
@[simp] theorem setLink_hbmTemps (l : LinkId) (x : Link) : (s.setLink l x).hbmTemps = s.hbmTemps := rfl
@[simp] theorem setLink_chans (l : LinkId) (x : Link) : (s.setLink l x).chans = s.chans := rfl
@[simp] theorem setLink_tlbs (l : LinkId) (x : Link) : (s.setLink l x).tlbs = s.tlbs := rfl
@[simp] theorem setLink_ring (l : LinkId) (x : Link) : (s.setLink l x).ring = s.ring := rfl
@[simp] theorem setLink_invals (l : LinkId) (x : Link) : (s.setLink l x).invals = s.invals := rfl
@[simp] theorem setLink_ats (l : LinkId) (x : Link) : (s.setLink l x).ats = s.ats := rfl
@[simp] theorem setLink_pri (l : LinkId) (x : Link) : (s.setLink l x).pri = s.pri := rfl
@[simp] theorem setLink_priStopped (l : LinkId) (x : Link) : (s.setLink l x).priStopped = s.priStopped := rfl
theorem setLink_links (l : LinkId) (x : Link) : (s.setLink l x).links = s.links.set l x := rfl
@[simp] theorem setLink_fab (l : LinkId) (x : Link) : (s.setLink l x).fab = s.fab := rfl
@[simp] theorem setLink_ctxs (l : LinkId) (x : Link) : (s.setLink l x).ctxs = s.ctxs := rfl
@[simp] theorem setLink_queues (l : LinkId) (x : Link) : (s.setLink l x).queues = s.queues := rfl
@[simp] theorem setLink_journal (l : LinkId) (x : Link) : (s.setLink l x).journal = s.journal := rfl
@[simp] theorem setLink_rep (l : LinkId) (x : Link) : (s.setLink l x).rep = s.rep := rfl
@[simp] theorem setLink_left (l : LinkId) (x : Link) : (s.setLink l x).left = s.left := rfl
@[simp] theorem setLink_feeds (l : LinkId) (x : Link) : (s.setLink l x).feeds = s.feeds := rfl
@[simp] theorem setLink_power (l : LinkId) (x : Link) : (s.setLink l x).power = s.power := rfl
@[simp] theorem setLink_boot (l : LinkId) (x : Link) : (s.setLink l x).boot = s.boot := rfl
@[simp] theorem setLink_sec (l : LinkId) (x : Link) : (s.setLink l x).sec = s.sec := rfl
@[simp] theorem setLink_mgmt (l : LinkId) (x : Link) : (s.setLink l x).mgmt = s.mgmt := rfl

/-! ## setQueue -/

@[simp] theorem setQueue_pending (q : QueueId) (x : Queue) : (s.setQueue q x).pending = s.pending := rfl
@[simp] theorem setQueue_cores (q : QueueId) (x : Queue) : (s.setQueue q x).cores = s.cores := rfl
@[simp] theorem setQueue_pstate (q : QueueId) (x : Queue) : (s.setQueue q x).pstate = s.pstate := rfl
@[simp] theorem setQueue_gated (q : QueueId) (x : Queue) : (s.setQueue q x).gated = s.gated := rfl
@[simp] theorem setQueue_time (q : QueueId) (x : Queue) : (s.setQueue q x).time = s.time := rfl
@[simp] theorem setQueue_us (q : QueueId) (x : Queue) : (s.setQueue q x).us = s.us := rfl
@[simp] theorem setQueue_fresh (q : QueueId) (x : Queue) : (s.setQueue q x).fresh = s.fresh := rfl
@[simp] theorem setQueue_keys (q : QueueId) (x : Queue) : (s.setQueue q x).keys = s.keys := rfl
@[simp] theorem setQueue_out (q : QueueId) (x : Queue) : (s.setQueue q x).out = s.out := rfl
@[simp] theorem setQueue_caches (q : QueueId) (x : Queue) : (s.setQueue q x).caches = s.caches := rfl
@[simp] theorem setQueue_hbm (q : QueueId) (x : Queue) : (s.setQueue q x).hbm = s.hbm := rfl
@[simp] theorem setQueue_hbmBad (q : QueueId) (x : Queue) : (s.setQueue q x).hbmBad = s.hbmBad := rfl
@[simp] theorem setQueue_hbmKeys (q : QueueId) (x : Queue) : (s.setQueue q x).hbmKeys = s.hbmKeys := rfl
@[simp] theorem setQueue_htg (q : QueueId) (x : Queue) : (s.setQueue q x).htg = s.htg := rfl
@[simp] theorem setQueue_hbmTemps (q : QueueId) (x : Queue) : (s.setQueue q x).hbmTemps = s.hbmTemps := rfl
@[simp] theorem setQueue_chans (q : QueueId) (x : Queue) : (s.setQueue q x).chans = s.chans := rfl
@[simp] theorem setQueue_tlbs (q : QueueId) (x : Queue) : (s.setQueue q x).tlbs = s.tlbs := rfl
@[simp] theorem setQueue_ring (q : QueueId) (x : Queue) : (s.setQueue q x).ring = s.ring := rfl
@[simp] theorem setQueue_invals (q : QueueId) (x : Queue) : (s.setQueue q x).invals = s.invals := rfl
@[simp] theorem setQueue_ats (q : QueueId) (x : Queue) : (s.setQueue q x).ats = s.ats := rfl
@[simp] theorem setQueue_pri (q : QueueId) (x : Queue) : (s.setQueue q x).pri = s.pri := rfl
@[simp] theorem setQueue_priStopped (q : QueueId) (x : Queue) : (s.setQueue q x).priStopped = s.priStopped := rfl
@[simp] theorem setQueue_links (q : QueueId) (x : Queue) : (s.setQueue q x).links = s.links := rfl
@[simp] theorem setQueue_fab (q : QueueId) (x : Queue) : (s.setQueue q x).fab = s.fab := rfl
@[simp] theorem setQueue_ctxs (q : QueueId) (x : Queue) : (s.setQueue q x).ctxs = s.ctxs := rfl
theorem setQueue_queues (q : QueueId) (x : Queue) : (s.setQueue q x).queues = s.queues.set q x := rfl
@[simp] theorem setQueue_journal (q : QueueId) (x : Queue) : (s.setQueue q x).journal = s.journal := rfl
@[simp] theorem setQueue_rep (q : QueueId) (x : Queue) : (s.setQueue q x).rep = s.rep := rfl
@[simp] theorem setQueue_left (q : QueueId) (x : Queue) : (s.setQueue q x).left = s.left := rfl
@[simp] theorem setQueue_feeds (q : QueueId) (x : Queue) : (s.setQueue q x).feeds = s.feeds := rfl
@[simp] theorem setQueue_power (q : QueueId) (x : Queue) : (s.setQueue q x).power = s.power := rfl
@[simp] theorem setQueue_boot (q : QueueId) (x : Queue) : (s.setQueue q x).boot = s.boot := rfl
@[simp] theorem setQueue_sec (q : QueueId) (x : Queue) : (s.setQueue q x).sec = s.sec := rfl
@[simp] theorem setQueue_mgmt (q : QueueId) (x : Queue) : (s.setQueue q x).mgmt = s.mgmt := rfl

/-! ## updFlight -/

@[simp] theorem updFlight_pending (q : QueueId) (g : Flight → Flight) : (s.updFlight q g).pending = s.pending := rfl
@[simp] theorem updFlight_cores (q : QueueId) (g : Flight → Flight) : (s.updFlight q g).cores = s.cores := rfl
@[simp] theorem updFlight_pstate (q : QueueId) (g : Flight → Flight) : (s.updFlight q g).pstate = s.pstate := rfl
@[simp] theorem updFlight_gated (q : QueueId) (g : Flight → Flight) : (s.updFlight q g).gated = s.gated := rfl
@[simp] theorem updFlight_time (q : QueueId) (g : Flight → Flight) : (s.updFlight q g).time = s.time := rfl
@[simp] theorem updFlight_us (q : QueueId) (g : Flight → Flight) : (s.updFlight q g).us = s.us := rfl
@[simp] theorem updFlight_fresh (q : QueueId) (g : Flight → Flight) : (s.updFlight q g).fresh = s.fresh := rfl
@[simp] theorem updFlight_keys (q : QueueId) (g : Flight → Flight) : (s.updFlight q g).keys = s.keys := rfl
@[simp] theorem updFlight_out (q : QueueId) (g : Flight → Flight) : (s.updFlight q g).out = s.out := rfl
@[simp] theorem updFlight_caches (q : QueueId) (g : Flight → Flight) : (s.updFlight q g).caches = s.caches := rfl
@[simp] theorem updFlight_hbm (q : QueueId) (g : Flight → Flight) : (s.updFlight q g).hbm = s.hbm := rfl
@[simp] theorem updFlight_hbmBad (q : QueueId) (g : Flight → Flight) : (s.updFlight q g).hbmBad = s.hbmBad := rfl
@[simp] theorem updFlight_hbmKeys (q : QueueId) (g : Flight → Flight) : (s.updFlight q g).hbmKeys = s.hbmKeys := rfl
@[simp] theorem updFlight_htg (q : QueueId) (g : Flight → Flight) : (s.updFlight q g).htg = s.htg := rfl
@[simp] theorem updFlight_hbmTemps (q : QueueId) (g : Flight → Flight) : (s.updFlight q g).hbmTemps = s.hbmTemps := rfl
@[simp] theorem updFlight_chans (q : QueueId) (g : Flight → Flight) : (s.updFlight q g).chans = s.chans := rfl
@[simp] theorem updFlight_tlbs (q : QueueId) (g : Flight → Flight) : (s.updFlight q g).tlbs = s.tlbs := rfl
@[simp] theorem updFlight_ring (q : QueueId) (g : Flight → Flight) : (s.updFlight q g).ring = s.ring := rfl
@[simp] theorem updFlight_invals (q : QueueId) (g : Flight → Flight) : (s.updFlight q g).invals = s.invals := rfl
@[simp] theorem updFlight_ats (q : QueueId) (g : Flight → Flight) : (s.updFlight q g).ats = s.ats := rfl
@[simp] theorem updFlight_pri (q : QueueId) (g : Flight → Flight) : (s.updFlight q g).pri = s.pri := rfl
@[simp] theorem updFlight_priStopped (q : QueueId) (g : Flight → Flight) : (s.updFlight q g).priStopped = s.priStopped := rfl
@[simp] theorem updFlight_links (q : QueueId) (g : Flight → Flight) : (s.updFlight q g).links = s.links := rfl
@[simp] theorem updFlight_fab (q : QueueId) (g : Flight → Flight) : (s.updFlight q g).fab = s.fab := rfl
@[simp] theorem updFlight_ctxs (q : QueueId) (g : Flight → Flight) : (s.updFlight q g).ctxs = s.ctxs := rfl
@[simp] theorem updFlight_journal (q : QueueId) (g : Flight → Flight) : (s.updFlight q g).journal = s.journal := rfl
@[simp] theorem updFlight_rep (q : QueueId) (g : Flight → Flight) : (s.updFlight q g).rep = s.rep := rfl
@[simp] theorem updFlight_left (q : QueueId) (g : Flight → Flight) : (s.updFlight q g).left = s.left := rfl
@[simp] theorem updFlight_feeds (q : QueueId) (g : Flight → Flight) : (s.updFlight q g).feeds = s.feeds := rfl
@[simp] theorem updFlight_power (q : QueueId) (g : Flight → Flight) : (s.updFlight q g).power = s.power := rfl
@[simp] theorem updFlight_boot (q : QueueId) (g : Flight → Flight) : (s.updFlight q g).boot = s.boot := rfl
@[simp] theorem updFlight_sec (q : QueueId) (g : Flight → Flight) : (s.updFlight q g).sec = s.sec := rfl
@[simp] theorem updFlight_mgmt (q : QueueId) (g : Flight → Flight) : (s.updFlight q g).mgmt = s.mgmt := rfl

/-! ## setPower -/

@[simp] theorem setPower_pending (p : Power) : (s.setPower p).pending = s.pending := rfl
@[simp] theorem setPower_cores (p : Power) : (s.setPower p).cores = s.cores := rfl
@[simp] theorem setPower_pstate (p : Power) : (s.setPower p).pstate = s.pstate := rfl
@[simp] theorem setPower_gated (p : Power) : (s.setPower p).gated = s.gated := rfl
@[simp] theorem setPower_time (p : Power) : (s.setPower p).time = s.time := rfl
@[simp] theorem setPower_us (p : Power) : (s.setPower p).us = s.us := rfl
@[simp] theorem setPower_fresh (p : Power) : (s.setPower p).fresh = s.fresh := rfl
@[simp] theorem setPower_keys (p : Power) : (s.setPower p).keys = s.keys := rfl
@[simp] theorem setPower_out (p : Power) : (s.setPower p).out = s.out := rfl
@[simp] theorem setPower_caches (p : Power) : (s.setPower p).caches = s.caches := rfl
@[simp] theorem setPower_hbm (p : Power) : (s.setPower p).hbm = s.hbm := rfl
@[simp] theorem setPower_hbmBad (p : Power) : (s.setPower p).hbmBad = s.hbmBad := rfl
@[simp] theorem setPower_hbmKeys (p : Power) : (s.setPower p).hbmKeys = s.hbmKeys := rfl
@[simp] theorem setPower_htg (p : Power) : (s.setPower p).htg = s.htg := rfl
@[simp] theorem setPower_hbmTemps (p : Power) : (s.setPower p).hbmTemps = s.hbmTemps := rfl
@[simp] theorem setPower_chans (p : Power) : (s.setPower p).chans = s.chans := rfl
@[simp] theorem setPower_tlbs (p : Power) : (s.setPower p).tlbs = s.tlbs := rfl
@[simp] theorem setPower_ring (p : Power) : (s.setPower p).ring = s.ring := rfl
@[simp] theorem setPower_invals (p : Power) : (s.setPower p).invals = s.invals := rfl
@[simp] theorem setPower_ats (p : Power) : (s.setPower p).ats = s.ats := rfl
@[simp] theorem setPower_pri (p : Power) : (s.setPower p).pri = s.pri := rfl
@[simp] theorem setPower_priStopped (p : Power) : (s.setPower p).priStopped = s.priStopped := rfl
@[simp] theorem setPower_links (p : Power) : (s.setPower p).links = s.links := rfl
@[simp] theorem setPower_fab (p : Power) : (s.setPower p).fab = s.fab := rfl
@[simp] theorem setPower_ctxs (p : Power) : (s.setPower p).ctxs = s.ctxs := rfl
@[simp] theorem setPower_queues (p : Power) : (s.setPower p).queues = s.queues := rfl
@[simp] theorem setPower_journal (p : Power) : (s.setPower p).journal = s.journal := rfl
@[simp] theorem setPower_rep (p : Power) : (s.setPower p).rep = s.rep := rfl
@[simp] theorem setPower_left (p : Power) : (s.setPower p).left = s.left := rfl
@[simp] theorem setPower_feeds (p : Power) : (s.setPower p).feeds = s.feeds := rfl
theorem setPower_power (p : Power) : (s.setPower p).power = p := rfl
@[simp] theorem setPower_boot (p : Power) : (s.setPower p).boot = s.boot := rfl
@[simp] theorem setPower_sec (p : Power) : (s.setPower p).sec = s.sec := rfl
@[simp] theorem setPower_mgmt (p : Power) : (s.setPower p).mgmt = s.mgmt := rfl

/-! ## updPower -/

@[simp] theorem updPower_pending (f : Power → Power) : (s.updPower f).pending = s.pending := rfl
@[simp] theorem updPower_cores (f : Power → Power) : (s.updPower f).cores = s.cores := rfl
@[simp] theorem updPower_pstate (f : Power → Power) : (s.updPower f).pstate = s.pstate := rfl
@[simp] theorem updPower_gated (f : Power → Power) : (s.updPower f).gated = s.gated := rfl
@[simp] theorem updPower_time (f : Power → Power) : (s.updPower f).time = s.time := rfl
@[simp] theorem updPower_us (f : Power → Power) : (s.updPower f).us = s.us := rfl
@[simp] theorem updPower_fresh (f : Power → Power) : (s.updPower f).fresh = s.fresh := rfl
@[simp] theorem updPower_keys (f : Power → Power) : (s.updPower f).keys = s.keys := rfl
@[simp] theorem updPower_out (f : Power → Power) : (s.updPower f).out = s.out := rfl
@[simp] theorem updPower_caches (f : Power → Power) : (s.updPower f).caches = s.caches := rfl
@[simp] theorem updPower_hbm (f : Power → Power) : (s.updPower f).hbm = s.hbm := rfl
@[simp] theorem updPower_hbmBad (f : Power → Power) : (s.updPower f).hbmBad = s.hbmBad := rfl
@[simp] theorem updPower_hbmKeys (f : Power → Power) : (s.updPower f).hbmKeys = s.hbmKeys := rfl
@[simp] theorem updPower_htg (f : Power → Power) : (s.updPower f).htg = s.htg := rfl
@[simp] theorem updPower_hbmTemps (f : Power → Power) : (s.updPower f).hbmTemps = s.hbmTemps := rfl
@[simp] theorem updPower_chans (f : Power → Power) : (s.updPower f).chans = s.chans := rfl
@[simp] theorem updPower_tlbs (f : Power → Power) : (s.updPower f).tlbs = s.tlbs := rfl
@[simp] theorem updPower_ring (f : Power → Power) : (s.updPower f).ring = s.ring := rfl
@[simp] theorem updPower_invals (f : Power → Power) : (s.updPower f).invals = s.invals := rfl
@[simp] theorem updPower_ats (f : Power → Power) : (s.updPower f).ats = s.ats := rfl
@[simp] theorem updPower_pri (f : Power → Power) : (s.updPower f).pri = s.pri := rfl
@[simp] theorem updPower_priStopped (f : Power → Power) : (s.updPower f).priStopped = s.priStopped := rfl
@[simp] theorem updPower_links (f : Power → Power) : (s.updPower f).links = s.links := rfl
@[simp] theorem updPower_fab (f : Power → Power) : (s.updPower f).fab = s.fab := rfl
@[simp] theorem updPower_ctxs (f : Power → Power) : (s.updPower f).ctxs = s.ctxs := rfl
@[simp] theorem updPower_queues (f : Power → Power) : (s.updPower f).queues = s.queues := rfl
@[simp] theorem updPower_journal (f : Power → Power) : (s.updPower f).journal = s.journal := rfl
@[simp] theorem updPower_rep (f : Power → Power) : (s.updPower f).rep = s.rep := rfl
@[simp] theorem updPower_left (f : Power → Power) : (s.updPower f).left = s.left := rfl
@[simp] theorem updPower_feeds (f : Power → Power) : (s.updPower f).feeds = s.feeds := rfl
theorem updPower_power (f : Power → Power) : (s.updPower f).power = f s.power := rfl
@[simp] theorem updPower_boot (f : Power → Power) : (s.updPower f).boot = s.boot := rfl
@[simp] theorem updPower_sec (f : Power → Power) : (s.updPower f).sec = s.sec := rfl
@[simp] theorem updPower_mgmt (f : Power → Power) : (s.updPower f).mgmt = s.mgmt := rfl

/-! ## updBoot -/

@[simp] theorem updBoot_pending (f : Boot → Boot) : (s.updBoot f).pending = s.pending := rfl
@[simp] theorem updBoot_cores (f : Boot → Boot) : (s.updBoot f).cores = s.cores := rfl
@[simp] theorem updBoot_pstate (f : Boot → Boot) : (s.updBoot f).pstate = s.pstate := rfl
@[simp] theorem updBoot_gated (f : Boot → Boot) : (s.updBoot f).gated = s.gated := rfl
@[simp] theorem updBoot_time (f : Boot → Boot) : (s.updBoot f).time = s.time := rfl
@[simp] theorem updBoot_us (f : Boot → Boot) : (s.updBoot f).us = s.us := rfl
@[simp] theorem updBoot_fresh (f : Boot → Boot) : (s.updBoot f).fresh = s.fresh := rfl
@[simp] theorem updBoot_keys (f : Boot → Boot) : (s.updBoot f).keys = s.keys := rfl
@[simp] theorem updBoot_out (f : Boot → Boot) : (s.updBoot f).out = s.out := rfl
@[simp] theorem updBoot_caches (f : Boot → Boot) : (s.updBoot f).caches = s.caches := rfl
@[simp] theorem updBoot_hbm (f : Boot → Boot) : (s.updBoot f).hbm = s.hbm := rfl
@[simp] theorem updBoot_hbmBad (f : Boot → Boot) : (s.updBoot f).hbmBad = s.hbmBad := rfl
@[simp] theorem updBoot_hbmKeys (f : Boot → Boot) : (s.updBoot f).hbmKeys = s.hbmKeys := rfl
@[simp] theorem updBoot_htg (f : Boot → Boot) : (s.updBoot f).htg = s.htg := rfl
@[simp] theorem updBoot_hbmTemps (f : Boot → Boot) : (s.updBoot f).hbmTemps = s.hbmTemps := rfl
@[simp] theorem updBoot_chans (f : Boot → Boot) : (s.updBoot f).chans = s.chans := rfl
@[simp] theorem updBoot_tlbs (f : Boot → Boot) : (s.updBoot f).tlbs = s.tlbs := rfl
@[simp] theorem updBoot_ring (f : Boot → Boot) : (s.updBoot f).ring = s.ring := rfl
@[simp] theorem updBoot_invals (f : Boot → Boot) : (s.updBoot f).invals = s.invals := rfl
@[simp] theorem updBoot_ats (f : Boot → Boot) : (s.updBoot f).ats = s.ats := rfl
@[simp] theorem updBoot_pri (f : Boot → Boot) : (s.updBoot f).pri = s.pri := rfl
@[simp] theorem updBoot_priStopped (f : Boot → Boot) : (s.updBoot f).priStopped = s.priStopped := rfl
@[simp] theorem updBoot_links (f : Boot → Boot) : (s.updBoot f).links = s.links := rfl
@[simp] theorem updBoot_fab (f : Boot → Boot) : (s.updBoot f).fab = s.fab := rfl
@[simp] theorem updBoot_ctxs (f : Boot → Boot) : (s.updBoot f).ctxs = s.ctxs := rfl
@[simp] theorem updBoot_queues (f : Boot → Boot) : (s.updBoot f).queues = s.queues := rfl
@[simp] theorem updBoot_journal (f : Boot → Boot) : (s.updBoot f).journal = s.journal := rfl
@[simp] theorem updBoot_rep (f : Boot → Boot) : (s.updBoot f).rep = s.rep := rfl
@[simp] theorem updBoot_left (f : Boot → Boot) : (s.updBoot f).left = s.left := rfl
@[simp] theorem updBoot_feeds (f : Boot → Boot) : (s.updBoot f).feeds = s.feeds := rfl
@[simp] theorem updBoot_power (f : Boot → Boot) : (s.updBoot f).power = s.power := rfl
theorem updBoot_boot (f : Boot → Boot) : (s.updBoot f).boot = f s.boot := rfl
@[simp] theorem updBoot_sec (f : Boot → Boot) : (s.updBoot f).sec = s.sec := rfl
@[simp] theorem updBoot_mgmt (f : Boot → Boot) : (s.updBoot f).mgmt = s.mgmt := rfl

/-! ## updSec -/

@[simp] theorem updSec_pending (f : Security → Security) : (s.updSec f).pending = s.pending := rfl
@[simp] theorem updSec_cores (f : Security → Security) : (s.updSec f).cores = s.cores := rfl
@[simp] theorem updSec_pstate (f : Security → Security) : (s.updSec f).pstate = s.pstate := rfl
@[simp] theorem updSec_gated (f : Security → Security) : (s.updSec f).gated = s.gated := rfl
@[simp] theorem updSec_time (f : Security → Security) : (s.updSec f).time = s.time := rfl
@[simp] theorem updSec_us (f : Security → Security) : (s.updSec f).us = s.us := rfl
@[simp] theorem updSec_fresh (f : Security → Security) : (s.updSec f).fresh = s.fresh := rfl
@[simp] theorem updSec_keys (f : Security → Security) : (s.updSec f).keys = s.keys := rfl
@[simp] theorem updSec_out (f : Security → Security) : (s.updSec f).out = s.out := rfl
@[simp] theorem updSec_caches (f : Security → Security) : (s.updSec f).caches = s.caches := rfl
@[simp] theorem updSec_hbm (f : Security → Security) : (s.updSec f).hbm = s.hbm := rfl
@[simp] theorem updSec_hbmBad (f : Security → Security) : (s.updSec f).hbmBad = s.hbmBad := rfl
@[simp] theorem updSec_hbmKeys (f : Security → Security) : (s.updSec f).hbmKeys = s.hbmKeys := rfl
@[simp] theorem updSec_htg (f : Security → Security) : (s.updSec f).htg = s.htg := rfl
@[simp] theorem updSec_hbmTemps (f : Security → Security) : (s.updSec f).hbmTemps = s.hbmTemps := rfl
@[simp] theorem updSec_chans (f : Security → Security) : (s.updSec f).chans = s.chans := rfl
@[simp] theorem updSec_tlbs (f : Security → Security) : (s.updSec f).tlbs = s.tlbs := rfl
@[simp] theorem updSec_ring (f : Security → Security) : (s.updSec f).ring = s.ring := rfl
@[simp] theorem updSec_invals (f : Security → Security) : (s.updSec f).invals = s.invals := rfl
@[simp] theorem updSec_ats (f : Security → Security) : (s.updSec f).ats = s.ats := rfl
@[simp] theorem updSec_pri (f : Security → Security) : (s.updSec f).pri = s.pri := rfl
@[simp] theorem updSec_priStopped (f : Security → Security) : (s.updSec f).priStopped = s.priStopped := rfl
@[simp] theorem updSec_links (f : Security → Security) : (s.updSec f).links = s.links := rfl
@[simp] theorem updSec_fab (f : Security → Security) : (s.updSec f).fab = s.fab := rfl
@[simp] theorem updSec_ctxs (f : Security → Security) : (s.updSec f).ctxs = s.ctxs := rfl
@[simp] theorem updSec_queues (f : Security → Security) : (s.updSec f).queues = s.queues := rfl
@[simp] theorem updSec_journal (f : Security → Security) : (s.updSec f).journal = s.journal := rfl
@[simp] theorem updSec_rep (f : Security → Security) : (s.updSec f).rep = s.rep := rfl
@[simp] theorem updSec_left (f : Security → Security) : (s.updSec f).left = s.left := rfl
@[simp] theorem updSec_feeds (f : Security → Security) : (s.updSec f).feeds = s.feeds := rfl
@[simp] theorem updSec_power (f : Security → Security) : (s.updSec f).power = s.power := rfl
@[simp] theorem updSec_boot (f : Security → Security) : (s.updSec f).boot = s.boot := rfl
theorem updSec_sec (f : Security → Security) : (s.updSec f).sec = f s.sec := rfl
@[simp] theorem updSec_mgmt (f : Security → Security) : (s.updSec f).mgmt = s.mgmt := rfl

/-! ## updMgmt -/

@[simp] theorem updMgmt_pending (f : Mgmt → Mgmt) : (s.updMgmt f).pending = s.pending := rfl
@[simp] theorem updMgmt_cores (f : Mgmt → Mgmt) : (s.updMgmt f).cores = s.cores := rfl
@[simp] theorem updMgmt_pstate (f : Mgmt → Mgmt) : (s.updMgmt f).pstate = s.pstate := rfl
@[simp] theorem updMgmt_gated (f : Mgmt → Mgmt) : (s.updMgmt f).gated = s.gated := rfl
@[simp] theorem updMgmt_time (f : Mgmt → Mgmt) : (s.updMgmt f).time = s.time := rfl
@[simp] theorem updMgmt_us (f : Mgmt → Mgmt) : (s.updMgmt f).us = s.us := rfl
@[simp] theorem updMgmt_fresh (f : Mgmt → Mgmt) : (s.updMgmt f).fresh = s.fresh := rfl
@[simp] theorem updMgmt_keys (f : Mgmt → Mgmt) : (s.updMgmt f).keys = s.keys := rfl
@[simp] theorem updMgmt_out (f : Mgmt → Mgmt) : (s.updMgmt f).out = s.out := rfl
@[simp] theorem updMgmt_caches (f : Mgmt → Mgmt) : (s.updMgmt f).caches = s.caches := rfl
@[simp] theorem updMgmt_hbm (f : Mgmt → Mgmt) : (s.updMgmt f).hbm = s.hbm := rfl
@[simp] theorem updMgmt_hbmBad (f : Mgmt → Mgmt) : (s.updMgmt f).hbmBad = s.hbmBad := rfl
@[simp] theorem updMgmt_hbmKeys (f : Mgmt → Mgmt) : (s.updMgmt f).hbmKeys = s.hbmKeys := rfl
@[simp] theorem updMgmt_htg (f : Mgmt → Mgmt) : (s.updMgmt f).htg = s.htg := rfl
@[simp] theorem updMgmt_hbmTemps (f : Mgmt → Mgmt) : (s.updMgmt f).hbmTemps = s.hbmTemps := rfl
@[simp] theorem updMgmt_chans (f : Mgmt → Mgmt) : (s.updMgmt f).chans = s.chans := rfl
@[simp] theorem updMgmt_tlbs (f : Mgmt → Mgmt) : (s.updMgmt f).tlbs = s.tlbs := rfl
@[simp] theorem updMgmt_ring (f : Mgmt → Mgmt) : (s.updMgmt f).ring = s.ring := rfl
@[simp] theorem updMgmt_invals (f : Mgmt → Mgmt) : (s.updMgmt f).invals = s.invals := rfl
@[simp] theorem updMgmt_ats (f : Mgmt → Mgmt) : (s.updMgmt f).ats = s.ats := rfl
@[simp] theorem updMgmt_pri (f : Mgmt → Mgmt) : (s.updMgmt f).pri = s.pri := rfl
@[simp] theorem updMgmt_priStopped (f : Mgmt → Mgmt) : (s.updMgmt f).priStopped = s.priStopped := rfl
@[simp] theorem updMgmt_links (f : Mgmt → Mgmt) : (s.updMgmt f).links = s.links := rfl
@[simp] theorem updMgmt_fab (f : Mgmt → Mgmt) : (s.updMgmt f).fab = s.fab := rfl
@[simp] theorem updMgmt_ctxs (f : Mgmt → Mgmt) : (s.updMgmt f).ctxs = s.ctxs := rfl
@[simp] theorem updMgmt_queues (f : Mgmt → Mgmt) : (s.updMgmt f).queues = s.queues := rfl
@[simp] theorem updMgmt_journal (f : Mgmt → Mgmt) : (s.updMgmt f).journal = s.journal := rfl
@[simp] theorem updMgmt_rep (f : Mgmt → Mgmt) : (s.updMgmt f).rep = s.rep := rfl
@[simp] theorem updMgmt_left (f : Mgmt → Mgmt) : (s.updMgmt f).left = s.left := rfl
@[simp] theorem updMgmt_feeds (f : Mgmt → Mgmt) : (s.updMgmt f).feeds = s.feeds := rfl
@[simp] theorem updMgmt_power (f : Mgmt → Mgmt) : (s.updMgmt f).power = s.power := rfl
@[simp] theorem updMgmt_boot (f : Mgmt → Mgmt) : (s.updMgmt f).boot = s.boot := rfl
@[simp] theorem updMgmt_sec (f : Mgmt → Mgmt) : (s.updMgmt f).sec = s.sec := rfl
theorem updMgmt_mgmt (f : Mgmt → Mgmt) : (s.updMgmt f).mgmt = f s.mgmt := rfl

/-! ## gate -/

@[simp] theorem gate_pending (c : CoreId) (g : Bool) : (s.gate c g).pending = s.pending := rfl
@[simp] theorem gate_cores (c : CoreId) (g : Bool) : (s.gate c g).cores = s.cores := rfl
@[simp] theorem gate_pstate (c : CoreId) (g : Bool) : (s.gate c g).pstate = s.pstate := rfl
@[simp] theorem gate_time (c : CoreId) (g : Bool) : (s.gate c g).time = s.time := rfl
@[simp] theorem gate_us (c : CoreId) (g : Bool) : (s.gate c g).us = s.us := rfl
@[simp] theorem gate_fresh (c : CoreId) (g : Bool) : (s.gate c g).fresh = s.fresh := rfl
@[simp] theorem gate_keys (c : CoreId) (g : Bool) : (s.gate c g).keys = s.keys := rfl
@[simp] theorem gate_out (c : CoreId) (g : Bool) : (s.gate c g).out = s.out := rfl
@[simp] theorem gate_caches (c : CoreId) (g : Bool) : (s.gate c g).caches = s.caches := rfl
@[simp] theorem gate_hbm (c : CoreId) (g : Bool) : (s.gate c g).hbm = s.hbm := rfl
@[simp] theorem gate_hbmBad (c : CoreId) (g : Bool) : (s.gate c g).hbmBad = s.hbmBad := rfl
@[simp] theorem gate_hbmKeys (c : CoreId) (g : Bool) : (s.gate c g).hbmKeys = s.hbmKeys := rfl
@[simp] theorem gate_htg (c : CoreId) (g : Bool) : (s.gate c g).htg = s.htg := rfl
@[simp] theorem gate_hbmTemps (c : CoreId) (g : Bool) : (s.gate c g).hbmTemps = s.hbmTemps := rfl
@[simp] theorem gate_chans (c : CoreId) (g : Bool) : (s.gate c g).chans = s.chans := rfl
@[simp] theorem gate_tlbs (c : CoreId) (g : Bool) : (s.gate c g).tlbs = s.tlbs := rfl
@[simp] theorem gate_ring (c : CoreId) (g : Bool) : (s.gate c g).ring = s.ring := rfl
@[simp] theorem gate_invals (c : CoreId) (g : Bool) : (s.gate c g).invals = s.invals := rfl
@[simp] theorem gate_ats (c : CoreId) (g : Bool) : (s.gate c g).ats = s.ats := rfl
@[simp] theorem gate_pri (c : CoreId) (g : Bool) : (s.gate c g).pri = s.pri := rfl
@[simp] theorem gate_priStopped (c : CoreId) (g : Bool) : (s.gate c g).priStopped = s.priStopped := rfl
@[simp] theorem gate_links (c : CoreId) (g : Bool) : (s.gate c g).links = s.links := rfl
@[simp] theorem gate_fab (c : CoreId) (g : Bool) : (s.gate c g).fab = s.fab := rfl
@[simp] theorem gate_ctxs (c : CoreId) (g : Bool) : (s.gate c g).ctxs = s.ctxs := rfl
@[simp] theorem gate_queues (c : CoreId) (g : Bool) : (s.gate c g).queues = s.queues := rfl
@[simp] theorem gate_journal (c : CoreId) (g : Bool) : (s.gate c g).journal = s.journal := rfl
@[simp] theorem gate_rep (c : CoreId) (g : Bool) : (s.gate c g).rep = s.rep := rfl
@[simp] theorem gate_left (c : CoreId) (g : Bool) : (s.gate c g).left = s.left := rfl
@[simp] theorem gate_feeds (c : CoreId) (g : Bool) : (s.gate c g).feeds = s.feeds := rfl
@[simp] theorem gate_power (c : CoreId) (g : Bool) : (s.gate c g).power = s.power := rfl
@[simp] theorem gate_boot (c : CoreId) (g : Bool) : (s.gate c g).boot = s.boot := rfl
@[simp] theorem gate_sec (c : CoreId) (g : Bool) : (s.gate c g).sec = s.sec := rfl
@[simp] theorem gate_mgmt (c : CoreId) (g : Bool) : (s.gate c g).mgmt = s.mgmt := rfl

end Sys2Proof.Machine
end

