-- ==== Sys2Proof/Laws/Device.lean ====
section
/-! SUPPORT. What the shared operations of the device do: events, the Patina level, links, feeds and messages (12:R508 to R515, 13:R574,
18:R759, 20:R801). -/

namespace Sys2Proof.Machine

/-! ## Members of the state by number -/

@[simp] theorem link_setLink (s : State) (l : LinkId) (x : Link) : (s.setLink l x).link l = x := by simp [State.link, State.setLink]

theorem link_setLink_ne (s : State) {l j : LinkId} (x : Link) (h : j ≠ l) : (s.setLink l x).link j = s.link j := by
  have : l.val ≠ j.val := fun e => h (Fin.ext e.symm)
  simp [State.link, State.setLink, this]

@[simp] theorem setLink_setLink (s : State) (l : LinkId) (x y : Link) : (s.setLink l x).setLink l y = s.setLink l y := by
  simp [State.setLink]

@[simp] theorem setLink_link (s : State) (l : LinkId) : s.setLink l (s.link l) = s := by simp [State.setLink, State.link]

@[simp] theorem queue_setQueue (s : State) (q : QueueId) (x : Queue) : (s.setQueue q x).queue q = x := by
  simp [State.queue, State.setQueue]

theorem queue_setQueue_ne (s : State) {q j : QueueId} (x : Queue) (h : j ≠ q) : (s.setQueue q x).queue j = s.queue j := by
  have : q.val ≠ j.val := fun e => h (Fin.ext e.symm)
  simp [State.queue, State.setQueue, this]

@[simp] theorem chan_setChan (s : State) (c : ChanId) (x : Chan) : (s.setChan c x).chan c = x := by simp [State.chan, State.setChan]

theorem chan_setChan_ne (s : State) {c j : ChanId} (x : Chan) (h : j ≠ c) : (s.setChan c x).chan j = s.chan j := by
  have : c.val ≠ j.val := fun e => h (Fin.ext e.symm)
  simp [State.chan, State.setChan, this]

/-! ## Frames -/

theorem sameCompute.refl (s : State) : sameCompute s s := ⟨rfl, rfl, rfl, rfl, rfl, rfl, rfl, rfl, rfl, rfl, rfl⟩

theorem sameCompute.trans {s t u : State} (h : sameCompute s t) (g : sameCompute t u) : sameCompute s u := by
  obtain ⟨a, b, c, d, e, f, i, j, k, l, m⟩ := h
  obtain ⟨a', b', c', d', e', f', i', j', k', l', m'⟩ := g
  exact ⟨a'.trans a, b'.trans b, c'.trans c, d'.trans d, e'.trans e, f'.trans f, i'.trans i, j'.trans j, k'.trans k, l'.trans l, m'.trans m⟩

theorem sameCompute.machine {s t : State} (h : sameCompute s t) : sameMachine s t :=
  ⟨h.1, h.2.1, h.2.2.1, h.2.2.2.1, h.2.2.2.2.1, h.2.2.2.2.2.1, h.2.2.2.2.2.2.1, h.2.2.2.2.2.2.2.1, h.2.2.2.2.2.2.2.2.1⟩

/-- An event is queued or counted as dropped (20:R801), and nothing else changes. -/
theorem event_eq (s : State) (n : Nat) (d : List Word) : ∃ m, s.event n d = { s with mgmt := m } := by
  unfold State.event; dsimp only; split <;> exact ⟨_, rfl⟩

/-- Recomputing the Patina level changes the level and the events (18:R759). -/
theorem setLevel_eq (s : State) (n : Nat) : ∃ v m, s.setLevel n = { s with rep := { s.rep with level := v }, mgmt := m } := by
  unfold State.setLevel; dsimp only; split
  · exact ⟨_, _, rfl⟩
  · obtain ⟨m, h⟩ := event_eq { s with rep := { s.rep with level := BitVec.ofNat 3 n } } 1
      [({ s with rep := { s.rep with level := BitVec.ofNat 3 n } } : State).repPatina]
    exact ⟨_, m, h⟩

theorem recompute_eq (s : State) : ∃ v m, s.recompute = { s with rep := { s.rep with level := v }, mgmt := m } := setLevel_eq s _

/-- The sessions of a link that is down end, and nothing else changes. -/
theorem closeSessions_eq (s : State) (l : LinkId) :
    ∃ e, s.closeSessions l = { s with sec := { s.sec with sessions := e } } := by
  unfold State.closeSessions; split
  · exact ⟨_, rfl⟩
  · exact ⟨_, rfl⟩

/-- A link moves: besides it, only its sessions, the Patina level and the events change. -/
theorem moveLink_eq (s : State) (l : LinkId) (k : Link) :
    ∃ e v m, s.moveLink l k =
      { s with links := s.links.set l k, sec := { s.sec with sessions := e }, rep := { s.rep with level := v }, mgmt := m } := by
  unfold State.moveLink; dsimp only
  split
  · obtain ⟨m, h⟩ := event_eq (s.setLink l k) 6 [natW l.val, k.stat]
    rw [h]
    obtain ⟨e, h'⟩ := closeSessions_eq { s.setLink l k with mgmt := m } l
    rw [h']
    obtain ⟨v, m', h''⟩ := recompute_eq { { s.setLink l k with mgmt := m } with sec := { s.sec with sessions := e } }
    exact ⟨e, v, m', h''⟩
  · obtain ⟨e, h'⟩ := closeSessions_eq (s.setLink l k) l
    rw [h']
    obtain ⟨v, m', h''⟩ := recompute_eq { s.setLink l k with sec := { s.sec with sessions := e } }
    exact ⟨e, v, m', h''⟩

/-- A feed changes: besides it, only the Patina level and the events change. -/
theorem setFeed_eq (s : State) (k : FeedId) (f : Feed) :
    ∃ v m, s.setFeed k f = { s with feeds := s.feeds.set k f, rep := { s.rep with level := v }, mgmt := m } := by
  unfold State.setFeed; dsimp only
  split
  · obtain ⟨m, h⟩ := event_eq { s with feeds := s.feeds.set k f } 7 [natW k.val, f.stat]
    rw [h]
    obtain ⟨v, m', h'⟩ := recompute_eq { { s with feeds := s.feeds.set k f } with mgmt := m }
    exact ⟨v, m', h'⟩
  · exact recompute_eq { s with feeds := s.feeds.set k f }

@[simp] theorem link_moveLink (s : State) (l : LinkId) (k : Link) : (s.moveLink l k).link l = k := by
  obtain ⟨w, v, m, h⟩ := moveLink_eq s l k; simp [h, State.link]

theorem link_moveLink_ne (s : State) {l j : LinkId} (k : Link) (h : j ≠ l) : (s.moveLink l k).link j = s.link j := by
  obtain ⟨w, v, m, e⟩ := moveLink_eq s l k
  have : l.val ≠ j.val := fun e => h (Fin.ext e.symm)
  simp [e, State.link, this]

theorem moveLink_same (s : State) (l : LinkId) (k : Link) : sameCompute s (s.moveLink l k) := by
  obtain ⟨w, v, m, h⟩ := moveLink_eq s l k; rw [h]; exact sameCompute.refl _

@[simp] theorem feed_setFeed (s : State) (k : FeedId) (f : Feed) : (s.setFeed k f).feed k = f := by
  obtain ⟨v, m, h⟩ := setFeed_eq s k f; simp [h, State.feed]

theorem feed_setFeed_ne (s : State) {k j : FeedId} (f : Feed) (h : j ≠ k) : (s.setFeed k f).feed j = s.feed j := by
  obtain ⟨v, m, e⟩ := setFeed_eq s k f
  have : k.val ≠ j.val := fun e => h (Fin.ext e.symm)
  simp [e, State.feed, this]

@[simp] theorem setFeed_links (s : State) (k : FeedId) (f : Feed) : (s.setFeed k f).links = s.links := by
  obtain ⟨v, m, h⟩ := setFeed_eq s k f; rw [h]

theorem setFeed_same (s : State) (k : FeedId) (f : Feed) : sameCompute s (s.setFeed k f) := by
  obtain ⟨v, m, h⟩ := setFeed_eq s k f; rw [h]; exact sameCompute.refl _

@[simp] theorem moveLink_feeds (s : State) (l : LinkId) (k : Link) : (s.moveLink l k).feeds = s.feeds := by
  obtain ⟨w, v, m, h⟩ := moveLink_eq s l k; rw [h]

/-! ## Modules (13:R562) -/

/-- Writing page B1h changes the module's history as held and what is sent. -/
theorem writeB1_eq (s : State) (k : FeedId) :
    s.writeB1 k = s ∨ ∃ f o, s.writeB1 k = { s with feeds := s.feeds.set k f, out := s.out ++ o } := by
  unfold State.writeB1; dsimp only; split
  · exact .inl rfl
  · exact .inr ⟨_, _, by simp [State.page, State.emit]; exact ⟨rfl, rfl⟩⟩

/-- So does darkening a module. -/
theorem darken_eq (s : State) (k : FeedId) :
    ∃ f o, s.darken k = { s with feeds := s.feeds.set k f, out := s.out ++ o } := by
  have e : s.feeds.set k (s.feed k) = s.feeds := by simp [State.feed]
  unfold State.darken; split
  · exact ⟨s.feed k, _, by rw [e]; rfl⟩
  · obtain h | ⟨f, o, h⟩ := writeB1_eq s k
    · rw [h]; exact ⟨s.feed k, _, by rw [e]; rfl⟩
    · rw [h]; exact ⟨f, _, by simp [State.emit]; rfl⟩

@[simp] theorem darken_links (s : State) (k : FeedId) : (s.darken k).links = s.links := by
  obtain ⟨f, o, h⟩ := darken_eq s k; rw [h]

theorem darken_same (s : State) (k : FeedId) : sameCompute s (s.darken k) := by
  obtain ⟨f, o, h⟩ := darken_eq s k; rw [h]; exact sameCompute.refl s

theorem darken_feed_ne (s : State) {k j : FeedId} (h : j ≠ k) : (s.darken k).feed j = s.feed j := by
  obtain ⟨f, o, e⟩ := darken_eq s k
  have : k.val ≠ j.val := fun e => h (Fin.ext e.symm)
  simp [e, State.feed, this]

/-! ## Draining feeds (13:R574) -/

theorem settleFeed_links (s : State) (k : FeedId) : (s.settleFeed k).links = s.links := by
  unfold State.settleFeed; dsimp only; split <;> simp

theorem settleFeed_same (s : State) (k : FeedId) : sameCompute s (s.settleFeed k) := by
  unfold State.settleFeed; dsimp only; split
  · exact (darken_same s k).trans (setFeed_same _ _ _)
  · exact sameCompute.refl s

theorem settleFeed_other (s : State) {k : FeedId} (h : (s.feed k).st ≠ .draining) : s.settleFeed k = s := by
  simp [State.settleFeed, h]

theorem settleFeed_feed_ne (s : State) {k j : FeedId} (h : j ≠ k) : (s.settleFeed k).feed j = s.feed j := by
  unfold State.settleFeed; dsimp only; split
  · rw [feed_setFeed_ne _ _ h]; exact darken_feed_ne s h
  · rfl

/-! ## Leaving UP (12:R509, R510) -/

/-- What leaving UP leaves of a link. -/
theorem link_leaveTo (s : State) (l : LinkId) (c : BitVec 4) (d : LinkState) :
    (s.leaveTo l c d).link l = (s.link l).left c d s.xtal := by
  unfold State.leaveTo; dsimp only
  split
  · simp only [State.link, settleFeed_links]; exact link_moveLink _ _ _
  · exact link_moveLink _ _ _

theorem link_leaveTo_ne (s : State) {l j : LinkId} (c : BitVec 4) (d : LinkState) (h : j ≠ l) : (s.leaveTo l c d).link j = s.link j := by
  unfold State.leaveTo; dsimp only
  split
  · simp only [State.link, settleFeed_links]; exact link_moveLink_ne _ _ h
  · exact link_moveLink_ne _ _ h

theorem leaveTo_same (s : State) (l : LinkId) (c : BitVec 4) (d : LinkState) : sameCompute s (s.leaveTo l c d) := by
  unfold State.leaveTo; dsimp only
  split
  · exact (moveLink_same _ _ _).trans (settleFeed_same _ _)
  · exact moveLink_same _ _ _

/-- A link that is UP leaves for DOWN; another is left as it is. -/
theorem link_leaveUp (s : State) (l : LinkId) (c : BitVec 4) : (s.leaveUp l c).link l =
    if (s.link l).st = .up then (s.link l).left c .down s.xtal else s.link l := by
  unfold State.leaveUp
  by_cases h : (s.link l).st = .up
  · simp only [h, beq_self_eq_true, if_true]; exact link_leaveTo s l c .down
  · have e : ((s.link l).st == LinkState.up) = false := by simpa using h
    rw [e, if_neg h]; rfl

theorem link_leaveUp_ne (s : State) {l j : LinkId} (c : BitVec 4) (h : j ≠ l) : (s.leaveUp l c).link j = s.link j := by
  unfold State.leaveUp; split
  · exact link_leaveTo_ne s c .down h
  · rfl

theorem leaveUp_same (s : State) (l : LinkId) (c : BitVec 4) : sameCompute s (s.leaveUp l c) := by
  unfold State.leaveUp; split
  · exact leaveTo_same _ _ _ _
  · exact sameCompute.refl s

/-! ## Messages on links (12:R514, R515) -/

/-- Sending on a link changes its counts, its buffers and its queue, and nothing that says in what state it is. -/
def Link.keeps (k x : Link) : Prop :=
  x.st = k.st ∧ x.keyed = k.keyed ∧ x.partner = k.partner ∧ x.plink = k.plink ∧ x.lanemap = k.lanemap ∧ x.lost = k.lost ∧
  x.lostRx = k.lostRx ∧ x.cause = k.cause

theorem Link.keeps.trans {k x y : Link} (h : k.keeps x) (g : x.keeps y) : k.keeps y := by
  obtain ⟨a, b, c, d, e, f, i, j⟩ := h
  obtain ⟨a', b', c', d', e', f', i', j'⟩ := g
  exact ⟨a'.trans a, b'.trans b, c'.trans c, d'.trans d, e'.trans e, f'.trans f, i'.trans i, j'.trans j⟩

/-- What sending on a link does to the device: that link, and what is sent. -/
def State.sends (s : State) (l : LinkId) (t : State) : Prop :=
  ∃ k o, t = { s with links := s.links.set l k, out := s.out ++ o } ∧ (s.link l).keeps k

theorem State.sends.refl (s : State) (l : LinkId) : s.sends l s :=
  ⟨s.link l, [], by simp [State.link], rfl, rfl, rfl, rfl, rfl, rfl, rfl, rfl⟩

theorem State.sends.trans {s t u : State} {l : LinkId} (h : s.sends l t) (g : t.sends l u) : s.sends l u := by
  obtain ⟨k, o, rfl, a⟩ := h
  obtain ⟨k', o', rfl, b⟩ := g
  refine ⟨k', o ++ o', by simp, a.trans ?_⟩
  simpa [State.link] using b

theorem State.sends.same {s t : State} {l : LinkId} (h : s.sends l t) : sameCompute s t := by
  obtain ⟨k, o, rfl, -⟩ := h; exact sameCompute.refl s

theorem setLink_sends (s : State) (l : LinkId) (k : Link) (h : (s.link l).keeps k) : s.sends l (s.setLink l k) :=
  ⟨k, [], by simp [State.setLink], h⟩

theorem emit_sends (s : State) (l : LinkId) (o : Out) : s.sends l (s.emit o) :=
  ⟨s.link l, [o], by simp [State.emit, State.link], rfl, rfl, rfl, rfl, rfl, rfl, rfl, rfl⟩

theorem sendFlit_sends (s : State) (l : LinkId) (nak idle : Bool) (q : BitVec 16) (b : List Byte) : s.sends l (s.sendFlit l nak idle q b) :=
  (setLink_sends s l _ (by exact ⟨rfl, rfl, rfl, rfl, rfl, rfl, rfl, rfl⟩)).trans (emit_sends _ _ _)

theorem sendSlots_sends (s : State) (l : LinkId) (b : List Byte) : s.sends l (s.sendSlots l b) :=
  (setLink_sends s l _ (by exact ⟨rfl, rfl, rfl, rfl, rfl, rfl, rfl, rfl⟩)).trans (sendFlit_sends _ _ _ _ _ _)

theorem sendFlits_sends (s : State) (l : LinkId) (m : Msg) : s.sends l (s.sendFlits l m) := by
  have each : ∀ (bs : List (List Byte)) (s : State), s.sends l (bs.foldl (fun s c => s.sendSlots l c) s) := by
    intro bs
    induction bs with
    | nil => exact fun s => State.sends.refl s l
    | cons b bs ih => exact fun s => (sendSlots_sends s l b).trans (ih _)
  exact (emit_sends _ _ _).trans (each _ _)

theorem startMsg_sends (s : State) (l : LinkId) (m : Msg) : s.sends l (s.startMsg l m) := by
  have h := (setLink_sends s l { s.link l with
    credits := (s.link l).credits.set (vcOf m) ((s.link l).credits[vcOf m] - BitVec.ofNat 16 (slotsOf m)),
    starved := (s.link l).starved.set (vcOf m) none } (by exact ⟨rfl, rfl, rfl, rfl, rfl, rfl, rfl, rfl⟩)).trans (sendFlits_sends _ l m)
  unfold State.startMsg; dsimp only; split
  · exact h.trans (setLink_sends _ l _ (by
      unfold Link.switchKey; split <;> exact ⟨rfl, rfl, rfl, rfl, rfl, rfl, rfl, rfl⟩))
  · exact h

/-- What starting queued messages changes: that link's counts and queue, and what is sent. -/
theorem startQueued_sends (l : LinkId) (ms : List Msg) : ∀ s : State, s.sends l (s.startQueued l ms) := by
  induction ms with
  | nil => exact fun s => State.sends.refl s l
  | cons m ms ih =>
    intro s
    unfold State.startQueued; dsimp only
    split
    · exact (startMsg_sends s l m).trans (ih _)
    · exact (setLink_sends s l _ (by exact ⟨rfl, rfl, rfl, rfl, rfl, rfl, rfl, rfl⟩)).trans (ih _)

theorem noteStarved_sends (s : State) (l : LinkId) : s.sends l (s.noteStarved l) :=
  setLink_sends s l _ (by exact ⟨rfl, rfl, rfl, rfl, rfl, rfl, rfl, rfl⟩)

theorem drainLink_sends (s : State) (l : LinkId) : s.sends l (s.drainLink l) :=
  ((setLink_sends s l { s.link l with queue := [] } (by exact ⟨rfl, rfl, rfl, rfl, rfl, rfl, rfl, rfl⟩)).trans (startQueued_sends _ _ _)).trans
    (noteStarved_sends _ _)

theorem push_sends (s : State) (l : LinkId) (m : Msg) : s.sends l (s.push l m) :=
  (startQueued_sends l [m] s).trans (noteStarved_sends _ _)

theorem drainLink_same (s : State) (l : LinkId) : sameCompute s (s.drainLink l) := (drainLink_sends s l).same

theorem push_same (s : State) (l : LinkId) (m : Msg) : sameCompute s (s.push l m) := (push_sends s l m).same

theorem sendMsg_same (s : State) (m : Msg) : sameCompute s (s.sendMsg m) := by
  unfold State.sendMsg; split
  · exact sameCompute.refl s
  · split
    · exact push_same _ _ _
    · exact sameCompute.refl s

end Sys2Proof.Machine
end

