-- ==== Sys2Proof/Laws/Memory.lean ====
section
/-! SUPPORT. Memory in its canonical form: addresses strictly rising, no byte zero; every operation keeps it, and so does reset. -/

namespace Sys2Proof.Machine

/-! ## The canonical form -/

/-- The form in terms of the list: addresses rise, and no listed byte is zero. -/
theorem wf_iff (m : Mem) : m.wf = true ↔ m.Pairwise (fun x y => x.1 < y.1) ∧ ∀ c ∈ m, c.2 ≠ 0#8 := by
  induction m with
  | nil => simp [Mem.wf]
  | cons c m ih =>
    cases m with
    | nil => simp [Mem.wf]
    | cons d m =>
      rw [Mem.wf, Bool.and_eq_true, Bool.and_eq_true, ih, List.pairwise_cons (a := c)]
      simp only [bne_iff_ne, decide_eq_true_eq, List.forall_mem_cons]
      constructor
      · rintro ⟨⟨h0, hlt⟩, hp, hd, hm⟩
        have hd' := (List.pairwise_cons.1 hp).1
        exact ⟨⟨⟨hlt, fun x hx => Nat.lt_trans hlt (hd' x hx)⟩, hp⟩, h0, hd, hm⟩
      · rintro ⟨⟨⟨hlt, -⟩, hp⟩, h0, hd, hm⟩
        exact ⟨⟨h0, hlt⟩, hp, hd, hm⟩

/-- A part of a memory is in the form. -/
theorem wf_filter {m : Mem} (p : Host.Cell → Bool) (h : m.wf = true) : Mem.wf (m.filter p) = true := by
  rw [wf_iff] at h ⊢
  exact ⟨h.1.filter p, fun c hc => h.2 c (List.mem_filter.1 hc).1⟩

/-- A memory before an address, then one from there on. -/
theorem wf_append {m n : Mem} (a : Nat) (hm : m.wf = true) (hn : n.wf = true) (lo : ∀ c ∈ m, c.1 < a) (hi : ∀ c ∈ n, a ≤ c.1) :
    Mem.wf (m ++ n) = true := by
  rw [wf_iff] at hm hn ⊢
  refine ⟨List.pairwise_append.2 ⟨hm.1, hn.1, fun x hx y hy => Nat.lt_of_lt_of_le (lo x hx) (hi y hy)⟩, fun c hc => ?_⟩
  rcases List.mem_append.1 hc with hc | hc
  · exact hm.2 c hc
  · exact hn.2 c hc

/-! ## Operations -/

/-- The cells of a run lie in it. -/
theorem cells_range (bs : List Byte) : ∀ a, ∀ c ∈ Mem.cells a bs, a ≤ c.1 ∧ c.1 < a + bs.length := by
  induction bs with
  | nil => simp [Mem.cells]
  | cons b bs ih =>
    intro a c hc
    rw [Mem.cells] at hc
    have tail : c ∈ Mem.cells (a + 1) bs → a ≤ c.1 ∧ c.1 < a + (b :: bs).length := fun h => by
      have := ih (a + 1) c h
      simp only [List.length_cons]; omega
    split at hc
    · exact tail hc
    · rcases List.mem_cons.1 hc with rfl | hc
      · simp
      · exact tail hc

theorem cells_wf (bs : List Byte) : ∀ a, (Mem.cells a bs).wf = true := by
  induction bs with
  | nil => intro a; rfl
  | cons b bs ih =>
    intro a
    rw [Mem.cells]
    split
    · exact ih (a + 1)
    · rename_i hb
      refine wf_append (m := [(a, b)]) (a + 1) (by simpa [Mem.wf] using hb) (ih (a + 1)) (by simp) fun c hc => (cells_range bs (a + 1) c hc).1

/-- Putting bytes keeps the form. -/
theorem put_wf {m : Mem} (a : Nat) (bs : List Byte) (h : m.wf = true) : (m.put a bs).wf = true := by
  have c := cells_range bs a
  refine wf_append a (wf_filter _ h) (wf_append (a + bs.length) (cells_wf bs a) (wf_filter _ h) (fun x hx => (c x hx).2) ?_) ?_ ?_
  · intro x hx; simpa using (List.mem_filter.1 hx).2
  · intro x hx; simpa using (List.mem_filter.1 hx).2
  · intro x hx
    rcases List.mem_append.1 hx with hx | hx
    · exact (c x hx).1
    · have := (List.mem_filter.1 hx).2
      simp only [decide_eq_true_eq] at this; omega

theorem putLe_wf {m : Mem} (a n v : Nat) (h : m.wf = true) : (m.putLe a n v).wf = true := put_wf a _ h

/-- What a load's image leaves (15:R637). -/
theorem fill_wf {m : Mem} (a n : Nat) (bs : List Byte) (h : m.wf = true) : (m.fill a n bs).wf = true := by
  have c := cells_range (bs.take n) a
  have l : (bs.take n).length ≤ n := List.length_take_le n bs
  refine wf_append a (wf_filter _ h) (wf_append (a + n) (cells_wf _ a) (wf_filter _ h) (fun x hx => ?_) ?_) ?_ ?_
  · have := (c x hx).2; omega
  · intro x hx; simpa using (List.mem_filter.1 hx).2
  · intro x hx; simpa using (List.mem_filter.1 hx).2
  · intro x hx
    rcases List.mem_append.1 hx with hx | hx
    · exact (c x hx).1
    · have := (List.mem_filter.1 hx).2
      simp only [decide_eq_true_eq] at this; omega

/-! ## Reset -/

/-- Every memory of the device after reset is in the form. -/
theorem reset_wf : State.reset.hbm.wf = true ∧ ∀ c : CoreId,
    (State.reset.core c).imem.wf = true ∧ (State.reset.core c).dmem.wf = true ∧ (State.reset.core c).spad.wf = true ∧
    (State.reset.core c).vregs.wf = true := by
  refine ⟨rfl, fun c => ?_⟩
  have : State.reset.core c = Core.reset := by simp [State.core, State.reset]
  rw [this]; exact ⟨rfl, rfl, rfl, rfl⟩

end Sys2Proof.Machine
end

