-- ==== Sys2Proof/Tests/Slice0.lean ====
section
/-! SUPPORT. Small tests: ill-formed commands, words and values of the spec, and for each statement of the certificate a state and
operands that meet its hypotheses. -/

namespace Sys2Proof.Tests

set_option Elab.async false

open Sys2Proof.Machine

/-! ## States to test in -/

/-- A core at level Runtime with room for a frame, at 0x1000. -/
def core1 : Core := { Core.reset with pc := 0x1000#20, spR := 0x8000#64, spF := 0x9000#64, spK := 0x7000#64, tlvl := ⟨false, false, 0#2, .runtime⟩ }

/-- The device running, with core 0 as given. -/
def withCore (k : Core) : State := { State.reset with pstate := .run, gated := 0#32, cores := State.reset.cores.set 0 k }

def st1 : State := withCore core1

/-- What a command leaves, when it goes on. -/
def leaves (o : Host.Outcome State Fault Refusal) (p : State → Bool) : Bool :=
  match o with
  | .next t => p t
  | _ => false

/-- A core with values in g1 and g2. -/
def regs2 (a b : Word) : Core := (core1.setReg 1#5 a).setReg 2#5 b

/-! ## Ill-formed commands -/

theorem wf_load : (Instr.scalarLoad 0 0x16#6 1#5 1#5 0#16 none).wf ∧ ¬ (Instr.scalarLoad 0 0x17#6 1#5 1#5 0#16 none).wf := by decide
theorem wf_store : (Instr.scalarStore 0 0x1B#6 1#5 1#5 0#16 none).wf ∧ ¬ (Instr.scalarStore 0 0x1C#6 1#5 1#5 0#16 none).wf := by decide
theorem wf_alu : (Instr.integerAlu 0 0x00F#11 1#5 1#5 0#5).wf ∧ ¬ (Instr.integerAlu 0 0x010#11 1#5 1#5 0#5).wf := by decide
theorem wf_imm : (Instr.immediateAlu 0 0x07#6 1#5 1#5 0#16 none).wf ∧ ¬ (Instr.immediateAlu 0 0x08#6 1#5 1#5 0#16 none).wf := by decide
theorem wf_shift : (Instr.immediateShift 0 1#5 1#5 0x23F#16).wf ∧ ¬ (Instr.immediateShift 0 1#5 1#5 0x300#16).wf := by decide
theorem wf_muldiv : (Instr.multiplyDivide 0 7#11 1#5 1#5 1#5).wf ∧ ¬ (Instr.multiplyDivide 0 8#11 1#5 1#5 1#5).wf := by decide
theorem wf_fp : (Instr.scalarFloatingPoint 0 0x2F#11 1#5 1#5 0#5).wf ∧ ¬ (Instr.scalarFloatingPoint 0 0x2B#11 1#5 1#5 0#5).wf := by decide
theorem wf_branch : (Instr.branch 0 0x25#6 1#5 1#5 0#16).wf ∧ ¬ (Instr.branch 0 0x26#6 1#5 1#5 0#16).wf := by decide

/-- A V-format word's fields with FN, all else zero. -/
def vf (fn : BitVec 7) : VFields := ⟨0#5, 0#5, 0#5, false, 0#3, fn⟩

theorem wf_memory : (Instr.vscat 0 (vf 5#7)).wf ∧ ¬ (Instr.vscat 0 (vf 6#7)).wf := by decide
theorem wf_vfp : (Instr.vectorFpArithmetic 0 (vf 0x0A#7)).wf ∧ ¬ (Instr.vectorFpArithmetic 0 (vf 0x0B#7)).wf ∧
    ¬ (Instr.vectorFpCompare 0 (vf 0x13#7)).wf := by decide
theorem wf_vint : (Instr.vectorIntegerArithmetic 0 (vf 0x0E#7)).wf ∧ ¬ (Instr.vectorIntegerArithmetic 0 (vf 0x0F#7)).wf ∧
    ¬ (Instr.vectorIntegerCompare 0 (vf 0x0F#7)).wf := by decide
theorem wf_fixed : (Instr.vectorFixedPoint 0 (vf 0x19#7)).wf ∧ ¬ (Instr.vectorFixedPoint 0 (vf 0x06#7)).wf := by decide
theorem wf_masks : (Instr.mfirst 0 (vf 9#7)).wf ∧ ¬ (Instr.mfirst 0 (vf 8#7)).wf ∧ ¬ (Instr.maskLogic 0 (vf 4#7)).wf := by decide
theorem wf_reductions : (Instr.vwadd 0 (vf 0x18#7)).wf ∧ ¬ (Instr.vwadd 0 (vf 0x19#7)).wf ∧ ¬ (Instr.vrsum 0 (vf 6#7)).wf := by decide
theorem wf_running : (Instr.interruptTaken 0 none).wf ∧ ¬ (Instr.interruptTaken 0 (some ⟨0x2F#6, vf 0#7, 0⟩)).wf := by decide
theorem wf_line : (Instr.lineRequestRead 0#3 0x100 256 false false).wf ∧ ¬ (Instr.lineRequestRead 0#3 0x101 256 false false).wf := by decide
theorem wf_atomic : (Instr.atomicLineRequest 0#3 .wadd 0 ⟨List.replicate 32 0#8, false⟩).wf ∧
    ¬ (Instr.atomicLineRequest 0#3 .wadd 0 ⟨List.replicate 31 0#8, false⟩).wf := by decide +kernel
theorem wf_patrol : (Instr.memoryPatrol .dmem 31 0x3FFFF .clean).wf ∧ ¬ (Instr.memoryPatrol .dmem 32 0 .clean).wf ∧
    ¬ (Instr.scratchpadPatrolScrub 0 0x5800000 .clean).wf := by decide
theorem wf_translation : (Instr.atsTranslationCompletion 0 (.grant 0x1000 12 true true)).wf ∧
    ¬ (Instr.atsTranslationCompletion 0 (.grant 0x1000 13 true true)).wf ∧ ¬ (Instr.atsInvalidationRequest 0#20 1 4096).wf := by decide
theorem wf_access : ¬ (Instr.descriptorAccess 0 (.data (List.replicate 257 0#8))).wf := by decide +kernel
theorem wf_temps : ¬ (Instr.hbmTemperatureSample []).wf ∧ ¬ (Instr.thermalSample ⟨[], [], [], []⟩).wf ∧
    ¬ (Instr.telemetryPublish ⟨[], [], [], []⟩ 0 [0, 0] [0, 0]).wf := by decide
theorem wf_modules : ¬ (Instr.moduleWarmingTimeout 0 [] true).wf ∧ ¬ (Instr.laserHourlyUpdate 0 []).wf := by decide
theorem wf_markers : ¬ (Instr.d2dMarkerExchange []).wf := by decide
theorem wf_staging : ¬ (Instr.stagingData false 0 (List.replicate 4097 0#8)).wf := by decide +kernel
theorem wf_register : (Instr.registerWrite 8#25 0#64).wf ∧ ¬ (Instr.registerWrite 9#25 0#64).wf := by decide
theorem wf_debug : ¬ (Instr.debugCoreAccess 0 (.readVec 0 262145)).wf := by decide

/-! ## Steps -/

theorem test_idle : leaves (step { State.reset with boot := { State.reset.boot with crystal := true } }) (fun t => t.us == 1 && t.time == 1000) = true := by
  decide +kernel
theorem test_front : leaves (step { st1 with pending := [.jump 0 1#26, .jump 0 2#26] })
    (fun t => (t.core 0).pc == 0x1004#20 && t.pending.length == 1) = true := by decide +kernel

/-! ## Scalar core -/

theorem hyp_IntegerResults : st1.ready 0 4 ∧ st1.ready 0 8 ∧ (0x00F#11 < 0x010#11) ∧ pfxBad (some 0x2000001#26) = true ∧ pfxBad (some 1#26) = false := by unfold State.ready; decide

/-- CLZ at 0 and at 1 (02:R90). -/
theorem test_clz : aluOp 0x00E#11 0#5 0#64 0#64 = some 64#64 ∧ aluOp 0x00E#11 0#5 1#64 0#64 = some 63#64 := by decide +kernel

theorem test_add_wraps : leaves (exec (.integerAlu 0 0x000#11 3#5 1#5 2#5) (withCore (regs2 0xFFFFFFFFFFFFFFFF#64 2#64)))
    (fun t => (t.core 0).reg 3#5 == 1#64 && (t.core 0).pc == 0x1004#20) = true := by decide +kernel

/-- A prefix holds the high 24 bits of the immediate (02:R84): ADDI with 0x00_0001 and 0x8000. A prefix of KIND 0b10 there is illegal (02:R86). -/
theorem test_addi_long : leaves (exec (.immediateAlu 0 0x02#6 3#5 0#5 0x8000#16 (some 1#26)) st1)
    (fun t => (t.core 0).reg 3#5 == 0x18000#64 && (t.core 0).pc == 0x1008#20) = true ∧
    leaves (exec (.immediateAlu 0 0x02#6 3#5 0#5 0x8000#16 (some 0x2000001#26)) st1) (fun t => ((t.core 0).bank .firmware).trc == 1#64) = true := by
  decide +kernel

theorem test_srai : leaves (exec (.immediateShift 0 3#5 1#5 0x23F#16) (withCore (regs2 0x8000000000000000#64 0#64)))
    (fun t => (t.core 0).reg 3#5 == 0xFFFFFFFFFFFFFFFF#64) = true := by decide +kernel

theorem hyp_MultiplyDivideResults : let s := withCore (regs2 0x8000000000000000#64 0xFFFFFFFFFFFFFFFF#64)
    s.ready 0 4 ∧ (s.core 0).reg 1#5 = 0x8000000000000000#64 ∧ (s.core 0).reg 2#5 = 0xFFFFFFFFFFFFFFFF#64 := by
  unfold State.ready; decide +kernel

/-- Division by zero (02:R91). -/
theorem test_div_zero : mulDivOp 4#11 5#64 0#64 = some 0xFFFFFFFFFFFFFFFF#64 ∧ mulDivOp 6#11 5#64 0#64 = some 5#64 := by decide +kernel
/-- The overflow of R91, and the sign of a remainder (02:R90). -/
theorem test_div_overflow : mulDivOp 4#11 0x8000000000000000#64 0xFFFFFFFFFFFFFFFF#64 = some 0x8000000000000000#64 ∧
    mulDivOp 6#11 0xFFFFFFFFFFFFFFF9#64 2#64 = some 0xFFFFFFFFFFFFFFFF#64 := by decide +kernel

/-- 1.0 + 1.0 with no trap enabled, and a NaN in RA (02:R92, 03:R136). -/
theorem hyp_ScalarFpResults : let s := withCore (regs2 0x3FF0000000000000#64 0x7FF0000000000001#64)
    s.ready 0 4 ∧ (s.core 0).lets fNV ∧ (s.core 0).fmode.rm.toNat ≤ 5 ∧
    (fp64.decode ((s.core 0).reg 1#5).toNat).isNan = false ∧ (fp64.decode ((s.core 0).reg 2#5).toNat).isSig = true := by
  unfold State.ready Core.lets; decide +kernel

theorem test_fadd : leaves (exec (.scalarFloatingPoint 0 0x000#11 3#5 1#5 1#5) (withCore (regs2 0x3FF0000000000000#64 0#64)))
    (fun t => (t.core 0).reg 3#5 == 0x4000000000000000#64 && (t.core 0).fflags == 0#10) = true := by decide +kernel
/-- FDIV by zero: an infinity and DZ (bit 3). -/
theorem test_fdiv_zero : leaves (exec (.scalarFloatingPoint 0 0x003#11 3#5 1#5 0#5) (withCore (regs2 0x3FF0000000000000#64 0#64)))
    (fun t => (t.core 0).reg 3#5 == 0x7FF0000000000000#64 && (t.core 0).fflags == 8#10) = true := by decide +kernel

/-- A store of 0x8001 to 0x100 waits in the buffer. -/
def buffered : Core := { regs2 0x100#64 0x8001#64 with sb := [⟨0x100, 2, 0x8001#64⟩] }

theorem hyp_LoadSeesEarlierStores : let s := withCore buffered
    s.ready 0 4 ∧ scalarMay (s.core 0) false 0x100 2 ∧ scalarMay (s.core 0) false 0x100 8 ∧ (s.core 0).bufferOk ∧ (s.core 0).badDmem = [] := by
  unfold State.ready scalarMay Core.bufferOk; decide +kernel

/-- LD16 of it is sign-extended and leaves the store in the buffer; LD64 overlaps it in part and waits for it (02:R95, R115, R116). -/
theorem test_load_forward : leaves (exec (.scalarLoad 0 0x12#6 3#5 1#5 0#16 none) (withCore buffered))
    (fun t => (t.core 0).reg 3#5 == 0xFFFFFFFFFFFF8001#64 && (t.core 0).sb.length == 1) = true := by decide +kernel
theorem test_load_drain : leaves (exec (.scalarLoad 0 0x16#6 3#5 1#5 0#16 none) (withCore buffered))
    (fun t => (t.core 0).reg 3#5 == 0x8001#64 && (t.core 0).sb.length == 0) = true := by decide +kernel

theorem hyp_LoadTrapsAndForwarding : let s := withCore buffered
    s.ready 0 4 ∧ placeOf 0x101 ≠ .alias_ ∧ placeOf 0x100000 = .alias_ ∧ (s.core 0).level ≠ .firmware ∧
    (withCore { core1 with tlvl := ⟨false, false, 0#2, .firmware⟩, badDmem := [0x100] }).ready 0 4 ∧
    scalarMay { core1 with badDmem := [0x100] } false 0x104 4 ∧ placeOf 0x104 = .dmem ∧ 0x104 / 8 * 8 = 0x100 ∧
    (⟨0x100, 2, 0x8001#64⟩ : SbEntry).covers 0x101 1 = true := by
  unfold State.ready scalarMay; decide +kernel

theorem test_load_misaligned : leaves (exec (.scalarLoad 0 0x12#6 3#5 1#5 1#16 none) (withCore buffered))
    (fun t => ((t.core 0).bank .runtime).trc == 3#64 || ((t.core 0).bank .firmware).trc == 3#64) = true := by decide +kernel

/-- A buffer of eight stores. -/
def full : Core := { regs2 0x200#64 7#64 with sb := List.replicate 8 ⟨0x100, 8, 9#64⟩ }

theorem hyp_StoresEnterAndLeaveTheBuffer : (withCore buffered).ready 0 4 ∧ scalarMay buffered true 0x100 8 ∧ buffered.sb.length < 8 ∧
    full.sb.length = 8 ∧ full.badImem = [] ∧ (withCore full).ready 0 4 ∧ scalarMay full true 0x200 8 ∧
    scalarMay { core1 with tlvl := ⟨false, false, 0#2, .firmware⟩ } true 0x100000 4 ∧ placeOf 0x100000 = .alias_ ∧
    (withCore buffered).pstate = .run ∧ ((withCore buffered).core 0).sb = [⟨0x100, 2, 0x8001#64⟩] ∧ (2 : Nat) ∣ 8 := by
  unfold State.ready scalarMay; decide +kernel

/-- The buffers of a step: one core with eight checked stores, the others empty; a ninth store is no such buffer. -/
theorem hyp_BufferedStoresStayChecked : full.bufferOk ∧ full.sb.length ≤ 8 ∧ (withCore full).core 0 = full ∧ Core.reset.bufferOk ∧
    ¬ ({ full with sb := [⟨0x101, 2, 0#64⟩] } : Core).bufferOk := by
  unfold Core.bufferOk; decide +kernel

theorem test_store_full : leaves (exec (.scalarStore 0 0x1B#6 2#5 1#5 0#16 none) (withCore full))
    (fun t => (t.core 0).sb.length == 8 && (t.core 0).dmem.getLe 0x100 8 == 9) = true := by decide +kernel
theorem test_drain : leaves (exec (.storeBufferDrain 0) (withCore buffered))
    (fun t => (t.core 0).sb == [] && (t.core 0).dmem.getLe 0x100 2 == 0x8001) = true := by decide +kernel

theorem hyp_MemoryReadAfterWrite : Mem.wf [(1, 2#8), (3, 4#8)] = true ∧ Mem.wf [(1, 0#8)] = false := by decide

theorem hyp_ControlTransfers : st1.ready 0 4 ∧ st1.ready 0 8 ∧ targetOk 0xFFFFC#64 ∧ ¬ targetOk 0x100000#64 ∧ ¬ targetOk 2#64 := by
  unfold State.ready targetOk; decide

/-- A branch by −4 bytes taken, and one to 0x0010_0000 refused (02:R96, R97): the trap's value is the target. -/
theorem test_branch_back : leaves (exec (.branch 0 0x20#6 0#5 0#5 0xFFFF#16) st1) (fun t => (t.core 0).pc == 0xFFC#20) = true := by decide +kernel
theorem test_jal : leaves (exec (.jal 0 0x3FFFFFF#26) st1) (fun t => (t.core 0).pc == 0xFFC#20 && (t.core 0).reg 30#5 == 0x1004#64) = true := by
  decide +kernel
theorem test_jalr_bad : leaves (exec (.jalr 0 3#5 1#5 0#16 none) (withCore (regs2 0x100000#64 0#64)))
    (fun t => (t.core 0).reg 3#5 == 0#64 && ((t.core 0).bank .firmware).trv == 0x100000#64) = true := by decide +kernel

theorem hyp_RegisterFile : (3#5 : Reg) ≠ 0#5 ∧ Level.kernel ≠ core1.level := by decide

/-- A core in double-fault state, one with a stack pointer that is not aligned, one with vectors at both levels. -/
def faulted : Core := { core1 with dfault := true }
def badSp : Core := { core1 with spF := 0x9001#64, spR := 0x8001#64, tlvl := ⟨false, false, 0#2, .firmware⟩ }
def vectored : Core := { core1 with banks := #v[TrapBank.reset 1#9, TrapBank.reset 2#9, TrapBank.reset 0x1E1#9] }
def kernel1 : Core := { vectored with tlvl := ⟨false, false, 0#2, .kernel⟩ }

theorem hyp_SystemInstructions : st1.ready 0 4 ∧ core1.settled ∧ core1.dfault = false ∧ frameOk core1.spF = true ∧
    (withCore vectored).ready 0 4 ∧ (vectored.bank .runtime).base ≠ 0#9 ∧ frameOk vectored.spR = true ∧
    (withCore kernel1).ready 0 4 ∧ (kernel1.bank .kernel).base ≠ 0#9 ∧ frameOk kernel1.spK = true ∧ kernel1.settled ∧ vectored.settled ∧
    (withCore badSp).ready 0 4 ∧ badSp.settled ∧ frameOk badSp.spF = false ∧ (withCore faulted).ready 0 4 := by
  unfold State.ready Core.settled; decide +kernel

/-- FWCALL from Runtime: cause 9, the return address is the instruction's own, the vector is 0xF0800 + 16 × 9 (09:R371, R375, R380). -/
theorem test_fwcall : leaves (exec (.fwcall 0 0#5 0#5 0#5) st1) (fun t => (t.core 0).pc == 0xF0890#20 && (t.core 0).level == .firmware &&
    (t.core 0).spF == 0x8FC0#64 && ((t.core 0).bank .firmware).trc == 9#64 && ((t.core 0).bank .firmware).trpc == 0x1000#64) = true := by
  decide +kernel
theorem test_break_halts : leaves (exec (.brk 0 0#5 0#5 0#5) (withCore faulted)) (fun t => (t.core 0).halted) = true := by decide +kernel

/-- A core in a Firmware handler whose frame names Runtime and whose TRPC is 0x2000; and one whose frame names the level 3. -/
def handler (cur : Word) : Core :=
  { core1 with
    tlvl := ⟨false, false, 1#2, .firmware⟩
    spF := 0x8FC0#64
    banks := core1.banks.set 2 { TrapBank.reset 0x1E1#9 with trpc := 0x2000#64 }
    dmem := Mem.put [] 0x8FC0 (wordsBytes [1#64, 2#64, 3#64, cur]) }

theorem hyp_TretRestores : (withCore (handler 1#64)).ready 0 4 ∧ (handler 1#64).settled ∧ (handler 1#64).spF.toNat % 16 = 0 ∧
    frameOk ((handler 1#64).spF + 64#64) = true ∧ (handler 1#64).dmem.getLe (0x8FC0 + 24) 8 % 4 = 1 ∧ targetOk ((handler 1#64).bank .firmware).trpc ∧
    (withCore (handler 3#64)).ready 0 4 ∧ (handler 3#64).dmem.getLe (0x8FC0 + 24) 8 % 4 = 3 ∧
    (withCore faulted).ready 0 4 ∧ faulted.settled ∧ badSp.spF.toNat % 16 ≠ 0 := by
  unfold State.ready Core.settled targetOk; decide +kernel

theorem test_tret : leaves (exec (.tret 0 0#5 0#5 0#5) (withCore (handler 1#64))) (fun t => (t.core 0).pc == 0x2000#20 &&
    (t.core 0).level == .runtime && (t.core 0).spF == 0x9000#64 && ((t.core 0).bank .firmware).trpc == 2#64) = true := by decide +kernel

/-! ## Control registers, traps, resets, replay -/

theorem hyp_ControlRegisterAccess : st1.ready 0 4 ∧ core1.inFlight = false ∧ Level.kernel.num ≤ core1.level.num ∧ core1.level.num < Level.firmware.num ∧
    ({ core1 with tlvl := ⟨false, false, 0#2, .firmware⟩, arun := some ⟨0#3, [], [], false⟩ } : Core).inFlight = true ∧ (0x070#12 < 0x071#12) := by
  unfold State.ready; decide +kernel

/-- A reserved RM leaves RM, and FFLAGS bits are cleared by a 1 (02:R105, R111). -/
theorem test_fmode : leaves (exec (.crw 0 3#5 1#5 0x041#12) (withCore (regs2 0x1016#64 0#64)))
    (fun t => (t.core 0).fmode == ⟨1#10, true, 0#3⟩) = true := by decide +kernel
theorem test_fflags : leaves (exec (.crw 0 3#5 1#5 0x040#12) (withCore { regs2 0x1#64 0#64 with fflags := 3#10 }))
    (fun t => (t.core 0).fflags == 2#10 && (t.core 0).reg 3#5 == 3#64) = true := by decide +kernel
/-- CRSET of the read-only PASID is illegal (02:R103). -/
theorem test_readonly : leaves (exec (.crset 0 3#5 1#5 0x001#12) st1) (fun t => ((t.core 0).bank .firmware).trc == 1#64) = true := by decide +kernel

/-- A resident context of core 0 whose RUN is under way. -/
def ctx1 : Context :=
  { pasid := 5#20, st := .running, loading := false, mask := 1#32, direct := true, modes := 0#8, entry := 0x1000#20, spintUs := 0#32,
    lo := ⟨1, 0, 1#32, 0, 96, 0x1000, [], []⟩, hbm := [], host := [], chans := [0], outs := [], ins := [], classes := [], regions := [], replay := [],
    hbmKey := 1, counters := Vector.replicate 256 3#64, sigErrs := 0#32, quiet := false, run := some ⟨none, 7#64, 1#32, []⟩, pausedRun := none }

/-- The device running that context, with core 0 as given. -/
def withRun (k : Core) : State := { withCore k with ctxs := [ctx1] }

theorem hyp_context (k : Core) : (withRun k).ctxOf 0 = some ctx1 ∧ (withRun k).ctx 5#20 = some ctx1 ∧ ctx1.run = some ⟨none, 7#64, 1#32, []⟩ ∧
    (withRun k).ctxs.filter (fun y => y.pasid == ctx1.pasid) = [ctx1] := ⟨rfl, rfl, rfl, rfl⟩

/-- Core 0 in its Kernel program, with a vector base at Runtime and a notice pending. -/
def kern : Core := { vectored with tlvl := ⟨false, false, 0#2, .kernel⟩, active := true }
def noticed : Core := { kern with pNotice := some 2#8 }
def over_ : Core := { kern with spint := 1#16, cycle := 2049#64 }

theorem hyp_InterruptsAndSyscall : (withRun noticed).issues 0 = true ∧ noticed.settled ∧ noticed.level.num < noticed.runtimeOr.num ∧
    frameOk (noticed.sp noticed.runtimeOr) = true ∧ noticed.pMemErr = none ∧ noticed.pNotice = some 2#8 ∧
    ({ kern with pHalt := true } : Core).settled ∧ frameOk kern.spF = true ∧ kern.pendings = [] ∧
    over_.spint ≠ 0#16 ∧ over_.spint.toNat * 2048 + over_.spintFrom.toNat < over_.cycle.toNat ∧ over_.spintDone = false ∧
    ({ over_ with cycle := 2048#64 } : Core).cycle.toNat ≤ 1 * 2048 ∧
    (withRun kern).ready 0 4 ∧ kern.settled ∧ frameOk (kern.sp kern.runtimeOr) = true ∧ kern.reg 1#5 = 0#64 ∧ kern.arec.flags = 0#10 ∧
    core1.active = false := by
  unfold State.ready Core.settled; decide +kernel

theorem test_notice : leaves (exec (.interruptTaken 0 none) (withRun noticed)) (fun t => (t.core 0).pc == 0x1400#20 && (t.core 0).level == .runtime &&
    ((t.core 0).bank .runtime).trc == 0x8000000000000041#64 && ((t.core 0).bank .runtime).trv == 2#64 && (t.core 0).pNotice == none) = true := by
  decide +kernel
theorem test_spint_over : leaves (exec (.spintOver 0) (withRun over_)) (fun t => (t.core 0).pSpint == some 2049#64) = true ∧
    leaves (exec (.spintOver 0) (withRun { over_ with cycle := 2048#64 })) (fun t => (t.core 0).pSpint == none) = true := by decide +kernel
/-- SYSCALL with g1 zero ends the core's run with exit value g2 (15:R642, R643). -/
theorem test_exit : leaves (exec (.syscall 0 0#5 0#5 0#5) (withRun (kern.setReg 2#5 9#64)))
    (fun t => t.gated.getLsbD 0 && (t.ctx 5#20).map (fun x => x.run.map RunRec.exits) == some (some [(0, 9#64)])) = true := by decide +kernel

/-- Core 0 with a reset asked for. -/
def asked (hw : Bool) : Core := { kern with halted := true, resetReq := some ⟨hw, false, false, false, 0x06#8, 0x1000#20⟩ }

theorem hyp_CoreResetsDecided : (withRun kern).pstate = .run ∧ (withRun kern).gated.getLsbD 0 = false ∧
    (asked true).resetReq = some ⟨true, false, false, false, 0x06#8, 0x1000#20⟩ ∧
    (1#32).getLsbD 0 = true ∧ (asked true).resets = 0 ∧ (asked true).elogD = [] ∧
    core1.resetReq = none ∧ core1.active = false := by decide +kernel

theorem test_reset_replays : leaves (exec (.coreReset 0) (withRun (asked true)))
    (fun t => (t.core 0).decided == some (false, 1#64) && t.journal.tail == 2#64 && (t.core 0).pc == 0xF0000#20) = true := by decide +kernel

/-- A checkpoint at 0x1800, and core 0 that is to go back to it or to fail over. -/
def saved : Checkpoint :=
  { pc := 0x1800#20, gregs := Vector.replicate 30 4#64, spK := 0#64, spR := 0#64, spF := 0#64, banks := core1.banks, tlvl := core1.tlvl,
    fflags := 0#10, fmode := core1.fmode, vl := 0#18, ew := 3#3, grp := 0#2, vcur := 0#18, asc := 1#64, seed := core1.seed, spint := 0#16,
    vregs := [], masks := core1.masks, slots := core1.slots, mxcfg := none, epi := none, dmem := [], replaySet := [], badDmem := [],
    badSpad := [], cycle := 0#64, stlIssue := 0#64, stlSync := 0#64, instret := 0#64, since := 0#64, chans := [] }
def back1 (fail : Bool) : Core := { core1 with ckpt := some saved, decided := some (fail, 1#64), halted := true }
def spare1 : State := { withRun (back1 true) with rep := { State.reset.rep with good := #v[0x3FFFF#18, 0x3FFFF#18] } }

theorem hyp_ReplayFromCheckpoint : ((withRun (back1 false)).core 0).ckpt = some saved ∧ (back1 false).decided = some (false, 1#64) ∧
    (spare1.core 0).decided = some (true, 1#64) ∧ (∀ d : CoreId, d ≠ 0 → (spare1.core d).decided = none) ∧
    (spare1.rep.spareCores (dieOf 0)).head? = some 1 := by decide +kernel

theorem test_replay : leaves (exec (.replay 0) (withRun (back1 false))) (fun t => (t.core 0).pc == 0x1800#20 && (t.core 0).reg 3#5 == 4#64 &&
    !(t.core 0).halted) = true := by decide +kernel
theorem test_failover : leaves (exec (.failover 0) spare1) (fun t => t.rep.map[(0 : CoreId)] == ⟨true, 1#5⟩ && (t.core 0).pc == 0x1800#20) = true := by
  decide +kernel

/-! ## Signals and safe points -/

/-- Target 0xFF, increment 1: the largest of a counter; then with a post waiting. -/
def poster : Core := regs2 0xFF#64 1#64
def posted : Core := { core1 with active := true, posts := [⟨0xFF#64, 1#64, [], 0⟩], elogS := [false] }

theorem hyp_SignalPostAndWait : (withRun poster).ready 0 4 ∧ poster.sb = [] ∧ (poster.reg 1#5).toNat < 2 ^ 14 ∧ 0 < (poster.reg 2#5).toNat ∧
    poster.replayS = [] ∧ 2 ^ 30 ≤ ((regs2 0xFF#64 0x40000000#64).reg 2#5).toNat ∧ 2 ^ 15 ≤ ((regs2 0x8000#64 1#64).reg 1#5).toNat ∧
    poster.settled ∧ poster.fmode.ten = 0#10 ∧ (poster.reg 2#5).toNat ≤ ((withRun poster).counter 0 0xFF#8).toNat ∧
    ((withRun poster).counter 0 0xFF#8).toNat < ((regs2 0xFF#64 4#64).reg 2#5).toNat ∧ 256 ≤ ((regs2 0x100#64 1#64).reg 1#5).toNat ∧
    posted.posts = [⟨0xFF#64, 1#64, [], 0⟩] := by
  unfold State.ready Core.settled; decide +kernel

theorem test_sigwait : leaves (exec (.sigwait 0 0#5 1#5 2#5) (withRun (regs2 0xFF#64 3#64))) (fun t => (t.core 0).pc == 0x1004#20) = true ∧
    leaves (exec (.sigwait 0 0#5 1#5 2#5) (withRun (regs2 0xFF#64 4#64))) (fun t => (t.core 0).pc == 0x1000#20 && (t.core 0).stall == .sync) = true := by
  decide +kernel
theorem test_sigpost : leaves (exec (.sigpostEffect 0) (withRun posted))
    (fun t => t.counter 0 0xFF#8 == 4#64 && t.counter 0 0xFE#8 == 3#64 && (t.core 0).posts == []) = true := by decide +kernel

theorem hyp_SafePoints : (withRun core1).ready 0 4 ∧ core1.settled ∧ core1.fmode.ten = 0#10 ∧ (withRun core1).ownDescs 0 = [] ∧
    core1.abanks = Vector.replicate 4 Bank.empty ∧ core1.ckptNew = none ∧ (withRun core1).postReady 0 = false ∧
    ({ core1 with ckptNew := some saved } : Core).pc.toNat + 4 < 0x100000 := by
  unfold State.ready Core.settled; decide +kernel

theorem test_safept : leaves (exec (.safept 0 0#5 0#5 0#5) (withRun core1))
    (fun t => ((t.core 0).ckptNew.map Checkpoint.pc) == some 0x1004#20 && (t.core 0).pc == 0x1000#20) = true := by decide +kernel
theorem test_checkpoint : leaves (exec (.checkpointComplete 0) (withRun { core1 with ckptNew := some saved, stoV := 3#14 }))
    (fun t => (t.core 0).asc == 1#64 && (t.core 0).stoV == 0#14 && (t.core 0).pc == 0x1004#20) = true := by decide +kernel

/-! ## Vector engine -/

/-- 256 elements of 32 bits; g1 names DMEM at 0x4000; v0 holds a 1 and v1 a 2 in element 3, and v4 an index past every memory there. -/
def vec1 : Core :=
  { (core1.setReg 1#5 0x4000#64).setReg 2#5 4#64 with
    vl := 256#18
    ew := 2#3
    vregs := Mem.put (Mem.put (Mem.put [] 12 [1#8]) (8192 + 12) [2#8]) (4 * 8192 + 12) [0#8, 0#8, 0#8, 0x10#8]
    dmem := Mem.put [] 0x400C [9#8]
    masks := core1.masks.set 1 8#65536 }
def v3 (vd va vb : Reg) (m : Bool) (mk : BitVec 3) (fn : BitVec 7) : VFields := ⟨vd, va, vb, m, mk, fn⟩

theorem hyp_VectorMemory : (withCore vec1).vready 0 ∧ vec1.vmemOk .vld (v3 2#5 1#5 0#5 false 0#3 0#7) = true ∧
    vec1.vmemOk .vscat (v3 2#5 1#5 4#5 true 1#3 5#7) = true ∧ vec1.vmemOk .vgath (v3 2#5 1#5 4#5 false 0#3 4#7) = true ∧
    vec1.vcur.toNat < vec1.vl.toNat ∧ (vec1.reg 1#5).toNat % 4 = 0 ∧ (vec1.reg 2#5).toNat % 4 = 0 ∧
    (vec1.mask 1#3) = 8#65536 ∧ vec1.elemCheck false (0x4000 + 3 * 4) 4 = none ∧ vec1.badWord (0x4000 + 3 * 4) 4 = none ∧
    vec1.elemCheck true (0x4000 + 3 * 4) 4 = none ∧
    vec1.velem 4#5 32 3 = 0x10000000 ∧ vec1.elemCheck false (0x4000 + 0x10000000 * 4) 4 = some .bounds := by
  unfold State.vready State.ready; decide +kernel

theorem test_vld : leaves (exec (.vld 0 (v3 2#5 1#5 0#5 true 1#3 0#7)) (withCore vec1)) (fun t => (t.core 0).velem 2#5 32 3 == 9) = true := by
  decide +kernel
theorem test_vst_masked : leaves (exec (.vst 0 (v3 1#5 1#5 0#5 true 1#3 2#7)) (withCore vec1))
    (fun t => (t.core 0).dmem.getLe 0x400C 4 == 2) = true := by decide +kernel

theorem hyp_VectorArithmetic : (withCore vec1).vready 0 ∧ vec1.calm ∧ vec1.ewBits = 32 ∧ vec1.elemOk (v3 2#5 0#5 1#5 false 0#3 0#7) 32 true = true ∧
    vec1.elemOk (v3 2#5 0#5 0#5 true 1#3 4#7) 32 false = true ∧ ({ vec1 with ew := 3#3 } : Core).ewBits = 64 ∧ ({ vec1 with ew := 4#3 } : Core).ewBits = 4 ∧
    ({ vec1 with ew := 1#3, vl := 512#18 } : Core).elemOk (v3 2#5 0#5 1#5 false 0#3 4#7) 16 true = true := by
  unfold State.vready State.ready Core.calm; decide +kernel

/-- 1 + 2, and 1 − 2 saturated at 0 with SAT (bit 7) (04:R181, R182). -/
theorem test_vadd : leaves (exec (.vectorIntegerArithmetic 0 (v3 2#5 0#5 1#5 true 1#3 0#7)) (withCore vec1))
    (fun t => (t.core 0).velem 2#5 32 3 == 3) = true := by decide +kernel
theorem test_vssubu : leaves (exec (.vectorFixedPoint 0 (v3 2#5 0#5 1#5 true 1#3 3#7)) (withCore vec1))
    (fun t => (t.core 0).velem 2#5 32 3 == 0 && (t.core 0).fflags == 0x80#10) = true := by decide +kernel

theorem hyp_ComparesAndMasks : (withCore vec1).vready 0 ∧ vec1.calm ∧ vec1.cmpOk (v3 3#5 0#5 1#5 false 0#3 0x10#7) 32 = true ∧ vec1.vl.toNat ≤ 65536 ∧
    (∀ j : Fin 3, (vec1.mask 1#3).getLsbD j.val = false) ∧ (vec1.mask 1#3).getLsbD 3 = true := by
  unfold State.vready State.ready Core.calm; decide +kernel

theorem test_vlt : leaves (exec (.vectorIntegerCompare 0 (v3 3#5 0#5 1#5 false 0#3 0x11#7)) (withCore vec1))
    (fun t => (t.core 0).mask 3#3 == 8#65536) = true := by decide +kernel
theorem test_mfirst : leaves (exec (.mfirst 0 (v3 9#5 1#5 0#5 false 0#3 9#7)) (withCore vec1)) (fun t => (t.core 0).reg 9#5 == 3#64) = true ∧
    leaves (exec (.mfirst 0 (v3 9#5 2#5 0#5 false 0#3 9#7)) (withCore vec1)) (fun t => (t.core 0).reg 9#5 == 0xFFFFFFFFFFFFFFFF#64) = true := by
  decide +kernel

theorem hyp_PermutationsAndConversion : (withCore vec1).vready 0 ∧ vec1.calm ∧ vec1.permOk (v3 2#5 0#5 9#5 true 1#3 0#7) 0 true false = true ∧
    vec1.permOk (v3 2#5 0#5 0#5 true 1#3 1#7) 1 true true = true ∧ vec1.permOk (v3 2#5 0#5 0#5 false 0#3 2#7) 2 false true = true ∧
    cfmtOf 1 = some (.fp fp32) ∧ cfmtOf 3 = some (.fp bf16) ∧
    ({ vec1 with vl := 512#18, grp := 1#2 } : Core).vcvtOk (v3 2#5 0#5 0#5 false 1#3 24#7) 1 3 (.fp fp32) (.fp bf16) = true := by
  unfold State.vready State.ready Core.calm; decide +kernel

theorem test_vcmprs : leaves (exec (.vcmprs 0 (v3 2#5 1#5 9#5 true 1#3 0#7)) (withCore vec1))
    (fun t => (t.core 0).velem 2#5 32 0 == 2 && (t.core 0).reg 9#5 == 1#64) = true := by decide +kernel

/-! ## Reductions and sampling -/

/-- 256 FP32 elements: 1.0 in element 3 of v0, the rest +0. -/
def row1 : Core := { vec1 with vregs := Mem.put [] 12 [0#8, 0#8, 0x80#8, 0x3F#8] }

theorem hyp_ReductionBlocks : (withCore row1).vready 0 ∧ row1.calm ∧ row1.ewFmt = some fp32 ∧ row1.vcur = 0#18 ∧ 0 < row1.vl.toNat ∧
    row1.redOk .sum (v3 2#5 0#5 3#5 false 0#3 0#7) 32 = true ∧ row1.redOk .argmax (v3 2#5 0#5 3#5 true 1#3 4#7) 32 = true ∧
    (fp32.decode (row1.velem 0#5 32 3)).finite = true := by
  unfold State.vready State.ready Core.calm; decide +kernel

/-- The sum of the row with ACC_BASE 0 is 1, over one active element with the mask. -/
theorem test_vrsum : leaves (exec (.vrsum 0 (v3 2#5 0#5 3#5 true 1#3 0#7)) (withCore row1))
    (fun t => (t.core 0).vregs.getLe (2 * 8192) 24 == 1 && (t.core 0).vregs.getLe (2 * 8192 + 80) 8 == 1 &&
      (t.core 0).vregs.getLe (2 * 8192 + 64) 8 == 0x3F800000) = true := by decide +kernel

theorem hyp_SoftmaxSampleAndWide : (withCore row1).vready 0 ∧ row1.calm ∧ row1.sb = [] ∧ row1.ewFmt = some fp32 ∧ row1.ewBits = 32 ∧
    row1.operandOk 2#5 32 = true ∧ row1.operandOk 0#5 32 = true ∧ row1.sameOrDisjoint 2#5 0#5 32 = true ∧
    ({ row1 with vl := 32#18 } : Core).elemOk (v3 2#5 0#5 1#5 false 0#3 0x18#7) 256 true = true ∧
    row1.vl.toNat % 256 = 0 ∧ (row1.reg 1#5).toNat % 4 = 0 ∧ 0x4000 + 4 * 256 ≤ 0x3FC00 ∧ 
    samplingFail (({ row1 with dmem := Mem.put [] 0x5004 [0#8, 0#8, 0x80#8, 0x3F#8] } : Core).load 0x5000 32) = none := by
  unfold State.vready State.ready Core.calm; decide +kernel

/-- The first element where two token vectors differ (08:R369). -/
theorem test_vprefix : leaves (exec (.vprefix 0 (v3 9#5 0#5 1#5 false 0#3 0x11#7)) (withCore vec1)) (fun t => (t.core 0).reg 9#5 == 3#64) = true := by
  decide +kernel

/-! ## Accord and the matrix array -/

/-- The image of the fused RMS normalisation (05, worked example) at 0x4000, and a program that adds source 0 to itself. -/
def accord1 : Core :=
  { core1.setReg 7#5 0x4000#64 with
    dmem := Mem.put [] 0x4000 (wordsBytes [0x0000010301110004#64, 0x33800000#64] ++ leBytes 4 0x0412C000 ++ leBytes 4 0x94200000 ++
      leBytes 4 0x0C500800 ++ leBytes 4 0x0E828800) }
def double1 : AccordProg := ⟨false, 0#3, [1, 0, 0, 0], [1, 0], [], [⟨1#6, 0x14#5, 0x10#5, 0x10#5, 0#5, 0#6⟩]⟩
def adder : Core := { row1.setReg 7#5 0x0000008200000080#64 with slots := row1.slots.set 0 (some double1) }

theorem hyp_AccordPrograms : (withCore accord1).vready 0 ∧ accord1.sb = [] ∧ (accord1.reg 7#5).toNat % 8 = 0 ∧
    (accord1.readImage 0x4000).toOption.isSome = true ∧ (core1.readImage 0x4000).toOption.isNone = true ∧ 0x3FC00 < 0x3FBF8 + 16 ∧
    (withCore adder).vready 0 ∧ adder.calm ∧ adder.slots.toArray.getD 0 none = some double1 ∧ usesSource double1.ops 0 = true ∧
    usesDest double1.ops 0 = true ∧ usesSource double1.ops 1 = false ∧ usesDest double1.ops 1 = false ∧
    (adder.reg 7#5).toNat = 0x80 + 0 + 2 ^ 32 * (0x80 + 2) ∧ adder.operandOk 0#5 32 = true ∧ adder.operandOk 2#5 32 = true ∧
    adder.sameOrDisjoint 2#5 0#5 32 = true := by
  unfold State.vready State.ready Core.calm; decide +kernel

theorem test_aload : leaves (exec (.aload 0 ⟨0#5, 7#5, 0#5, false, 0#3, 0#7⟩) (withCore accord1))
    (fun t => ((t.core 0).slots[(0 : Fin 8)]).map (fun p => (p.sfmt, p.dfmt, p.consts, p.ops.map AccordOp.opc)) ==
      some ([1, 1, 1, 0], [3, 0], [0x33800000#64], [1#6, 0x25#6, 3#6, 3#6])) = true := by decide +kernel
/-- 1.0 + 1.0 in element 3 (05:R233). -/
theorem test_arun : leaves (exec (.arun 0 ⟨0#5, 7#5, 0#5, true, 1#3, 0#7⟩) (withCore adder))
    (fun t => (t.core 0).velem 2#5 32 3 == 0x40000000 && (t.core 0).arun != none) = true := by decide +kernel

theorem hyp_MatrixConfiguration : st1.ready 0 8 ∧ st1.ready 0 4 ∧ core1.sb = [] ∧ mxClass 2 false = some (2, 16) ∧ mxClass 0xF false = none ∧
    mxClass 6 false = none ∧ core1.badDmem = [] ∧ (core1.reg 1#5).toNat % 8 = 0 ∧ (core1.reg 1#5).toNat + 128 ≤ 0x3FC00 := by
  unfold State.ready; decide +kernel

/-- EXACT, FP16 by FP16, ACC_BASE −24. -/
theorem test_mxcfg : leaves (exec (.mxcfg 0 (some (BitVec.ofNat 26 (2 ^ 24 + 2 ^ 12 * 0xFE8))) (BitVec.ofNat 26 (2 * 2 ^ 22 + 2 * 2 ^ 18 + 2 ^ 16))) st1)
    (fun t => (t.core 0).mxcfg == some ⟨2, 2, .exact, false, false, 0xFE8#12⟩ && (t.core 0).pc == 0x1008#20) = true := by decide +kernel

/-- One K-step of FP32 (L 4) in EXACT mode at ACC_BASE 0, row 0 of A and of B beginning with 1.0; g1 holds K = 4. -/
def matrix1 : Core :=
  { core1.setReg 1#5 4#64 with
    mxcfg := some ⟨1, 1, .exact, false, false, 0#12⟩
    vregs := Mem.put (Mem.put [] 0 [0#8, 0#8, 0x80#8, 0x3F#8]) 8192 [0#8, 0#8, 0x80#8, 0x3F#8] }

theorem hyp_MatrixMultiplyExact : (withCore matrix1).ready 0 4 ∧ matrix1.mxq = [] ∧ matrix1.arun = none ∧
    cfgOf ⟨1, 1, .exact, false, false, 0#12⟩ = some (.fp fp32, .fp fp32, 4) ∧ matrix1.reg 1#5 = BitVec.ofNat 64 (1 * 4) ∧
    regOperandOk 0#5 (panelBytes 1 4 32 false) = true ∧ regOperandOk 1#5 (panelBytes 1 4 32 false) = true := by
  unfold State.ready; decide +kernel

/-- A drain of an EXACT bank to FP32 rows 128 bytes apart, and a fill of records in rows 1,024 bytes apart. -/
def drain1 : Core :=
  { (core1.setReg 1#5 0x40000000#64).setReg 2#5 0x400#64 with
    regions := [⟨0, 0x5800, true, true⟩]
    mxcfg := some ⟨1, 1, .exact, false, false, 0#12⟩
    epi := some ⟨1#3, 0#3, none, none, none, 0#32, 0#32⟩
    abanks := core1.abanks.set 0 ⟨some (.exact, 0#12), false, [⟨5#192, 0#2, false, false, 0#40, none⟩]⟩ }

theorem hyp_DrainAndFill : (withCore drain1).ready 0 4 ∧ drain1.sb = [] ∧ drain1.mxq = [] ∧ drain1.drains = [] ∧ drain1.arun = none ∧
    (drain1.reg 1#5).toNat % 32 = 0 ∧ 128 ≤ (drain1.reg 2#5).toNat ∧ 0x40000000 + 31 * 0x400 + 1024 ≤ 0x45800000 ∧
    (drain1.abank 0#2).tag = some (.exact, 0#12) ∧ (drain1.abank 0#2).poison = false ∧ core1.epi = none ∧ drain1.calm ∧
    (∀ i : Fin 1024, ((drain1.abank 0#2).out i.val).spc = 0#2) := by
  unfold State.ready Core.calm; decide +kernel

/-- Output 0 is 5 units of 2^0: 5.0 in FP32 (07:R321, R325). -/
theorem test_mxdrain : leaves (exec (.mxdrainDrain 0 1#5 2#5 0#4 0#2 false 0#8) (withCore drain1))
    (fun t => (t.core 0).spad.getLe 0 4 == 0x40A00000 && (t.core 0).abank 0#2 == Bank.empty) = true := by decide +kernel

/-! ## DMA and translation -/

/-- Channel 0 owned by the context of core 0; g1 names a descriptor at 0x4000 and g2 the channel. -/
def dma0 : Core := (core1.setReg 1#5 0x4000#64).setReg 2#5 0#64
def owned (x : Chan) : State := { withRun dma0 with chans := State.reset.chans.set 0 { x with owner := some 5#20 } }
def desc (words : Vector Word 8) (fin : Option Fin_) : Desc := ⟨words, 1#32, none, none, 5#20, none, false, fin⟩
def queued (w : ChanWait) (d : Desc) : State := owned { Chan.reset with queue := [d], started := true, wait := w, ticket := 1#32 }
/-- A copy of the first 256 bytes of core 0's scratchpad to its last ones. -/
def copyWords : Vector Word 8 :=
  #v[BitVec.ofNat 64 (2 ^ 57), 0x10000000000#64, BitVec.ofNat 64 (0x10000000000 + 0x57FFF00), 256#64, 0#64, 0#64, 0#64, 7#64]

theorem hyp_owned (x : Chan) : (owned x).ctxOf 0 = some ctx1 ∧ ((owned x).chan 0) = { x with owner := some 5#20 } := ⟨rfl, rfl⟩

theorem hyp_QueueAndWaitOnChannels : (owned Chan.reset).ready 0 4 ∧ dma0.settled ∧ dma0.fmode.ten = 0#10 ∧ (dma0.reg 2#5).toNat = 0 ∧
    (owned Chan.reset).ownsChan 0 0 = true ∧ (owned Chan.reset).ownsChan 0 1 = false ∧ (dma0.reg 1#5).toNat % 64 = 0 ∧
    (dma0.reg 1#5).toNat + 64 ≤ 0x3FC00 ∧ (List.replicate 16 (desc copyWords none)).length = 16 ∧
    (1#32 : BitVec 32).toNat ≤ (1#32 : BitVec 32).toNat + 2 ^ 31 := by
  unfold State.ready Core.settled; decide +kernel

theorem test_dqueue : leaves (exec (.dqueue 0 3#5 1#5 2#5) (owned Chan.reset)) (fun t => (t.core 0).reg 3#5 == 1#64 &&
    (t.chan 0).queue.map Desc.ticket == [1#32] && (t.core 0).pc == 0x1004#20) = true := by decide +kernel
theorem test_dwait : leaves (exec (.dwait 0 3#5 2#5 2#5) (owned { Chan.reset with ticket := 2#32, done := 2#32, errs := 1#32 }))
    (fun t => (t.core 0).reg 3#5 == 0x100000002#64) = true := by decide +kernel

theorem hyp_DescriptorsRun : (queued .none (desc copyWords none)).pstate = .run ∧ ((queued .none (desc copyWords none)).chan 0).queue = [desc copyWords none] ∧
    (tileOf copyWords).check (some ctx1) false = none ∧ ((tileOf (copyWords.set 3 0x100000000#64)).check (some ctx1) false).isSome = true ∧
    0x57FFF00 % 256 = 0 ∧ 0x57FFF00 + 256 ≤ 0x5800000 ∧
    (desc copyWords none).words = #v[BitVec.ofNat 64 (2 ^ 57), BitVec.ofNat 64 (0x10000000000 + 0 * 0x8000000 + 0),
      BitVec.ofNat 64 (0x10000000000 + 0 * 0x8000000 + 0x57FFF00), BitVec.ofNat 64 256, 0#64, 0#64, 0#64, 7#64] ∧
    State.reset.hostOpen = true := by decide +kernel

/-- A copy of three bytes to core 0 at 0x100. -/
def copied : State :=
  let s := queued .none (desc #v[BitVec.ofNat 64 (2 ^ 57), 0x10000000000#64, 0x10000000100#64, 3#64, 0#64, 0#64, 0#64, 7#64] none)
  s.setCore 0 { core1 with spad := Mem.put [] 0 [1#8, 2#8, 3#8] }
theorem test_access : leaves (exec (.descriptorAccess 0 (.error 0#8)) copied) (fun t => (t.core 0).spad.getN 0x100 3 == [1#8, 2#8, 3#8] &&
    ((t.chan 0).head.bind Desc.fin).map Fin_.bytes == some 3) = true := by decide +kernel
theorem test_complete : leaves (exec (.descriptorComplete 0 (.error 0#8)) (queued .none (desc copyWords (some ⟨8#8, 0#8, 0, 0, 0, 0⟩))))
    (fun t => (t.chan 0).done == 1#32 && (t.chan 0).errs == 1#32 && (t.chan 0).queue == []) = true := by decide +kernel

/-- A ring that is on and empty; a channel that waits for a translation of page 5, or for the answer to its Page Request. -/
def onRing : Ring := { Ring.reset with en := true }
def waits (w : ChanWait) : State := { queued w (desc copyWords none) with ring := onRing }

theorem hyp_TranslationAndFaults : ((waits (.ats ⟨5, true, false, 0x5000⟩)).chan 0).wait = .ats ⟨5, true, false, 0x5000⟩ ∧ (waits .none).tlbs[(0 : Fin 16)].length < 4096 ∧
    (waits .none).ring.open_ = true ∧ (waits .none).ring.held = [] ∧ (waits .none).pri = true ∧ (waits .none).priStopped = false ∧
    ((waits (.prg ⟨5, true, false, 0x5000⟩)).chan 0).wait = .prg ⟨5, true, false, 0x5000⟩ ∧ ((waits .none).chan 0).parksOn 5 < 16 ∧ ((waits .none).chan 0).owedAts = 0 ∧ 0 < ({ Chan.reset with owedPrg := 1 } : Chan).owedPrg ∧ (waits .none).invals = [] ∧
    (let s := { queued .none (desc (copyWords.set 0 (BitVec.ofNat 64 (2 ^ 57 + 2 ^ 37))) none) with ats := true }
     s.prefetches 0 = true ∧ ((s.chan 0).aheadPages).isEmpty = false ∧ (s.chan 0).asked = [] ∧ s.hostOpen = true ∧ s.ats = true) := by decide +kernel

theorem test_ats : leaves (exec (.atsTranslationCompletion 0 (.grant 9 12 false true)) (waits (.ats ⟨5, true, false, 0x5000⟩)))
    (fun t => t.tlbs[(0 : Fin 16)] == [⟨5#20, 0x5000, 12, 0x9000, false, true, false⟩] && (t.chan 0).wait == .none) = true := by decide +kernel
theorem test_prg : leaves (exec (.prgResponse 0 .failure) (waits (.prg ⟨5, true, false, 0x5000⟩)))
    (fun t => t.priStopped && ((t.chan 0).head.bind Desc.fin).map Fin_.status == some 8#8) = true := by decide +kernel

theorem hyp_HostRegisterWrites_ring : (waits .none).ring.held = [] ∧ (256 + 512 - 0 % 512) % 512 ≤ 256 ∧ 256 < (257 + 512 - 0 % 512) % 512 := by decide +kernel

/-- A head that would leave 257 entries is ignored (11:R500). -/
theorem test_head : leaves (exec (.frHeadWrite 0#64) { State.reset with ring := { onRing with head := 1#9, tail := 257#9 } })
    (fun t => t.ring.head == 1#9) = true := by decide +kernel

theorem hyp_FaultRingBounded : State.reset.ring.bounded ∧ ({ onRing with tail := 256#9 } : Ring).bounded ∧
    ¬ ({ onRing with tail := 257#9 } : Ring).bounded := by unfold Ring.bounded; decide

/-! ## HBM, shared caches, patrol -/

/-- A line of zeros of the second 256 bytes of HBM, and one with poison. -/
def lineAt (poison : Bool) : Line := ⟨(Cache.reset).lines.length, 0, 0, false, 0, poison, List.replicate 256 0#8⟩
def cached (en : Bool) (l : List Line) : State := { withCore core1 with caches := State.reset.caches.set 0 { Cache.reset with en := en, lines := l } }

theorem hyp_LineAccess : (cached true [lineAt false]).pstate = .run ∧ 0 % 256 + 256 ≤ 256 ∧ hbmDie 0 = 0 ∧
    ((cached true [lineAt false]).cache 0).find 0 = some (lineAt false) ∧ ((cached true [lineAt true]).cache 0).find 0 = some (lineAt true) ∧
    (cached false []).hbmBad = [] ∧ ((cached false []).cache 0).en = false ∧ (cached true []).inTest 0 = false ∧ (0x20 : Nat) % 32 = 0 ∧
    0x40 % 256 + 32 + 32 ≤ 256 := by decide +kernel
theorem hyp_LineAccess_key : 0 < hbmBytes ∧ (cached false []).writtenKey 0 = none ∧ ((cached true [lineAt false]).cache 0).en = true ∧
    (let s := { cached false [] with hbmKeys := [(0, (cached false []).keyAt 0)] }
     s.writtenKey 0 = some (s.keyAt 0)) := by decide +kernel

theorem test_line_write : leaves (exec (.lineRequestWrite 0#3 0 ⟨List.replicate 256 7#8, false⟩) (cached false [])) (fun t => t.hbm.get 255 == 7#8 && t.hbm.get 256 == 0#8 && (t.cache 0).wwd) = true := by
  decide +kernel
/-- 0xFFFF_FFFF + 1 wraps (10:R441). -/
theorem test_atomic : leaves (exec (.atomicLineRequest 0#3 .iadd32 0 ⟨leBytes 4 1, false⟩)
    (cached true [{ lineAt false with data := List.replicate 256 0xFF#8 }]))
    (fun t => ((t.cache 0).find 0).map (fun l => l.data.take 5) == some [0#8, 0#8, 0#8, 0#8, 0xFF#8]) = true := by decide +kernel

theorem hyp_SharedCacheControl : (withRun core1).ctxs ≠ [] ∧ (cached true []).ctxs = [] ∧ ((cached true []).cache 0).flush = false ∧
    ((cached true []).cache 0).inv = false ∧ ((cached true []).cache 0).enNext = none ∧ (1#64 : Word).getLsbD 6 = false := by
  refine ⟨?_, ?_⟩
  · intro h; cases h
  · decide +kernel
theorem hyp_SharedCacheControl_walk : ((0#64 : Word) ||| 0x40#64).getLsbD 6 = true ∧ ((0#64 : Word) ||| 0x80#64).getLsbD 6 = false ∧ ((0#64 : Word) ||| 0x80#64).getLsbD 7 = true ∧
    ({ Cache.reset with flush := true, inv := true } : Cache).flush = true ∧ ({ Cache.reset with flush := true, enNext := some false } : Cache).enNext = some false ∧
    (lineAt true).data.length = 256 ∧ [lineAt false].Pairwise (fun x y => lineAddr x.set_ x.tag ≠ lineAddr y.set_ y.tag) := by decide +kernel

theorem test_flush : leaves (exec (.scCtrlFlush 0 0#64) (cached true [{ lineAt false with dirty := true, data := List.replicate 256 1#8 }]))
    (fun t => t.hbm.get 255 == 1#8 && (t.cache 0).flush && (t.cache 0).lines.all (fun l => !l.dirty)) = true := by decide +kernel

theorem hyp_StackTemperaturesAndTraffic : (cached true []).pstate = .run ∧ [(86 : Int), 85, 96, 95, 83, 82, 93, 92].length = 8 ∧
    ({ Htg.reset with begin_ := 0#32, end_ := 0xC00000#32 } : Htg).end_.toNat ≤ 0xC00000 ∧ (2#4 : BitVec 4).toNat < 4 ∧ Htg.reset.running = false := by
  decide +kernel
theorem hyp_StackTemperaturesAndTraffic_runs : ({ Htg.reset with running := true, mode := 2#2, end_ := 16#32 } : Htg).running = true ∧ State.reset.ctxs = [] ∧
    ({ Cache.reset with en := false } : Cache).en = false ∧ ({ Htg.reset with end_ := 16#32 } : Htg).begin_.toNat < 16 ∧ 0 < min 5 (16 - 0) ∧
    hbmChannel 0 = 0 ∧ (2#2 : BitVec 2) ≠ 1#2 ∧ StackTemp.reset.dblCool = none ∧ 4 * (1000000 - 0) ≥ 1953125 := by decide +kernel

theorem test_stack_hot : leaves (exec (.hbmTemperatureSample [86, 85, 96, 95, 83, 82, 93, 92]) (cached true [])) (fun t =>
    (t.hbmTemps.toList.map StackTemp.dbl) == [true, false, true, true, false, false, true, true] &&
    (t.hbmTemps.toList.map StackTemp.half) == [false, false, true, false, false, false, false, false]) = true := by decide +kernel

theorem hyp_PatrolFindings : (cached true []).pstate = .run ∧ (0x3FFFF : Nat) < 0x40000 ∧ State.reset.mgmt.events.length < 255 ∧
    0x3FFFF / 4096 ∉ State.reset.rep.patrolS[(0 : CoreId)].prev ∧ State.reset.rep.patrolS[(0 : CoreId)].last ≤ 0x3FFFF ∧
    State.reset.rep.rowsSpared[(0 : CoreId)].length < 32 := by decide +kernel
theorem hyp_PatrolFindings_way : ((cached true []).cache 0).retired.length < 1024 ∧ (5 / 16, 5 % 16) ∉ ((cached true []).cache 0).retired ∧
    (waits .none).ring.open_ = true ∧ State.reset.ring.open_ = false := by decide +kernel

theorem test_patrol : leaves (exec (.memoryPatrol .hbm 0 70 .uncorrectable) (cached true [])) (fun t => t.hbmBad == [64] && t.rep.ecc[(4 : Fin 5)].unc == 1#32) = true := by
  decide +kernel

/-! ## Links -/

/-- A policy that allows everything, and an image: device 1 with a partner 2 on link 0, a route to device 3 over link 0 and then link 1, a parent
and group 1 on links 0 and 1 with member 2. -/
def policy1 : SecPolicy :=
  { policyVer := 1#16, couplingAllow := 0xFF#8, modesAllow := 0xFF#8, debugAllow := true, requireIde := false, evacDirect := true, peerDebugOk := true, nfw := 0,
    peerRootHash := 0#384, debugKeyHash := 5#384, fwAllow := [], chain := [], digest := 0#384 }
def settings1 : ImageSettings :=
  { deviceId := 1#16, fabDevices := 8#16, quad := false, quadSlot := none, linkMap := [(0, (2#16, 7#6))], routes := [⟨3#16, [0, 1]⟩], groupLinks := [(1#8, [0, 1])],
    group := some (1#8, true), members := [2#16], others := [], timeMaster := false, parent := some 0, altParent := some 1, power := PowerPolicy.default_,
    security := policy1, modules := [(4#24, 5#128)], uniformLat := false, spintLimit := 100, firmware := 0#384 }
def image1 : SlotImage :=
  { version := 2#64, length := 64, digest := 0#384, settings := settings1 }

/-- The device running with that image, and links 0 and 1 as given. -/
def linked (a b : Link) : State :=
  { withCore core1 with boot := { State.reset.boot with image := some image1 }, links := (State.reset.links.set 0 a).set 1 b }
def upLink : Link := { Link.reset with st := .up, lanemap := 0xFF#16, credits := Vector.replicate 8 100#16 }

theorem hyp_settings (a b : Link) : (linked a b).settings = some settings1 ∧ (linked a b).secPolicy = some policy1 ∧ (linked a b).link 0 = a ∧
    (linked a b).link 1 = b ∧ (linked a b).mapped 0 = some (2#16, 7#6) := ⟨rfl, rfl, rfl, rfl, rfl⟩

theorem hyp_LinkStates : let s := linked { upLink with tagFails := 2 } { Link.reset with st := .attest }
    (s.link 0).st = .up ∧ (s.link 1).st = .attest ∧ (s.link 2).st = .unmapped ∧ 3 ≤ (s.link 0).tagFails + 1 ∧
    (s.link 0).upSince + 3600000000000 > s.xtal ∧ s.lit 34 = true ∧ s.lit 0 = false ∧
    ({ s with feeds := s.feeds.set 0 { Feed.reset with st := .on } } : State).lit 0 = true ∧
    (0xFF#16 : BitVec 16).setWidth 8 = 0xFF#8 ∧ (0x1FE#16 : BitVec 16).setWidth 8 = ~~~(1#8 <<< 0) ∧ (0x1FE#16).getLsbD 8 = true ∧
    (0x1FC#16 : BitVec 16).setWidth 8 ≠ 0xFF#8 ∧ (0xFF00#16 : BitVec 16) >>> 8 = 0xFF#16 := by decide +kernel
theorem hyp_LinkStates_events : 32 ≤ ({ upLink with replays := 32 } : Link).replays ∧ 64 < ({ upLink with badWords := 65 } : Link).badWords ∧
    ({ upLink with starved := upLink.starved.set 0 (some 0) } : Link).starved[(0 : Fin 8)] = some 0 ∧ 0 + 10000000 ≤ ({ State.reset with us := 10000 } : State).xtal ∧
    0 + 10000000000 ≤ ({ State.reset with us := 10000000 } : State).xtal ∧ upLink.replays < 32 ∧ upLink.starved = Vector.replicate 8 none ∧
    (0x8000#16 : BitVec 16).reverse = 1#16 ∧ ({ upLink with cause := 5#4, st := .hold } : Link).cause = 5#4 ∧
    upLink.canSend 0 ((linked upLink Link.reset).mgmtMsg 0xFFFF#16 mgmtKeyUpdate []) = true ∧ (linked upLink Link.reset).fab.untold = [] := by decide +kernel

/-- A partner that R516 accepts on link 0: its measurement 2 is this device's own. -/
def partner1 (d : BitVec 16) : Partner := ⟨d, 7#6, true, sha384 [], 0#384, 0#384, false, false, 9⟩
theorem hyp_LinkStates_partner (a b : Link) : let s := linked a b
    (partner1 2#16).chainOk = true ∧ (partner1 2#16).meas2.toNat = s.measurement 2 ∧ (partner1 2#16).meas5.toNat = s.measurement 5 ∧
    policy1.nfw = 0 ∧ (partner1 2#16).meas4.toNat = s.measurement 4 ∧ (partner1 2#16).debug = false ∧ (2#16, 7#6) ≠ ((partner1 9#16).device, (7#6 : BitVec 6)) :=
  ⟨rfl, rfl, rfl, rfl, rfl, rfl, by decide⟩

theorem test_link_down : leaves (exec (.linkDown 0 4#4) (linked { upLink with tagFails := 2, keyed := true } Link.reset))
    (fun t => (t.link 0).st == .hold && (t.link 0).cause == 4#4 && !(t.link 0).keyed && (t.link 0).downs == 1#16) = true := by decide +kernel
/-- Lane 0 is lost and the spare is selected: lanes 1 to 8 are used (12:R511). Without lock a link stays in TRAIN. -/
theorem test_train : opticalLanes (TrainResult.good ⟨0x1FE#16, true, true, .straight, 0#16⟩ 0#16) true = some (0x1FE, true) ∧
    leaves (exec (.linkTrain 0 ⟨0x1FE#16, true, false, .straight, 0#16⟩)
      { linked { Link.reset with st := .down } Link.reset with feeds := State.reset.feeds.set 0 { Feed.reset with st := .on } })
    (fun t => (t.link 0).st == .train) = true := by decide +kernel

def flit1 (lseq lack : BitVec 16) : Flit := ⟨lseq, lack, false, false, false, 0#3, 4#16, true, true, true, 0, 0, []⟩
theorem hyp_FlitsAndRetry : let s := linked { upLink with rxSeq := 9#16, unacked := [5#16, 6#16] } Link.reset
    (s.link 0).st = .up ∧ (s.link 0).badWords ≤ 64 ∧ (s.link 0).queue = [] ∧ (s.feed (feedOf 0)).st ≠ .draining ∧
    (flit1 10#16 5#16).lseq = (s.link 0).rxSeq + 1#16 ∧ (s.link 0).unacked = [] ++ 5#16 :: [6#16] ∧ (4#16 : BitVec 16) ∉ (s.link 0).unacked ∧
    ((s.link 0).rxSeq - 9#16).toNat < 2 ^ 15 ∧ 2 ^ 15 ≤ ((s.link 0).rxSeq - 11#16).toNat ∧
    ({ upLink with nakIn := true, replays := 30, unacked := [5#16] } : Link).replays < 31 ∧ 31 ≤ ({ upLink with replays := 31 } : Link).replays := by
  decide +kernel
theorem hyp_FlitsAndRetry_keys : let k := { upLink with keyed := true, rxNext := some 9, badWords := 64 }
    64 < k.badWords + max (if ({ flit1 1#16 0#16 with fecOk := false } : Flit).fecOk then 0 else 1) 1 ∧ (flit1 1#16 0#16).tagOk = true ∧
    ({ flit1 1#16 0#16 with key := true } : Flit).key ≠ k.rxKey ∧ k.rxNext = some 9 ∧ ({ flit1 1#16 0#16 with tagOk := false } : Flit).tagOk = false ∧
    (flit1 1#16 0#16).idle = false ∧ ({ flit1 0#16 0#16 with idle := true } : Flit).lseq = k.rxSeq := by decide +kernel

theorem test_flit : leaves (exec (.flitReceive 0 (flit1 10#16 5#16)) (linked { upLink with rxSeq := 9#16, unacked := [5#16, 6#16] } Link.reset))
    (fun t => (t.link 0).rxSeq == 10#16 && (t.link 0).unacked == [6#16] && (t.link 0).credits[0] == 104#16) = true := by decide +kernel
theorem test_32nd_replay : leaves (exec (.flitResend 0) (linked { upLink with nakIn := true, replays := 31, unacked := [5#16] } Link.reset))
    (fun t => (t.link 0).st == .down && (t.link 0).cause == 2#4) = true := by decide +kernel

/-! ## The fabric above the links -/

/-- A window of 64 KiB granules at 0x2_0000 for every source and class, its second entry not valid; a request at it from device 2. -/
def window1 : InWin := ⟨3#6, 0#2, 0xFFFF#16, 0#3, 0xF#4, [some 0x20000, none]⟩
def request1 (cls : BitVec 4) (seq : BitVec 16) : Msg :=
  { dest := 1#16, src := 2#16, cls := cls, rsp := false, hops := 0#4, rwin := 3#6, seq := seq, epoch := 0#16, offset := 0x100#38, len := 255#8,
    data := List.replicate 256 6#8 }
def opened (r : List Receiver) : State :=
  { linked upLink Link.reset with ctxs := [{ ctx1 with ins := [window1] }], fab := { State.reset.fab with receivers := r } }
def received1 : Receiver := ⟨3#6, 2#16, 0#16, 5#16, 0#8⟩

theorem hyp_opened (r : List Receiver) : (opened r).deviceId = 1#16 ∧ (opened r).inWin 3#6 = some ({ ctx1 with ins := [window1] }, window1) ∧
    (opened r).inWin 4#6 = none ∧ (opened r).quietWin 3#6 = false ∧ (opened r).receiver 3#6 2#16 = r.find? (fun x => x.win == 3#6 && x.src == 2#16) :=
  ⟨rfl, rfl, rfl, rfl, rfl⟩
theorem hyp_RequestsAtTheReceiver : (opened [received1]).receiver 3#6 2#16 = some received1 ∧ received1.expect = (request1 0#4 5#16).seq ∧
    window1.addr 0x100 256 = some 0x20100 ∧ window1.addr 0xFFFF 2 = none ∧ window1.entries[0x10000 / 0x10000]? = some none ∧
    ((opened [received1]).devWrite window1.cls none 0x20100 (request1 0#4 5#16).data).2.1 = 0#8 ∧
    ((received1.expect - 4#16).toNat < 2 ^ 15) ∧ 2 ^ 15 ≤ (received1.expect - 6#16).toNat ∧ (opened []).receiver 3#6 2#16 = none ∧ 0x20100 % 32 = 0 := by
  decide +kernel
theorem hyp_RequestsAtTheReceiver_full : 256 ≤ ((opened (List.replicate 256 { received1 with src := 9#16 })).fab.receivers.filter (fun y => y.win == 3#6)).length ∧
    (opened (List.replicate 256 { received1 with src := 9#16 })).receiver 3#6 2#16 = none ∧ 2#16 ∈ (opened []).groupMembers 0x8001#16 ∧
    0x100 % 256 + 256 ≤ 256 ∧ 256 < 0x101 % 256 + 256 ∧ 0x20100 < hbmBytes := by decide +kernel

theorem test_write_request : leaves (exec (.writeRequestReceive (request1 0#4 5#16)) (opened [received1])) (fun t =>
    ((t.cache 0).find 0x20100).map (fun l => l.data.head?) == some (some 6#8) && (t.receiver 3#6 2#16).map Receiver.expect == some 6#16) = true := by
  decide +kernel
/-- A signal adds 1 to counter 0 (12:R521, 14:R587). -/
theorem test_signal_request : leaves (exec (.signalRequestReceive { request1 3#4 5#16 with offset := 0x100#38, data := [] }) (opened [received1]))
    (fun t => (t.ctxs.head?).map (fun x => x.counters[0]) == some 4#64) = true := by decide +kernel

def sent1 (by_ : Sender) : Stream := ⟨5#20, 0#6, 0#16, 6#16, [({ request1 3#4 5#16 with dest := 3#16, src := 1#16, data := [] }, by_)], 0, 0⟩
def answer1 (len : BitVec 8) : Msg := { request1 3#4 5#16 with dest := 1#16, src := 3#16, rsp := true, offset := 0#38, len := len, data := [] }
def sending (x : Stream) : State := { opened [] with fab := { State.reset.fab with streams := [x] } }

theorem hyp_StreamsAtTheSender : (sending (sent1 .signal)).answered (answer1 0#8) = some (sent1 .signal) ∧ (answer1 1#8).len ≠ 0#8 ∧
    (sending (sent1 .signal)).answered { answer1 0#8 with seq := 4#16 } = none ∧ (sending (sent1 .signal)).stream 5#20 0#6 = some (sent1 .signal) ∧
    (sending (sent1 .signal)).unreachable 3#16 = false ∧ (sending (sent1 .signal)).unreachable 4#16 = true ∧ (sent1 .signal).dest = some 3#16 ∧ (sent1 .signal).advAt + 200000 ≤ ({ sending (sent1 .signal) with us := 200 } : State).xtal ∧
    (sending (sent1 .signal)).fab.streams.Pairwise (fun a b => a.pasid ≠ b.pasid ∨ a.win ≠ b.win) := by decide +kernel
theorem hyp_StreamsAtTheSender_channel : (queued .remote (desc copyWords none)).remoteHead 0 1#32 = some (desc copyWords none) ∧
    (queued .none (desc copyWords none)).remoteHead 0 1#32 = none ∧ (Sender.chan 0 1#32) ∉ ([] : List Sender) ∧
    16 ≤ ({ sent1 .signal with resends := 16 } : Stream).resends ∧ (sent1 .signal).unacked ≠ [] ∧ (sending (sent1 .signal)).invals = [] := by decide +kernel

theorem test_signal_error : leaves (exec (.responseReceive (answer1 1#8)) (sending (sent1 .signal)))
    (fun t => (t.ctxs.head?).map Context.sigErrs == some 1#32 && (t.fab.streams.map Stream.unacked) == [[]]) = true := by decide +kernel
theorem test_resend : leaves (exec (.streamResend 5#20 0#6) { sending (sent1 .signal) with us := 200 }) (fun t => t.fab.streams.map Stream.resends == [1]) = true := by
  decide +kernel

theorem hyp_ForwardingAndRedirects : let s := linked upLink upLink
    (s.link 0).st = .up ∧ s.deviceId = 1#16 ∧ s.route 3#16 = some 0 ∧ s.route 4#16 = none ∧ (2#16, 5#16) ∉ s.fab.seen ∧
    0x8000 ≤ (0x8001#16 : BitVec 16).toNat ∧ 0x8100 ≤ (0xFFFE#16 : BitVec 16).toNat ∧ s.rep.redirects.length < 256 ∧ s.groupLinks 1#8 = [0, 1] := by
  decide +kernel
theorem hyp_ForwardingAndRedirects_link : (4#4 : BitVec 4) ≠ 0xF#4 ∧ [(0 : LinkId), 1].Nodup ∧
    ((linked upLink upLink).link 0).queue = [] ∧ ((linked upLink upLink).link 0).canSend 0 { request1 5#4 5#16 with dest := 0x8001#16, data := List.replicate 16 0#8 } = true ∧
    (linked upLink upLink).fab.streams = [] := by decide +kernel

theorem test_forward : leaves (exec (.messageForward 1 { request1 0#4 5#16 with dest := 3#16, hops := 14#4 }) (linked upLink upLink))
    (fun t => t.out.any (fun o => match o with | .message (some 0) m => m.hops == 15#4 | _ => false)) = true ∧
    leaves (exec (.messageForward 1 { request1 0#4 5#16 with dest := 3#16, hops := 15#4 }) (linked upLink upLink)) (fun t => t.fab.discarded == 1) = true := by
  decide +kernel

/-! ## Fabric time, sync groups, light sources -/

theorem hyp_TimeAndDrydown : let s := linked upLink upLink
    s.timeMaster = false ∧ s.parentLink = some 0 ∧ (linked Link.reset upLink).parentLink = some 1 ∧ (linked Link.reset Link.reset).parentLink = none ∧
    s.boot.runSeen = false ∧ 1000 < (((0 : Int) - 2002 + (2002 - 2002)) / 2).natAbs ∧ s.groupAddr = 0x8001 ∧ s.fab.noticeLvl = none ∧
    State.reset.groupAddr = 0 ∧ s.gvalid = true ∧ State.reset.gvalid = false ∧ s.power.floorOn = false ∧ s.power.stretched = false ∧ s.power.climbing = false := by
  decide +kernel
theorem hyp_TimeAndDrydown_tick : (linked upLink upLink).fab.timeTick ≠ some ((linked upLink upLink).xtal * 4 / 1953125) ∧
    ({ State.reset.fab with timeTick := some 0 } : Fabric).timeTick = some 0 ∧ State.reset.fab.noParent = none ∧ State.reset.fab.notices = [] ∧
    0 + 7812500 ≤ ({ State.reset with us := 7813 } : State).xtal ∧ ({ State.reset with us := 7812 } : State).xtal < 0 + 7812500 := by decide +kernel

/-- 1,001 ns off before the first RUN is corrected at once; 1,000 ns is slewed (12:R544). -/
theorem test_time : leaves (exec (.timeExchange ⟨0, 2002, 0, 0⟩) { linked upLink upLink with time := 5 }) (fun t => t.time == 1006 && t.fab.slew == 0) = true ∧
    leaves (exec (.timeExchange ⟨0, 2000, 0, 0⟩) { linked upLink upLink with time := 5 }) (fun t => t.time == 5 && t.fab.slew == 1000) = true := by
  decide +kernel

/-- A module that the image lists. -/
def module1 : Module :=
  { ident := Config.elsfpIdent, cmisRev := 0x52#8, modState := Config.moduleReady, pageVer := 1#16, vendor := 0#128, oui := 4#24, part := 5#128,
    rev := 0#16, serial := 0#128, date := 0#64, fault := false, warn := false, supply := 3300#16, responds := true, laserRated := 1000, modRated := 1000,
    biasEol := 100, powerMin := 3, sel := List.replicate 9 false, bias := List.replicate 18 50, power := List.replicate 9 5, laserHrs := List.replicate 18 0,
    modHrs := 10, lastDevice := 1#16, forecast := 0#32, tempC := 40 }
def lamp (st : FeedState) : State :=
  { linked upLink Link.reset with feeds := State.reset.feeds.set 0 { Feed.reset with st := st, dark := false, module := some module1 } }

theorem hyp_LightModules : module1.ident = Config.elsfpIdent ∧ 1 ≤ module1.pageVer.toNat ∧ (module1.oui, module1.part) ∈ settings1.modules ∧
    module1.responds = true ∧ module1.fault = false ∧ ((linked upLink Link.reset).feed 0).st = .absent ∧ ((lamp .check).feed 0).st = .check ∧
    ((lamp .warming).feed 0).module = some module1 ∧ (∀ j < 9, module1.powerMin ≤ module1.power.getD j 0) ∧ ((lamp .on).feed 0).dark = false ∧
    ((lamp .on).feed 0).rechecked = false := by
  refine ⟨rfl, ?_, ?_, rfl, rfl, ?_, rfl, rfl, ?_, rfl, rfl⟩ <;> decide
theorem hyp_LightModules_waits : module1.modState = Config.moduleReady ∧ Config.moduleReady + 1#3 ≠ Config.moduleReady ∧ module1.warn = false ∧
    3600000000000 ≤ ((lamp .on).feed 0).sinceNs + (({ lamp .on with time := 3600000000000 } : State).time - ((lamp .on).feed 0).litAt) ∧
    0 + 2000000000 ≤ ({ lamp .warming with us := 2000000 } : State).xtal ∧ ((lamp .warming).feed 0).warmAt = 0 := by
  refine ⟨rfl, ?_, rfl, ?_, ?_, ?_⟩
  · intro h
    have := congrArg BitVec.toNat h
    simp [BitVec.toNat_add] at this
    omega
  all_goals decide +kernel

theorem test_removal : leaves (exec (.moduleRemoval 0) (lamp .on)) (fun t => (t.link 0).st == .down && (t.link 0).cause == 1#4 && (t.feed 0).st == .absent) = true := by
  decide +kernel
theorem test_hourly : leaves (exec (.laserHourlyUpdate 0 (List.replicate 18 60)) { lamp .on with time := 3600000000000 }) (fun t => (t.feed 0).modHrs == 11#32 &&
    ((t.feed 0).module.map (fun m => (m.laserHrs.getD 8 0, m.laserHrs.getD 9 0))) == some (1, 0)) = true := by decide +kernel

theorem hyp_LasersRingsAndSwap : ((lamp .on).feed 0).module = some module1 ∧ module1.sel.getD 8 false = false ∧
    ({ module1 with sel := List.replicate 9 true } : Module).sel.getD 8 false = true ∧ ((lamp .on).link 0).lanemap.getLsbD 7 = true ∧
    ((lamp .on).link 0).lanemap.getLsbD 8 = false ∧ ((lamp .on).link 0).cause ≠ 8#4 ∧ (0 : LinkId) ∈ feedGroup 0 ∧ feedOf 0 = 0 ∧
    ((linked upLink Link.reset).feed (feedOf 0)).dark = true ∧ ((lamp .on).link 0).lost.setWidth 9 = 0#9 ∧ ((lamp .draining).feed 0).st = .draining := by
  refine ⟨rfl, ?_, ?_, ?_, ?_, ?_, ?_, ?_, ?_, ?_, rfl⟩ <;> decide +kernel
/-- A worn laser, a switch under way, and a link that waits for its light. -/
def dimmed : Link := { upLink with st := .down, cause := 8#4 }
theorem hyp_LasersRingsAndSwap_worn : module1.biasEol ≤ 100 ∧ (2 : Int) < module1.powerMin ∧ ¬ (module1.biasEol ≤ 99) ∧ ¬ ((3 : Int) < module1.powerMin) ∧
    dimmed.enoughLanes = true ∧ dimmed.cause = 8#4 ∧ ({ Feed.reset with st := .switching, sws := [⟨7, true, none, []⟩] } : Feed).switchOf 7 = some ⟨7, true, none, []⟩ ∧
    (feedGroup 0).find? (fun x => decide (((lamp .on).link x).st = .up ∧ ((lamp .on).link x).lanemap.getLsbD 7 = true)) = some 0 ∧
    (1 : LinkId) ∈ feedGroup 0 ∧ ((lamp .on).link 1).lost.getLsbD 7 = false ∧ ((lamp .on).link 0).queue = [] ∧ ((lamp .on).link 0).unacked = [] := by decide +kernel

/-- A planned switch of lane 7 first takes down the link that uses it; of lane 8, which no link uses, SEL is written at once (13:R569). -/
theorem test_planned : leaves (exec (.plannedLaserSwitch 0 7 100 5 true) (lamp .on)) (fun t => (t.link 0).st == .down && (t.link 0).cause == 8#4 &&
    (t.feed 0).st == .switching) = true ∧
    leaves (exec (.plannedLaserSwitch 0 8 100 5 true) (lamp .on)) (fun t => (t.link 0).st == .up && (t.feed 0).st == .switching) = true := by decide +kernel
theorem test_swap : leaves (exec (.swap 0) (lamp .switching)) (fun t => (t.feed 0).reason == 6#4) = true ∧
    leaves (exec (.cancel 0) (lamp .draining)) (fun t => (t.feed 0).st == .on) = true := by decide +kernel

/-! ## Command queues, commands, contexts that stop and move -/

/-- A command with nothing but an OPC, a SUB, a COUNT and flags; the first bytes of a 96-byte loadable for core 0. -/
def cmd (opc sub count flags : Nat) : CmdEntry :=
  ⟨BitVec.ofNat 64 (opc * 2 ^ 56 + flags * 2 ^ 48 + sub * 2 ^ 40 + count), 0#64, 0#64, 0#64, 0#64, 0#64, 0#64, 0#64⟩
def flying (e : CmdEntry) (started : Bool) (fin : Option (Word × Word)) : Flight := ⟨1#64, e, started, 0, fin, none, [], [], 0#32, 0, [], 0, false⟩
def onQueue (f : Option Flight) : Queue := { Queue.reset with pasid := 5#20, en := true, tail := 2#17, head := 1#17, cur := f }
/-- The device with that queue 0, and the context of core 0 as given. -/
def withCmd (x : List Context) (k : Core) (f : Option Flight) : State :=
  { withCore k with ctxs := x, queues := State.reset.queues.set 0 (onQueue f), links := State.reset.links.set 0 upLink,
                    boot := { State.reset.boot with image := some image1 } }
def image96 : List Byte :=
  leBytes 4 0x4C4B5657 ++ leBytes 2 1 ++ [1#8, 0#8] ++ leBytes 4 1 ++ leBytes 4 10 ++ leBytes 4 1 ++ leBytes 4 64 ++ leBytes 8 96 ++ leBytes 4 0x1000 ++
    List.replicate 28 0#8 ++ [1#8, 0#8, 0#8, 0#8] ++ leBytes 4 0x1000 ++ leBytes 8 0 ++ leBytes 8 4 ++ List.replicate 8 0#8
def loaded1 : Context := { ctx1 with st := .loaded, run := none }
def paused1 : Context := { ctx1 with st := .paused, run := none, pausedRun := some ⟨1#32, []⟩ }
def coming1 : Context := { loaded1 with loading := true }

theorem hyp_withCmd (k : Core) (f : Option Flight) : let s := withCmd [ctx1] k f
    s.flight 0 = f ∧ s.queue 0 = onQueue f ∧ s.cmdCtx 0 = some ctx1 ∧ (withCmd [loaded1] k f).cmdCtx 0 = some loaded1 ∧
    (withCmd [paused1] k f).cmdCtx 0 = some paused1 ∧ (withCmd [] k f).cmdCtx 0 = none ∧ s.hostOpen = true ∧ s.ctxOf 0 = some ctx1 :=
  ⟨rfl, rfl, rfl, rfl, rfl, rfl, rfl, rfl⟩

theorem hyp_QueueProtocol : let s := withCmd [ctx1] core1 none
    (s.queue 0).en = true ∧ (s.queue 0).cur.isNone = true ∧ (s.queue 0).tail ≠ (s.queue 0).head ∧ s.slotBusy = false ∧ s.hostOpen = true ∧
    State.reset.hostOpen = true ∧ (State.reset.queue 0).en = false ∧ (17#17 - (s.queue 0).head).toNat ≤ 2 ^ 4 ∧
    2 ^ 4 < (18#17 - (s.queue 0).head).toNat ∧ cmdReason (cmd 1 0 96 0) = 0 ∧ cmdReason (cmd 2 0 0 0) = 0 ∧ cmdReason (cmd 9 3 0 0) = 0 ∧
    cmdReason (cmd 0x0A 0 0 0) = 0 ∧ s.safeHold = false ∧ ({ s with boot := { s.boot with hold := 1#8 } } : State).safeHold = true ∧
    (s.ctx 5#20).isSome = true ∧ ((withCmd [] core1 none).ctx 5#20).isNone = true ∧ (cmd 1 0 0 0).w6 = 0#64 := by decide +kernel

/-- The tail may be 16 commands past the head, and not 17 (15:R615). -/
theorem test_doorbell : leaves (exec (.doorbellWrite 0 17#32) (withCmd [] core1 none)) (fun t => (t.queue 0).tail == 17#17 && !(t.queue 0).dberr) = true ∧
    leaves (exec (.doorbellWrite 0 18#32) (withCmd [] core1 none)) (fun t => (t.queue 0).tail == 2#17 && (t.queue 0).dberr) = true := by decide +kernel
/-- An OPC of 0 is refused with reason 2, and SUB of a LOAD with reason 1 (15:R619, R659). -/
theorem test_command_read : leaves (exec (.commandRead 0 (cmd 0 0 0 0)) (withCmd [] core1 none))
      (fun t => ((t.flight 0).bind Flight.done) == some (0x0102000000000000#64, 0#64) && t.journal.tail == 2#64) = true ∧
    leaves (exec (.commandRead 0 (cmd 1 1 96 0)) (withCmd [] core1 none))
      (fun t => ((t.flight 0).bind Flight.done) == some (0x0101000000000000#64, 0#64)) = true := by decide +kernel

theorem hyp_CommandsOfAContext : bitsN (cmd 9 3 0 0).w0.toNat 56 8 = 9 ∧ bitsN (cmd 9 3 0 0).w0.toNat 40 8 = 3 ∧ bitsN (cmd 4 0 7 2).w0.toNat 0 32 = 7 ∧
    (cmd 4 0 7 2).w0.getLsbD 49 = true ∧ (cmd 4 0 7 1).w0.getLsbD 48 = true ∧ 2 ^ 30 ≤ bitsN (cmd 4 0 0x40000000 0).w0.toNat 0 32 ∧
    (flying (cmd 0x0A 0 0 0) false none).fence = [] ∧
    (let s := { withCmd [ctx1] core1 (some (flying (cmd 3 0 1 0) false none)) with chans := State.reset.chans.set 0 { Chan.reset with owner := some 5#20 } }
     s.pstate = .run ∧ s.hostOpen = true ∧ (s.chan 0).owner = some 5#20 ∧ (s.chan 0).queue = [] ∧ (s.chan 1).owner ≠ some 5#20) ∧
    (parseLoadable image96 96).map Loadable.mask = some 1#32 ∧ (parseLoadable (image96.set 0 0#8) 96).isNone = true ∧
    ((parseLoadable image96 96).bind (fun l => (withCmd [coming1] core1 none).admission 5#20 l [])) = none ∧
    (withCmd [coming1] core1 (some (flying (cmd 1 0 96 0) false none))).admitting 1#64 = false ∧
    BitVec.ofNat 32 1 &&& ~~~ctx1.mask = 0#32 ∧ BitVec.ofNat 32 2 &&& ~~~ctx1.mask ≠ 0#32 ∧ (cmd 2 0 1 2).w0.getLsbD 49 = true ∧
    paused1.pausedRun = some ⟨1#32, []⟩ ∧ loaded1.st = .loaded := by decide +kernel
/-- An image refused: its loadable asks for core 0, which another context holds. -/
theorem hyp_CommandsOfAContext_refused : ((parseLoadable image96 96).bind (fun l =>
    (withCmd [{ ctx1 with pasid := 6#20 }] core1 none).admission 5#20 l [])) = some (5, 1) := by decide +kernel

theorem test_load : leaves (exec (.load 0 ⟨some image96, []⟩) (withCmd [coming1] core1 (some (flying (cmd 1 0 96 0) false none))))
    (fun t => (t.cmdCtx 0).map Context.entry == some 0x1000#20) = true := by
  decide +kernel
theorem test_run : leaves (exec (.run 0) (withCmd [loaded1] core1 (some (flying (cmd 2 0 1 0) false none))))
    (fun t => (t.core 0).pc == 0x1000#20 && (t.core 0).level == .kernel && !t.gated.getLsbD 0) = true := by decide +kernel

/-- A RUN whose only core has ended with 9. -/
def ended1 : Context := { ctx1 with run := some ⟨some 0, 1#64, 1#32, [(0, 9#64)]⟩ }
theorem hyp_RunCompletes : let s := withCmd [ended1] core1 (some (flying (cmd 2 0 1 0) true none))
    (s.cmdCtx 0).bind Context.run = some ⟨some 0, 1#64, 1#32, [(0, 9#64)]⟩ ∧ s.ownDescs 0 = [] ∧ (s.core 0).posts = [] ∧
    (∀ c : CoreId, (1#32 : BitVec 32).getLsbD c.val = true → c = 0) := by decide +kernel
theorem hyp_RunCompletes_context (k : Core) (f : Option Flight) : (withCmd [ended1] k f).cmdCtx 0 = some ended1 ∧
    ∀ y ∈ (withCmd [ended1] k f).ctxs, y.pasid = ended1.pasid → y = ended1 := by
  refine ⟨rfl, fun y hy _ => ?_⟩
  simpa [withCmd] using hy
theorem test_run_complete : leaves (exec (.runComplete 0) (withCmd [ended1] core1 (some (flying (cmd 2 0 1 0) true none))))
    (fun t => ((t.flight 0).bind Flight.done) == some (0#64, 9#64) && (t.cmdCtx 0).map Context.st == some .loaded) = true := by decide +kernel

/-- A core that has stopped at its safe point. -/
def stopped1 : Core := { core1 with held := true, active := true, ckpt := some saved }
/-- The save image of the paused context, as RESTORE reads it. -/
def saved1 : Transfer :=
  { pasid := 5#20, source := 1#16, srcSeq := 1#64, lo := ctx1.lo, counters := ctx1.counters, running := false, run := some 1#32, exits := [],
    secret := none, keyed := false, cores := [], granules := [], hbm := [], streams := [] }
theorem hyp_SaveAndRestore : bitsN (cmd 5 0 0 0).w0.toNat 56 8 = 5 ∧ ctx1.live = [0] ∧ (core1.held = false ∧ stopped1.held = true) ∧
    (withCmd [ctx1] core1 (some (flying (cmd 5 0 0 0) false none))).moving 0 1#64 = false ∧
    ({ withCmd [ctx1] core1 none with queues := (State.reset.queues.set 0 (onQueue none)).set 1 (onQueue (some (flying (cmd 5 0 0 0) true none))) } :
      State).moving 0 2#64 = true ∧
    ctx1.run.map RunRec.queue = some none ∧ 0 + 4000 * ctx1.spintUs.toNat ≤ 0 ∧ core1.halted = false ∧
    0 < 0 + 4000 * ({ ctx1 with spintUs := 1#32 } : Context).spintUs.toNat ∧ saved1.keyed = false ∧
    (withCmd [coming1] core1 (some (flying (cmd 6 0 9 0) false none))).admitting 1#64 = false ∧
    ({ withCmd [coming1] core1 none with ctxs := [] } : State).sec.secrets = [] ∧
    bitsN (cmd 6 0 9 0).w0.toNat 0 32 = 9 ∧ (cmd 5 0 0 0).w1.toNat % 4096 = 0 ∧ ({ cmd 5 0 0 0 with w1 := 64#64 } : CmdEntry).w1.toNat % 4096 ≠ 0 := by
  decide +kernel
/-- A buffer of 2^64 − 1 bytes holds every image, and one of 0 bytes holds none that has a byte. -/
theorem hyp_SaveAndRestore_size (s : State) (x : Context) : s.saveBytes x ≤ (0xFFFFFFFFFFFFFFFF#64).toNat := by
  show (Config.saveSize _ _ _ _ _).toNat ≤ 2 ^ 64 - 1
  have h := fun a b c d e => (Config.saveSize a b c d e).isLt
  exact Nat.le_pred_of_lt (h _ _ _ _ _)

/-- The image's own size is not COUNT: reason 4 (15:R650). -/
theorem test_restore : leaves (exec (.restore 0 8 true (some saved1) []) (withCmd [coming1] core1 (some (flying (cmd 6 0 9 0) false none))))
    (fun t => ((t.flight 0).bind Flight.done) == some (0x0104000000000000#64, 0#64)) = true ∧
    leaves (exec (.restore 0 9 false (some saved1) []) (withCmd [coming1] core1 (some (flying (cmd 6 0 9 0) false none))))
    (fun t => ((t.flight 0).bind Flight.done) == some (0x0109000000000000#64, 0#64)) = true := by decide +kernel

def toPeer (dest : Nat) (started : Bool) : Option Flight := some (flying { cmd 7 0 0 0 with w2 := BitVec.ofNat 64 dest } started none)
theorem hyp_EvacuateAndZeroize : let s := withCmd [ctx1] core1 (toPeer 3 false)
    (s.evacReason 0 (flying { cmd 7 0 0 0 with w2 := 3#64 } false none) ⟨true, true, 4#64⟩).isSome = true ∧
    (({ s with boot := { s.boot with image := some { image1 with settings := { settings1 with security := { policy1 with evacDirect := false } } } } } :
      State).evacReason 0 (flying { cmd 7 0 0 0 with w2 := 3#64 } false none) ⟨true, true, 4#64⟩) = none ∧
    s.deviceId = 1#16 ∧ ctx1.host = [] ∧ (s.core 0).held = false ∧ s.replayable 0 = true ∧ 0 + 4000 * ctx1.spintUs.toNat ≤ s.xtal ∧
    bitsN (cmd 8 0 0 0).w0.toNat 56 8 = 8 ∧ (withCmd [ctx1] stopped1 (toPeer 3 true)).pstate = .run ∧
    (withCmd [] core1 none).standsBy 1#8 0#8 = true ∧ (withCmd [ctx1] core1 none).standsBy 1#8 0#8 = false ∧
    ((parseLoadable image96 96).bind (fun l => (withCmd [] core1 none).admission 5#20 l [])) = none := by decide +kernel

/-- EVACUATE to oneself, and to the peer, which takes the context (18:R752 to R754). -/
theorem test_evacuate : leaves (exec (.evacuate 0 ⟨true, true, 4#64⟩) (withCmd [ctx1] core1 (toPeer 1 false)))
      (fun t => ((t.flight 0).bind Flight.done) == some (0x0108000000000000#64, 0#64)) = true ∧
    leaves (exec (.evacuate 0 ⟨true, true, 4#64⟩) (withCmd [ctx1] stopped1 (toPeer 3 true)))
      (fun t => ((t.flight 0).bind Flight.done) == some (0#64, 4#64) && (t.ctx 5#20).isNone && t.gated.getLsbD 0) = true := by decide +kernel
theorem test_zeroize : leaves (exec (.zeroize 0) (withCmd [loaded1] { core1 with dmem := Mem.put [] 0 [1#8] } (some (flying (cmd 8 0 0 0) false none))))
    (fun t => (t.core 0).dmem == [] && (t.ctx 5#20).isNone) = true := by decide +kernel

/-! ## Power, clocks, temperature -/

/-- The device running with its power state as given; in Open mode; asleep or in Quench. -/
def powered (p : Power) : State := { State.reset with pstate := .run, power := p }
def open1 (p : Power) : State :=
  { powered p with boot := { State.reset.boot with image := some { image1 with settings := { settings1 with power := ⟨true, 10, 20, false⟩, group := none } } } }
def at5 : Power := Power.reset
def at3 : Power := { Power.reset with level := 3#3 }

theorem hyp_LevelsAndGovernor : (powered at5).runLevel = 5#3 ∧ (open1 at5).runLevel = 7#3 ∧ at5.stretched = false ∧ ({ at5 with stretched := true } : Power).stretched = true ∧
    (powered at5).policy.openMode = false ∧ (open1 at5).policy.openMode = true ∧ at3.rising = none ∧ (3 : Nat) < 5 ∧
    ({ at3 with rising := some (4#3, 3#3) } : Power).rising = some (4#3, 3#3) ∧ 3#3 &&& ~~~(BitVec.ofNat 3 (2 ^ 0)) ≠ 0#3 ∧ 1#3 &&& ~~~(BitVec.ofNat 3 (2 ^ 0)) = 0#3 ∧
    (powered at5).xtal < ({ at5 with noRaise := 1 } : Power).noRaise ∧ 2200 < ({ at5 with ticks := List.replicate 2048 2300#16 } : Power).avg1s ∧
    at5.burst = false ∧ at5.armed = true ∧ (0 : Int) < 0 + (2201 - 2200) ∧ 20 ≤ ({ at5 with burst := true, overPl2 := 20 } : Power).overPl2 ∧ at5.floorOn = false ∧
    at5.droopCap = 7#3 ∧ at5.noRaise ≤ 0 ∧ ({ at5 with alertLow := true } : Power).floorOn = true ∧ (powered at5).gvalid = false := by decide +kernel
def asleep (st : PState) (p : Power) (t : Nat) : State :=
  { open1 p with pstate := st, us := t / 1000, boot := { (open1 p).boot with wait := .done } }
theorem hyp_LevelsAndGovernor_ticks : (powered at3).xtal * 4 / 1953125 = 0 ∧ at3.riseTick ≠ some 0 ∧ at3.govTick ≠ some 0 ∧ at3.pl2Tick ≠ some 0 ∧
    ({ at3 with riseTick := some 0 } : Power).riseTick = some 0 ∧ min (powered at3).runLevel.toNat (at3.level.toNat + 1) = 4 ∧
    (powered { at5 with localCap := 2#3 }).runLevel.toNat = 2 ∧ min 5 5 = at5.level.toNat ∧ at5.ticks.length = 0 ∧
    ((powered at3).pstate = .run ∨ (powered at3).pstate = .idle) ∧ ¬((asleep .retention at3 0).pstate = .run ∨ (asleep .retention at3 0).pstate = .idle) := by decide +kernel

/-- One step up, whose rails rise first; no jump of two levels, and no fall without a cause (16:R679, R680). -/
theorem test_level_change : leaves (exec (.levelChange 4#3) (powered at3)) (fun t => t.power.level == 3#3 && t.power.rising == some (4#3, 3#3)) = true ∧
    leaves (exec (.levelChange 5#3) (powered at3)) (fun t => t.power.rising == none) = true ∧
    leaves (exec (.levelChange 2#3) (powered at3)) (fun t => t.power.level == 3#3) = true := by decide +kernel
/-- Below a local limit the level falls at once, and DEPART is set (16:R678, R679). -/
theorem test_level_fall : leaves (exec (.levelChange 2#3) (powered { at5 with localCap := 2#3 })) (fun t => t.power.level == 2#3 && t.power.depart) = true := by
  decide +kernel
/-- 2,201 W begins a burst in Open mode, and 2,200 W does not (16:R684). -/
theorem test_burst : leaves (exec (.governorTick 2201 7#3) (open1 at5)) (fun t => t.power.burst && !t.power.armed && t.power.balance == 1) = true ∧
    leaves (exec (.governorTick 2200 7#3) (open1 at5)) (fun t => !t.power.burst) = true := by decide +kernel

theorem hyp_DroopTemperAndSleep : (powered at5).pstate = .run ∧ at5.droops = [] ∧ ({ at5 with droops := [(0, 3, 0)] } : Power).droops = [(0, 3, 0)] ∧
    at5.deferred = none ∧ ({ at5 with stretched := true, deferred := some 2#3 } : Power).deferred = some 2#3 ∧ 0 + 50000 ≤ (asleep .run at5 50000).xtal ∧
    (asleep .idle at5 10000000).policy.idleRetMs ≠ 0 ∧ 0 + 10 * 1000000 ≤ (asleep .idle at5 10000000).xtal ∧
    (∀ l : LinkId, ((asleep .idle at5 10000000).link l).st ≠ .up) ∧ (asleep .idle at5 10000000).policy.idleHeartS = 20 ∧
    0 + 20 * 1000000000 ≤ (asleep .retention at5 20000000000).xtal ∧ lowestCore ctx1.mask = some 0 ∧ ctx1.loading = false ∧
    5 < 7 ∧ (⟨800#10, 40#6, 790#10, false, none⟩ : Temper).vnom.toNat - 40 < 790 := by decide +kernel
theorem hyp_DroopTemperAndSleep_wake : (asleep .retention at5 0).boot.wait = .done ∧ (asleep .retention at5 0).boot.hold = 0#8 ∧
    (asleep .retention at5 0).boot.inputs = none ∧ State.reset.boot.wait ≠ .done ∧ ({ at5 with rising := some (6#3, 0#3), stretched := true } : Power).deferred = none ∧
    at5.creditTick ≠ some 0 ∧ ({ at5 with creditTick := some 0 } : Power).creditTick = some ((asleep .run at5 0).xtal * 4 / 1953125) := by decide +kernel

theorem hyp_idle (st : PState) (t : Nat) : (asleep st at5 t).isIdle = true := by
  simp [State.isIdle, asleep, open1, powered, State.reset, Chan.reset, Htg.reset, Queue.needsData, Queue.reset, at5]
theorem hyp_not_idle : (withRun core1).isIdle = false := rfl

/-- 790 mV under a request of 780 goes down by 1 mV (16:R673). -/
theorem test_temper : leaves (exec (.temperMonitorAdjust 0 5#3 780)
      (powered { at5 with temper := at5.temper.set 0 ((Vector.replicate 8 Temper.reset).set 5 ⟨800#10, 40#6, 790#10, false, none⟩) }))
    (fun t => (t.power.temper[(0 : Fin 2)])[(5 : Fin 8)].vapp == 789#10) = true := by decide +kernel
/-- From heart only the top-note rails come first, and a start that is not over does not wake (01:R41, 16:R706). -/
theorem test_wake : leaves (exec .wake (asleep .idle at5 0)) (fun t => t.pstate == .run) = true ∧
    leaves (exec .wake (asleep .heartOnly at5 0)) (fun t => t.pstate == .heartOnly && t.boot.tnEn && t.boot.wait == .topPg) = true ∧
    leaves (exec .wake (asleep .retention at5 0)) (fun t => t.pstate == .retention && t.boot.wait == .linkPg && t.out.getLast? == some (.avs 2 750)) = true := by
  decide +kernel

/-- Sensor 25 of die 0, which quadrant 1 holds, at `n` °C; every other sensor at 40 °C. -/
def temps1 (n : Int) : Temps :=
  ⟨[(List.replicate 80 40).set 25 n, List.replicate 80 40], [List.replicate 32 40, List.replicate 32 40], List.replicate 8 40, List.replicate 64 40⟩
def quench1 (t : Nat) : State :=
  { open1 { at5 with temps := temps1 40, quenchCool := some 0, quenchN := false, quenchFrom := .run } with pstate := .quench, us := t / 1000 }

theorem hyp_ThermalQuenchAndFloor : (open1 at5).pstate ≠ .off ∧ reachesQuench (temps1 115) = true ∧ reachesQuench (temps1 114) = false ∧
    (quench1 31250000).quenchClears = true ∧ 0 + 31250000 ≤ (quench1 31250000).xtal ∧ (powered at5).policy.quenchFollow = true ∧
    (open1 at5).policy.quenchFollow = false ∧ (∀ d : Fin 2, at5.die[d] = false) ∧ 8 ≤ ({ at5 with quads := at5.quads.set 1 ⟨15, 8, 0, false, none, false, none, false, none⟩ } : Power).quads[(1 : Fin 8)].below ∧
    (∀ j : Fin 8, at5.quads[j].below < 8) ∧ ({ at5 with noSkip := 64, localCap := 4#3 } : Power).localCap.toNat < (powered at5).modeTop ∧
    ({ at5 with alertLow := true } : Power).alertLow = true ∧ ({ at5 with floorHold := some 0 } : Power).floorHold = some 0 := by decide +kernel
theorem hyp_ThermalQuenchAndFloor_ticks : at5.skipTick ≠ some ((powered at5).xtal * 4 / 1953125) ∧ ({ at5 with skipTick := some 0 } : Power).skipTick = some 0 ∧
    (quench1 31249000).xtal < 0 + 31250000 ∧ (quench1 0).pstate = .quench ∧ (open1 at5).dataPlane = true := by decide +kernel

theorem test_throttle : leaves (exec (.thermalSample (temps1 105)) (powered at5)) (fun t => t.power.quads[(1 : Fin 8)].core && !t.power.quads[(0 : Fin 8)].core) = true ∧
    leaves (exec (.thermalSample (temps1 104)) (powered at5)) (fun t => !t.power.quads[(1 : Fin 8)].core) = true := by decide +kernel
theorem test_quench_exit : leaves (exec .quenchExit (quench1 31250000)) (fun t => t.pstate == .retention && t.boot.waking == some .run && t.power.level == 0#3) = true ∧
    leaves (exec .quenchExit (quench1 31249000)) (fun t => t.pstate == .quench) = true := by decide +kernel

/-! ## Start-up, staging, security, the management plane -/

/-- A Niley image of 608 bytes, with a device identity, a security policy and a firmware section, and the signature block after it (17:R719 to
R722, 19:R769): the key is that of the scalar 0x1234567890abcdef1234567890abcdef, and the signatures over versions 2 and 3 were made with it outside
the model. -/
def policyBytes : List Byte :=
  leBytes 2 1 ++ [3#8, 7#8, 1#8, 0#8, 0#8, 0#8] ++ List.replicate 48 0#8 ++ beBytes 48 5 ++ List.replicate 384 0#8 ++ leBytes 4 4 ++ leBytes 4 0 ++
    [0x30#8, 0#8, 0x30#8, 0#8]
def sectionBytes (t : Nat) (v : List Byte) : List Byte :=
  leBytes 2 t ++ leBytes 2 0 ++ leBytes 4 v.length ++ v ++ List.replicate ((v.length + 7) / 8 * 8 - v.length) 0#8
/-- Version 4 also has a quad section, whose slot is 1. -/
def imageKey : Nat := 0xbfd152465458e5b9f1a903eafef03095ebfd52c5f9ea97be74de9194355fcfb40ec097315adf6afdefba21f44b625b4817058eff9a1ad175a4675e9c730cb028ec76aec544f7a56d58164d8cfc0402b489c4e74c918dc3a77f5c219d31b8e245
def keyHash1 : BitVec 384 := 0x2b8bbb93f96a511bfc15475cab001a884d51afca0bd0c9378b98b1543bb5b25639b68072717a667a66a3f53dd2c0ba7c#384
def signature (v : Nat) : Nat :=
  if v = 2 then 0x43d2f33f5a6d75f1a163f5b6bcfd0d117ff4090470b0f71092cd0ae6a9b5f077a2bc8b32644125fc43729c7623dc1c6d2cd25d593c587e208a0fa361d1ae7ca268dcbc8b02da441a3139afddc21e123ae4d65cdeb8a2341be6c8f799fa60bb18
  else 0x95a5300221df149b6be9e47c360fd18492b082a36c710792bfcb8bf5cac7a74a9ac3ead6ebce56f8655cc9ff14ed9c0cfaf669f2aae7f0b8f0ba9ad786b5b21624c7b526ec9f7d2df8305190561cecb2621d0c2b5e72b1342cf3ea1ab8571915
def niley (v : Nat) : Slot :=
  ⟨leBytes 4 0x594C494E ++ leBytes 2 1 ++ leBytes 2 0 ++ leBytes 4 0x4800 ++ leBytes 4 3 ++ leBytes 8 v ++ leBytes 4 608 ++ List.replicate 36 0#8 ++
    sectionBytes 1 (List.replicate 8 0#8) ++ sectionBytes 8 policyBytes ++ sectionBytes 0xC [1#8, 2#8, 3#8] ++ beBytes 96 imageKey ++ beBytes 96 (signature v),
   some ⟨settings1, true, true⟩⟩
theorem hyp_image2 : (validSlot keyHash1 (niley 2)).map (fun m => (m.version, m.settings.quadSlot)) = some (2#64, none) := by decide +kernel
theorem hyp_image3 : (validSlot keyHash1 (niley 3)).map (fun m => (m.version, m.settings.quadSlot)) = some (3#64, none) := by decide +kernel
def nileyQuad : Slot :=
  ⟨leBytes 4 0x594C494E ++ leBytes 2 1 ++ leBytes 2 0 ++ leBytes 4 0x4800 ++ leBytes 4 4 ++ leBytes 8 4 ++ leBytes 4 624 ++ List.replicate 36 0#8 ++
    sectionBytes 1 (List.replicate 8 0#8) ++ sectionBytes 2 (List.replicate 8 0#8) ++ sectionBytes 8 policyBytes ++ sectionBytes 0xC [1#8, 2#8, 3#8] ++
    beBytes 96 imageKey ++
    beBytes 96 0x7aa45f370ae850d890acf5a5813391249d5619e69fb96d5e2f4524056c534902e4902294296c727666709cf565d33328ec11099f012190676cc83558959d424990de46ddcfedc2e078c02f703cb0e4eae8e20b632fe62f166886073c5170b64,
   some ⟨{ settings1 with quadSlot := some 1#2 }, true, true⟩⟩
theorem hyp_image_quad : (validSlot keyHash1 nileyQuad).map (fun m => m.settings.quadSlot) = some (some 1#2) := by decide +kernel
theorem hyp_image_newer : ∃ m, validSlot keyHash1 (niley 3) = some m ∧ 2 < m.version.toNat := by
  cases h : validSlot keyHash1 (niley 3) with
  | none => exact absurd (h ▸ hyp_image3) (by simp)
  | some m =>
    have hv := h ▸ hyp_image3
    simp only [Option.map_some, Option.some.injEq, Prod.mk.injEq] at hv
    exact ⟨m, rfl, by rw [hv.1]; decide⟩
/-- Another key's hash, a byte of the image changed, and an erased slot: no valid image (17:R722, R723). -/
theorem hyp_image_bad : validSlot 0#384 (niley 2) = none ∧ readImage { niley 2 with bytes := (niley 2).bytes.set 6 1#8 } = none ∧
    readImage Slot.erased = none := by decide +kernel

/-- Fuses with copies that agree: 512 zero bytes of Rivet data, and Temper entries of 800 mV and 40 mV, each with its IEEE 802.3 CRC-32. -/
def rivet1 : RivetMap := ⟨0x3FFFF#18, (List.range 16).map (BitVec.ofNat 5), [], [], [[], [], [], []]⟩
def rivetCopy1 : RivetCopy := ⟨0#4096, 0xB2AA7578#32, rivet1⟩
def temperCopy1 : TemperCopy := ⟨0xC828C828C828C828C828C828C828C828#128, 0xF55A4311#32⟩
def root1 : RootFuses := ⟨0x1234567890abcdef1234567890abcdef#384, keyHash1, false⟩
def fuses1 : Fuses := ⟨0, 0x4800#32, 0xB0#8, List.replicate 3 rivetCopy1, List.replicate 2 temperCopy1, some root1⟩
def inputs1 : StartInputs :=
  { qslot := 0#2, crystal := false, qrstIn := false, fuses := [fuses1, fuses1], hrtPg := false, slotA := none, slotB := none, fwRuns := false, tnPg := false,
    lnkPg := false, refIn := true, bist := [], sram := [], hbmOk := true, d2d := [], romDigest := 0#384, stuck := [] }
/-- The device in that wait of its start, at that time. -/
def starting (w : BootWait) (i : StartInputs) (t : Nat) : State :=
  { State.reset with pstate := .heartOnly, us := t / 1000, boot := { Boot.reset with wait := w, inputs := some i, pwrgd := true, slotA := niley 2, slotB := niley 3 },
                     rep := { State.reset.rep with good := #v[0x3FFFF#18, 0x3FFFF#18] } }

theorem hyp_StartUpAndReset : State.reset.boot.pwrgd = false ∧ inputs1.crystal = false ∧ (starting .crystal inputs1 0).boot.wait = .crystal ∧
    (starting .crystal inputs1 0).boot.qrstIn = false ∧ 0 + 1000000000 ≤ (starting .chain inputs1 1000000000).xtal ∧ inputs1.fuses = [fuses1, fuses1] ∧
    inputs1.hrtPg = false ∧ rivetCopy1.crc = crcOfBits rivetCopy1.data ∧ temperCopy1.crc = crcOfBits temperCopy1.data ∧
    ({ rivetCopy1 with crc := 0#32 } : RivetCopy).crc ≠ crcOfBits rivetCopy1.data ∧ ({ rivetCopy1 with data := 1#4096 } : RivetCopy).data ≠ rivetCopy1.data ∧
    (StartInputs.root inputs1).imageKeyHash = keyHash1 ∧ (∃ f ∈ [(⟨0, 3, 2, 1⟩ : SramFail)], f.has < f.needs) ∧
    ((starting .linkPg inputs1 0).rep.selfTest [2#18]).isSome = true ∧ ((starting .linkPg inputs1 0).rep.selfTest [0x3FFFF#18]) = none ∧
    (∀ c : CoreId, ((starting .linkPg inputs1 0).rep.good[dieOf c]).getLsbD ((starting .linkPg inputs1 0).rep.map[c]).pcore.toNat = true) ∧
    0 + 20000000 ≤ (starting .topPg inputs1 20000000).xtal ∧ 0 + 500000000 ≤ (starting .firmware inputs1 500000000).xtal ∧
    (∀ x ∈ (List.replicate 8 (some 20) : List (Option Nat)), ∃ n, x = some n ∧ n ≤ 20) ∧
    ({ Boot.reset with stage := 10#4 } : Boot).mayAnswer = true ∧ ({ Boot.reset with hold := 4#8 } : Boot).mayAnswer = true ∧ Boot.reset.mayAnswer = false ∧
    Boot.reset.staging ≠ 1#2 ∧ 4 ≤ ({ Boot.reset with stage := 4#4 } : Boot).stage.toNat ∧ State.reset.pstate ≠ .quench := by
  refine ⟨rfl, rfl, rfl, rfl, ?_, rfl, rfl, ?_, ?_, ?_, ?_, rfl, ?_, ?_, ?_, ?_, ?_, ?_, fun x hx => ⟨20, List.eq_of_mem_replicate hx, Nat.le_refl 20⟩, ?_, ?_, ?_, ?_, ?_, ?_⟩ <;>
    decide +kernel
def inputs2 : StartInputs := { inputs1 with tnPg := true, refIn := false, lnkPg := true, d2d := [List.replicate 8 (some 20)] }
theorem hyp_StartUpAndReset_wakes : (starting .topPg inputs1 0).boot.inputs = some inputs1 ∧ inputs1.refIn = true ∧ inputs1.lnkPg = false ∧ inputs2.refIn = false ∧
    (starting .linkPg inputs1 0).boot.waking ≠ some .retention ∧ ({ Boot.reset with waking := some .retention } : Boot).waking = some .retention ∧
    inputs1.d2d = [] ∧ inputs2.d2d = List.replicate 8 (some 20) :: [] ∧ (List.replicate 8 (some 20) : List (Option Nat)).length = 8 ∧ Boot.reset.d2dFails < 3 ∧ 3 ≤ ({ Boot.reset with d2dFails := 3 } : Boot).d2dFails ∧ Boot.reset.aligned = false ∧ (∃ l, (linked upLink Link.reset).linkMapped l = true) ∧ (∀ l, State.reset.linkMapped l = false) ∧
    ¬ (∀ x ∈ ([some 21] : List (Option Nat)), ∃ n, x = some n ∧ n ≤ 20) := by
  refine ⟨rfl, rfl, rfl, rfl, ?_, rfl, rfl, rfl, rfl, ?_, ?_, ?_, ⟨0, ?_⟩, fun _ => rfl, ?_⟩
  · decide +kernel
  · decide +kernel
  · decide +kernel
  · decide +kernel
  · decide +kernel
  · intro h
    obtain ⟨n, hn, hl⟩ := h (some 21) (by simp)
    injection hn with hn
    omega

/-- A marker by cycle 20 is in time and one at 21 is not; the fourth failure ends in Safe hold (14:R582, R583). -/
theorem test_markers : leaves (exec (.d2dMarkerExchange (List.replicate 8 (some 20))) (starting .d2d inputs1 0)) (fun t => t.pstate == .idle && t.boot.stage == 13#4) = true ∧
    leaves (exec (.d2dMarkerExchange (List.replicate 8 (some 21))) { starting .d2d inputs1 0 with boot := { (starting .d2d inputs1 0).boot with d2dFails := 3 } })
      (fun t => t.boot.hold == 8#8) = true := by decide +kernel
/-- Of two valid images the higher version runs (17:R724). -/
theorem test_image : leaves (exec (.regulatorPowerGood 0) (starting .heartPg inputs1 0)) (fun t => t.boot.slot && t.boot.version == 3#64 && t.boot.wait == .firmware) = true := by
  decide +kernel

/-- A staging under way over PLDM, or over DOE. -/
def stagingBy (pldm : Bool) (t : Nat) : State :=
  { State.reset with us := t / 1000, boot := { Boot.reset with stage := 13#4, staging := 1#2, path := some pldm, stBytes := 800, version := 2#64, update := true,
                                                                      inputs := some inputs1, slotB := { niley 3 with fields := none } } }
theorem hyp_StagingAndUpdate : (stagingBy true 0).boot.staging = 1#2 ∧ (stagingBy true 0).boot.path = some true ∧ (stagingBy false 0).boot.path = some false ∧
    (stagingBy true 0).boot.version.toNat < 3 ∧ (stagingBy true 0).boot.slot = false ∧ 0 + 60000000000 ≤ (stagingBy true 60000000000).xtal ∧
    7 ≤ (stagingBy true 0).boot.stage.toNat ∧ 8 + 4096 ≤ 0x2000000 ∧ ({ Boot.reset with stage := 13#4, update := true } : Boot).staging ≠ 1#2 ∧
    ({ Boot.reset with stage := 13#4 } : Boot).update = false ∧ ([1#8] : List Byte) ≠ [] := by decide +kernel
theorem hyp_StagingAndUpdate_busy : (stagingBy true 0).mgmt.actions = [] ∧ ¬ (7 ≤ State.reset.boot.stage.toNat) ∧ State.reset.boot.hold = 0#8 ∧
    ({ Mgmt.reset with actions := [.warmReset] } : Mgmt).actions ≠ [] := by decide +kernel

theorem hyp_StagingAndUpdate_found (pldm : Bool) : ∃ m, validSlot (((stagingBy pldm 0).boot.inputs.map (fun i => (StartInputs.root i).imageKeyHash)).getD 0#384)
    { (stagingBy pldm 0).boot.slotB with fields := some ⟨settings1, true, true⟩ } = some m ∧ (stagingBy pldm 0).boot.version.toNat < m.version.toNat := hyp_image_newer
theorem hyp_StagingAndUpdate_stale : readImage { (stagingBy true 0).boot.slotB with fields := some ⟨settings1, false, true⟩ } = none := by decide +kernel

/-- What has been written is a signed image of version 3; with its reserved fields not zero it is refused and erased (17:R732). -/
theorem test_staging : leaves (exec (.stagingCheck ⟨settings1, true, true⟩) (stagingBy true 0)) (fun t => t.boot.staging == 3#2 && t.boot.other == 2#2) = true ∧
    leaves (exec (.stagingCheck ⟨settings1, false, true⟩) (stagingBy true 0)) (fun t => t.boot.staging == 2#2 && t.boot.slotB == Slot.erased) = true := by
  decide +kernel

/-- The device up, with a session set up and one that is not. -/
def secure1 : State :=
  { linked upLink Link.reset with
    boot := { Boot.reset with stage := 13#4, image := some image1, inputs := some inputs1 }
    sec := { Security.reset with sessions := [⟨.doe, 3, true, true, 3⟩, ⟨.mctp, 4, false, false, 4⟩], nonce := some (3, 0) } }
theorem hyp_AttestationAndSessions : 7 ≤ secure1.boot.stage.toNat ∧ secure1.secPolicy = some policy1 ∧
    (secure1.sec.sessions.filter (fun x => x.via == .doe)).length < 4 ∧
    4 ≤ ((List.replicate 4 (⟨.doe, 3, true, true, 3⟩ : Session)).filter (fun x => x.via == .doe)).length ∧
    (∃ x ∈ secure1.sec.sessions, x.via = .doe ∧ x.ident = 3 ∧ x.open_ = true ∧ x.mutualAuth = true) ∧
    (∃ x ∈ secure1.sec.sessions, x.via = .mctp ∧ x.ident = 4 ∧ x.open_ = false) ∧ (∀ x ∈ secure1.sec.sessions, ¬(x.via = .fabric 0 ∧ x.ident = 3)) ∧
    secure1.sec.nonce = some (3, 0) ∧ secure1.xtal < 0 + 60000000000 ∧ 0 + 60000000000 ≤ ({ secure1 with us := 60000000 } : State).xtal ∧
    6 < (7#8 : BitVec 8).toNat ∧ (6#8 : BitVec 8).toNat ≤ 6 := by
  refine ⟨by decide, rfl, by decide, by decide, ⟨⟨.doe, 3, true, true, 3⟩, by decide⟩, ⟨⟨.mctp, 4, false, false, 4⟩, by decide⟩, by decide, rfl, by decide, by decide,
    by decide, by decide⟩

theorem test_finish : leaves (exec (.finish .mctp ⟨4, true⟩) secure1) (fun t => (t.sec.sessions.map Session.open_) == [true, true]) = true ∧
    leaves (exec (.finish .mctp ⟨4, false⟩) secure1) (fun t => t.sec.sessions.map Session.ident == [3]) = true := by decide +kernel
/-- A tenant secret needs mutual authentication (19:R774). -/
theorem test_secret : leaves (exec (.setTenantSecret .doe (some 3) 5#20 7#256) secure1) (fun t => t.sec.secrets == [(5#20, 7#256)]) = true ∧
    leaves (exec (.setTenantSecret .doe none 5#20 7#256) secure1) (fun t => t.sec.secrets == []) = true := by decide +kernel

/-- A token for this device and its nonce, and a halted core in debug mode. -/
def token1 : DebugToken := ⟨0x47424457#32, 1#16, 3#8, 0#8, keyHash1, nonceOf 3, 5#384, true⟩
def debugged : State :=
  { withCore { core1 with tlvl := ⟨false, false, 0#2, .firmware⟩, banks := core1.banks.set 2 { TrapBank.reset 0x1E1#9 with trc := Cause.debugHalt.trc } } with
    sec := { Security.reset with debug := true, scope := 2#2 }, boot := { Boot.reset with stage := 13#4 } }
theorem hyp_DebugMode : secure1.secPolicy = some policy1 ∧ policy1.debugAllow = true ∧ token1.keyHash = policy1.debugKeyHash ∧ 
    RootFuses.deviceHash (StartInputs.root inputs1) = token1.device ∧
    secure1.boot.inputs = some inputs1 ∧ secure1.sec.nonce = some (3, 0) ∧ nonceOf 3 = token1.nonce ∧ secure1.xtal < 60000000000 ∧ token1.magic = 0x47424457#32 ∧
    0 < token1.scope.toNat ∧ token1.scope.toNat < 4 :=
  ⟨rfl, rfl, rfl, by decide +kernel, rfl, rfl, rfl, by decide, rfl, by decide, by decide⟩
theorem hyp_DebugMode_core : debugged.sec.debug = true ∧ debugged.sec.scope.getLsbD 1 = true ∧ debugged.pstate = .run ∧ debugged.gated.getLsbD 0 = false ∧
    (debugged.core 0).level = .firmware ∧ (debugged.core 0).dfault = false ∧ ((debugged.core 0).bank .firmware).trc = Cause.debugHalt.trc ∧
    0x40000 + 0 ≤ 0x40000 ∧ (debugged.core 0).badDmem = [] := by decide +kernel
/-- A link in ATTEST goes DOWN with CAUSE 0x8; one in TRAIN trains on (19:R788). -/
theorem test_debug_link :
    let s := { secure1 with links := (secure1.links.set 0 { secure1.link 0 with st := .attest }).set 1 { secure1.link 1 with st := .train } }
    (((s.debugLink 0).debugLink 1).link 0).st = .down ∧ (((s.debugLink 0).debugLink 1).link 0).cause = 8#4 ∧
      (((s.debugLink 0).debugLink 1).link 1).st = .train := by decide +kernel

theorem test_debug_enter : leaves (exec (.debugEnter .doe { token1 with magic := 0#32 }) secure1) (fun t => !t.sec.debug && t.sec.denied == 1#8 && t.sec.nonce == none) = true := by
  decide +kernel
theorem test_debug_write : leaves (exec (.debugCoreAccess 0 (.writeReg 5#5 9#64)) debugged) (fun t => (t.core 0).reg 5#5 == 9#64) = true := by decide +kernel

def managed (m : Mgmt) : State := { secure1 with mgmt := m, pstate := .run }
def readings1 : Published :=
  { stamp := 31250000, tickW := 2000, avg1s := 1900, energy := 5, volts := [800], amps := [100], level := 5, pstate := 1, patina := 0, boot := 13, temps := temps1 77,
    feeds := [], links := [4] }
theorem hyp_ManagementPlane : 7 ≤ (managed Mgmt.reset).boot.stage.toNat ∧ Mgmt.reset.dyn = 0#7 ∧ ({ Mgmt.reset with pub := some readings1 } : Mgmt).pub = some readings1 ∧
    ((readings1.temps.die.getD 0 [])[25]?) = some 77 ∧ readings1.links[0]? = some 4 ∧ Mgmt.reset.events = [] ∧
    ({ Mgmt.reset with events := [(1, [])], owed := 2 } : Mgmt).owed ≠ 0 ∧ (managed Mgmt.reset).boot.staging ≠ 1#2 ∧ (managed Mgmt.reset).ctxs = [] ∧
    ({ lamp .on with mgmt := Mgmt.reset } : State).swapBusy 0 = false ∧ (lamp .draining).swapBusy 0 = false ∧ ((lamp .draining).feed 0).st = .draining ∧
    ({ (lamp .on) with boot := Boot.reset } : State).swapStrands 0 = false ∧ (managed Mgmt.reset).pstate ≠ .off ∧ debugged.sec.debug = true := by decide +kernel
theorem hyp_ManagementPlane_busy : Mgmt.reset.actions = [] ∧ ({ Mgmt.reset with actions := [.debugHalt 0] } : Mgmt).actions = [.debugHalt 0] ∧
    Mgmt.reset.pubTick ≠ some ((managed Mgmt.reset).xtal * 4 / 1953125) ∧
    ({ Mgmt.reset with pubTick := some 0 } : Mgmt).pubTick = some ((managed Mgmt.reset).xtal * 4 / 1953125) := by decide +kernel
/-- A reading asked for while an action waits for its tick is discarded, and a second publication in a tick changes nothing (20:R796, 00:R10). -/
theorem test_busy : leaves (exec (.getSensorReading 0x119#16) (managed { Mgmt.reset with pub := some readings1, actions := [.warmReset] })) (fun t => t.out == []) = true ∧
    leaves (exec (.telemetryPublish (temps1 40) 10 [] []) (managed { Mgmt.reset with pubTick := some 0 })) (fun t => t.power.energy == 0) = true := by decide +kernel

theorem test_sensor : leaves (exec (.getSensorReading 0x119#16) (managed { Mgmt.reset with pub := some readings1 }))
    (fun t => t.out.any (fun o => match o with | .reply _ 0 b => b == [0, 77, 31250000] | _ => false)) = true := by decide +kernel
theorem test_poll : leaves (exec .pollForPlatformEventMessage (managed { Mgmt.reset with events := [(1, [])], owed := 2 })) (fun t => t.mgmt.events == [(0xC, [2#64])]) = true := by
  decide +kernel

theorem hyp_HostRegisterWrites : (4#25 : BitVec 25).toNat % 8 ≠ 0 ∧ (State.reset.queue 0).en = false ∧ ((withCmd [] core1 none).queue 0).en = true ∧
    State.reset.htg[(0 : Fin 256)].running = false ∧ ({ Htg.reset with running := true } : Htg).running = true ∧ (1#64).getLsbD 0 = true ∧ (1#64).getLsbD 1 = false := by
  decide +kernel
theorem test_register_write : leaves (exec (.registerWrite 0x5020#25 0xABCD#64) State.reset) (fun t => t.ring.ovec == 0xAB#8 && t.ring.fvec == 0xCD#8) = true := by
  decide +kernel

/-- A queue of one command: a step runs it on the device without it. -/
theorem hyp_StepRunsFront : ({ State.reset with pending := [.getEndpointId] } : State).pending = .getEndpointId :: [] := rfl
theorem test_step : leaves (step { State.reset with pending := [.frHeadWrite 0#64, .wake] }) (fun t => t.pending == [.wake]) = true := by decide +kernel

/-! ## More hypotheses met -/

theorem hyp_more_links : upLink.txNext = none ∧ ({ upLink with txNext := some 3 } : Link).txNext ≠ none ∧ (linked upLink Link.reset).dataPlane = true ∧
    (asleep .retention at5 0).dataPlane = false ∧ ({ upLink with credits := Vector.replicate 8 0#16 } : Link).canSend 0
      ((linked upLink Link.reset).mgmtMsg 0xFFFF#16 mgmtKeyUpdate []) = false ∧ (linked upLink upLink).takesMessages 1 = true ∧
    ((linked upLink upLink).feed (feedOf 0)).st ≠ .draining ∧ (∀ h, HostReply.error 0#8 ≠ .faulty h) := by
  refine ⟨rfl, ?_, rfl, rfl, ?_, ?_, ?_, fun h => ?_⟩
  · decide
  · decide +kernel
  · decide +kernel
  · decide
  · intro e; cases e
/-- Granules written with seed 1 and checked with seed 2; a free spare row and no moved mark; a channel that walks towards no window. -/
theorem hyp_more_runs : let h : Htg := { Htg.reset with running := true, mode := 1#2, pattern := 3#4, seed := 2#64, end_ := 16#32, wrote := [⟨3#4, 1#64, 0, 16⟩] }
    h.wrote = [⟨3#4, 1#64, 0, 16⟩] ∧ (1#64 : Word) ≠ h.seed ∧ 0 ≤ h.begin_.toNat ∧ h.end_.toNat ≤ 16 ∧ State.reset.hbmKeys = [] ∧
    0x100 ∉ State.reset.rep.movedMarks[(0 : CoreId)] ∧ (sending (sent1 .signal)).walksTo 0 5#20 0#6 = false ∧ core1.replayD = [] ∧ core1.parts = [] := by
  decide +kernel
/-- Channel 0 writes through window 0 of the context, which starts at 0x1000_0000_0000 (11). -/
def walking : State :=
  { queued .none (desc (copyWords.set 2 0x100000000000#64) none) with
    ctxs := [{ ctx1 with outs := [⟨0#6, 3#16, 3#6⟩] }], fab := { State.reset.fab with streams := [sent1 .signal] } }
theorem hyp_more_windows : walking.walksTo 0 5#20 0#6 = true ∧ walking.walksTo 1 5#20 0#6 = false := by decide +kernel

def lasers1 (w : LaserSwitch) : Feed := { Feed.reset with st := .switching, dark := false, sws := [w], module := some module1 }
theorem hyp_more_lasers : (lasers1 ⟨7, true, none, []⟩).switchOf 7 = some ⟨7, true, none, []⟩ ∧ (lasers1 ⟨7, true, some 0, [0]⟩).switchOf 7 = some ⟨7, true, some 0, [0]⟩ ∧
    ([0] : List LinkId) ≠ [] ∧ (0 : LinkId) ∈ ([0] : List LinkId) ∧ (lasers1 ⟨7, true, none, []⟩).switchOf 6 = none ∧ (∀ x ∈ (lasers1 ⟨7, true, none, []⟩).sws, x.lane = 7) ∧
    0 + 1000000000 ≤ ({ State.reset with us := 1000000 } : State).xtal ∧ (lasers1 ⟨7, true, none, []⟩).spares.getD 7 false = false ∧
    (lamp .on).swapStrands 0 = true ∧ (lamp .switching).swapBusy 0 = true := by
  refine ⟨rfl, rfl, ?_, ?_, rfl, ?_, ?_, ?_, ?_, ?_⟩ <;> decide +kernel

/-- A RESTORE of the context moves it on another queue; a core whose replay is decided. -/
theorem hyp_more_commands : let s := { withCmd [] core1 (some (flying (cmd 5 0 0 0) false none)) with
      queues := (State.reset.queues.set 0 (onQueue none)).set 1 (onQueue (some (flying (cmd 6 0 9 0) true none))) }
    s.cmdCtx 0 = none ∧ s.moving 0 2#64 = true ∧ (withCmd [] core1 none).moving 0 2#64 = false ∧ (back1 false).decided.isSome = true ∧ (back1 false).held = false ∧
    core1.decided = none ∧ (cmd 3 0 1 0).w1.toNat % 64 = 0 ∧ ({ cmd 3 0 0 0 with w1 := 8#64 } : CmdEntry).w1.toNat % 64 ≠ 0 ∧ cmdReason (cmd 3 0 0 0) = 0 ∧
    ({ withCmd [ctx1] core1 none with ats := false } : State).ats = false ∧ CmdIrq (cmd 3 0 1 1) = true := by decide +kernel

/-- A rise to P6 that is given up at P5, one that a stretch kept back, and voltages that changed within the hour. -/
theorem hyp_more_power : ({ at5 with rising := some (6#3, 3#3) } : Power).rising = some (6#3, 3#3) ∧ (6#3 : BitVec 3) ≠ at5.level ∧
    ({ at5 with stretched := true, deferred := some 6#3, rising := some (6#3, 0#3) } : Power).deferred = some 6#3 ∧ at5.level.toNat < 6 ∧
    (⟨800#10, 40#6, 790#10, false, some 0⟩ : Temper).hour = some 0 ∧ (0 : Nat) < 0 + 3600000000000 ∧ 5 ≤ at5.level.toNat := by decide
/-- Asleep in retention with its start over: LNK_PG high, and no exchange, one in time, or four that fail. -/
def resting (d : List (List (Option Nat))) : State :=
  { asleep .retention at5 0 with boot := { (asleep .retention at5 0).boot with stage := 13#4, inputs := some { inputs2 with d2d := d } } }
theorem hyp_more_wakes : (resting []).pstate = .retention ∧ 13 ≤ (resting []).boot.stage.toNat ∧ (resting []).boot.inputs = some { inputs2 with d2d := [] } ∧
    inputs2.lnkPg = true ∧ (resting []).boot.lnkEn = false ∧ (List.replicate 8 (some 20) : List (Option Nat)).length = 8 ∧
    (∀ a ∈ List.replicate 4 (List.replicate 8 (some 21) : List (Option Nat)), ∃ e ∈ a, ∀ n, e = some n → 20 < n) := by
  refine ⟨rfl, by decide, rfl, rfl, rfl, by decide, fun a ha => ⟨some 21, ?_, fun n hn => ?_⟩⟩
  · rw [List.eq_of_mem_replicate ha]; decide
  · cases hn; decide
theorem test_wakes : leaves (exec .wake (resting [List.replicate 8 (some 20)])) (fun t => t.pstate == .run && t.boot.depth.toList == List.replicate 8 (some 4)) = true ∧
    leaves (exec .wake (resting (List.replicate 4 (List.replicate 8 (some 21))))) (fun t => t.pstate == .heartOnly && t.boot.hold == 8#8) = true := by decide +kernel
theorem hyp_more_quench : (quench1 31250000).power.quenchFrom ≠ .heartOnly ∧ (quench1 31250000).boot.wait ≠ .linkPg ∧ (quench1 31250000).boot.wait ≠ .d2d ∧
    (quench1 31250000).boot.lnkEn = false ∧ (quench1 31250000).boot.inputs = none ∧ ({ at5 with quenchFrom := .heartOnly } : Power).quenchFrom = .heartOnly := by
  decide +kernel
theorem hyp_more_attestation : (secure1.link 0).st = .up ∧ ({ secure1.sec with aliasCert := some ⟨0#768, 0#384, 0#768⟩ } : Security).aliasCert.isSome = true ∧
    ([6] : List Nat).length ≤ 28 ∧ (∀ l, Transport.doe ≠ .fabric l) ∧ (secure1.link 2).st ≠ .up := by
  refine ⟨rfl, rfl, by decide, fun l e => ?_, by decide⟩
  cases e
/-- A start whose fuses failed waits for the heart domain. -/
theorem hyp_more_start : ({ Boot.reset with failed := 2#8, wait := .heartPg } : Boot).failed ≠ 0#8 ∧ Boot.reset.failed = 0#8 ∧ (1#2 : BitVec 2) ≠ Boot.reset.qslot ∧
    7 ≤ ({ Boot.reset with stage := 13#4 } : Boot).stage.toNat ∧ (StartInputs.root inputs1).bootSel = false := by decide
end Sys2Proof.Tests
end

