-- ==== Sys2Proof/Proofs/Registers.lean ====
section
/-! The register file of a core (02:R63, R64, 09:R378): which register names which word, and what a write leaves alone. -/

namespace Sys2Proof.Machine

/-! ## The three kinds of register -/

/-- A register is g0, the stack pointer of the level, or one of g1 to g30. -/
theorem reg_kinds (r : Reg) : r = 0#5 ∨ r = 31#5 ∨ ∃ i, regSlot r = some i := by
  by_cases h : 1 ≤ r.toNat ∧ r.toNat ≤ 30
  · exact .inr (.inr ⟨_, dif_pos h⟩)
  · have : r.toNat = 0 ∨ r.toNat = 31 := by omega
    rcases this with e | e
    · exact .inl (BitVec.eq_of_toNat_eq e)
    · exact .inr (.inl (BitVec.eq_of_toNat_eq e))

/-- Two registers in one slot are one register. -/
theorem regSlot_injective {q r : Reg} {i : Fin 30} (hq : regSlot q = some i) (hr : regSlot r = some i) : q = r := by
  unfold regSlot at hq hr
  split at hq <;> split at hr <;> simp only [Option.some.injEq, reduceCtorEq] at hq hr
  exact BitVec.eq_of_toNat_eq (by have := congrArg Fin.val (hq.trans hr.symm); simp only at this; omega)

/-! ## Reads and writes by kind -/

variable (k : Core) (v : Word)

@[simp] theorem reg_zero : k.reg 0#5 = 0#64 := rfl

@[simp] theorem setReg_zero : k.setReg 0#5 v = k := rfl

theorem reg_stack : k.reg 31#5 = k.sp k.level := rfl

theorem setReg_stack : k.setReg 31#5 v = k.setSp k.level v := rfl

theorem reg_slot {r : Reg} {i : Fin 30} (h : regSlot r = some i) : k.reg r = k.gregs[i] := by
  simp only [Core.reg, h]

theorem setReg_slot {r : Reg} {i : Fin 30} (h : regSlot r = some i) : k.setReg r v = { k with gregs := k.gregs.set i v } := by
  simp only [Core.setReg, h]

/-! ## Stack pointers -/

@[simp] theorem setSp_level (l : Level) : (k.setSp l v).level = k.level := by cases l <;> rfl

@[simp] theorem setSp_gregs (l : Level) : (k.setSp l v).gregs = k.gregs := by cases l <;> rfl

@[simp] theorem sp_setSp_same (l : Level) : (k.setSp l v).sp l = v := by cases l <;> rfl

theorem sp_setSp_ne {l m : Level} (h : m ≠ l) : (k.setSp l v).sp m = k.sp m := by
  cases l <;> cases m <;> simp_all [Core.setSp, Core.sp]

/-! ## What a write changes -/

/-- A write to a register changes no more of a core than g1 to g30 and the stack pointers. -/
theorem setReg_changes (r : Reg) : ∃ g a b c, k.setReg r v = { k with gregs := g, spK := a, spR := b, spF := c } := by
  rcases reg_kinds r with rfl | rfl | ⟨i, h⟩
  · exact ⟨k.gregs, k.spK, k.spR, k.spF, rfl⟩
  · rw [setReg_stack]
    cases k.level with
    | kernel => exact ⟨k.gregs, v, k.spR, k.spF, rfl⟩
    | runtime => exact ⟨k.gregs, k.spK, v, k.spF, rfl⟩
    | firmware => exact ⟨k.gregs, k.spK, k.spR, v, rfl⟩
  · exact ⟨_, k.spK, k.spR, k.spF, setReg_slot k v h⟩

@[simp] theorem setReg_dmem (r : Reg) : (k.setReg r v).dmem = k.dmem := by
  obtain ⟨g, a, b, c, e⟩ := setReg_changes k v r; rw [e]

@[simp] theorem setReg_tlvl (r : Reg) : (k.setReg r v).tlvl = k.tlvl := by
  obtain ⟨g, a, b, c, e⟩ := setReg_changes k v r; rw [e]

/-- A register other than g0 reads as what was written to it last. -/
theorem reg_setReg_same {r : Reg} (h : r ≠ 0#5) : (k.setReg r v).reg r = v := by
  rcases reg_kinds r with rfl | rfl | ⟨i, hi⟩
  · exact absurd rfl h
  · simp [setReg_stack, reg_stack]
  · simp [setReg_slot k v hi, reg_slot _ hi]

/-- A write to a register changes no other register. -/
theorem reg_setReg_ne {q r : Reg} (h : q ≠ r) : (k.setReg r v).reg q = k.reg q := by
  rcases reg_kinds r with rfl | rfl | ⟨i, hi⟩
  · rfl
  · rw [setReg_stack]
    rcases reg_kinds q with rfl | rfl | ⟨j, hj⟩
    · rfl
    · exact absurd rfl h
    · simp [reg_slot _ hj]
  · rw [setReg_slot k v hi]
    rcases reg_kinds q with rfl | rfl | ⟨j, hj⟩
    · rfl
    · rfl
    · have hij : i.val ≠ j.val := fun e => h (regSlot_injective hj (Fin.ext e ▸ hi))
      simp [reg_slot _ hj, hij]

/-- A write to a register leaves the stack pointers of other levels alone (09:R378). -/
theorem sp_setReg_ne (r : Reg) {l : Level} (h : l ≠ k.level) : (k.setReg r v).sp l = k.sp l := by
  rcases reg_kinds r with rfl | rfl | ⟨i, hi⟩
  · rfl
  · exact sp_setSp_ne k v h
  · rw [setReg_slot k v hi]; cases l <;> rfl

/-- Settles O11: by the kind of each of the two registers. -/
theorem registerFile : Obligations.RegisterFile := fun k r _ v =>
  ⟨reg_zero k, setReg_zero k v, reg_stack k, reg_setReg_same k v, reg_setReg_ne k v, fun _ => sp_setReg_ne k v r,
    setReg_pc k r v, setReg_fflags k r v, setReg_dmem k v r, setReg_tlvl k v r⟩

end Sys2Proof.Machine
end

