-- ==== Sys2Proof/Proofs/MultiplyDivide.lean ====
section
/-! MULTIPLY_DIVIDE (02:R91): what each FN computes, and that the instruction writes it to RD. -/

namespace Sys2Proof.Machine

theorem exec_multiplyDivide (c : CoreId) (fn : BitVec 11) (rd ra rb : Reg) (s : State) :
    exec (.multiplyDivide c fn rd ra rb) s =
      .next (s.coreInstr c 4 (fun k => k.writeOr rd (mulDivOp fn (k.reg ra) (k.reg rb)))) := rfl

/-- An instruction of one word whose result is `v` writes it to RD and completes. -/
theorem coreInstr_writes {s : State} {c : CoreId} {rd : Reg} {f : Core → Option Word} {v : Word} (h : s.ready c 4)
    (e : f (s.core c) = some v) :
    s.coreInstr c 4 (fun k => k.writeOr rd (f k)) = s.setCore c (((s.core c).setReg rd v).past 4) :=
  coreInstr_past h (by rw [e]; rfl) (setReg_pc _ _ _) (setReg_found _ _ _)

theorem exec_multiplyDivide_result {s : State} {c : CoreId} {fn : BitVec 11} {rd ra rb : Reg} {v : Word} (h : s.ready c 4)
    (e : mulDivOp fn ((s.core c).reg ra) ((s.core c).reg rb) = some v) :
    exec (.multiplyDivide c fn rd ra rb) s = .next (s.setCore c (((s.core c).setReg rd v).past 4)) := by
  rw [exec_multiplyDivide, coreInstr_writes h e]

/-! ## The values -/

variable (a b : Word)

theorem mulDivOp_mul : mulDivOp 0#11 a b = some (BitVec.ofNat 64 (a.toNat * b.toNat)) := by
  have : a * b = BitVec.ofNat 64 (a.toNat * b.toNat) := BitVec.mul_def
  simp [mulDivOp, this]

theorem mulDivOp_mulh : mulDivOp 1#11 a b = some (BitVec.ofInt 64 (a.toInt * b.toInt / 2 ^ 64)) := rfl

theorem mulDivOp_mulhu : mulDivOp 2#11 a b = some (BitVec.ofNat 64 (a.toNat * b.toNat / 2 ^ 64)) := by
  have : mulHigh a.toNat b.toNat = BitVec.ofNat 64 (a.toNat * b.toNat / 2 ^ 64) := by
    rw [← BitVec.ofInt_natCast]; rfl
  exact congrArg some this

theorem mulDivOp_mulhsu : mulDivOp 3#11 a b = some (BitVec.ofInt 64 (a.toInt * b.toNat / 2 ^ 64)) := rfl

/-- A quotient by zero is all ones, signed or not (02:R91). -/
theorem mulDivOp_div_zero :
    mulDivOp 4#11 a 0#64 = some 0xFFFFFFFFFFFFFFFF#64 ∧ mulDivOp 5#11 a 0#64 = some 0xFFFFFFFFFFFFFFFF#64 := ⟨rfl, rfl⟩

/-- A remainder by zero is the dividend (02:R91). -/
theorem mulDivOp_rem_zero : mulDivOp 6#11 a 0#64 = some a ∧ mulDivOp 7#11 a 0#64 = some a := ⟨rfl, rfl⟩

/-- The quotient that has no representation is the dividend again, with remainder zero (02:R91). -/
theorem mulDivOp_overflow {a b : Word} (ha : a = 0x8000000000000000#64) (hb : b = 0xFFFFFFFFFFFFFFFF#64) :
    mulDivOp 4#11 a b = some 0x8000000000000000#64 ∧ mulDivOp 6#11 a b = some 0#64 := by
  subst ha hb; decide

variable {b} (h : b ≠ 0#64)
include h

theorem mulDivOp_div : mulDivOp 4#11 a b = some (BitVec.ofInt 64 (a.toInt.tdiv b.toInt)) := by
  simp [mulDivOp, h]

theorem mulDivOp_divu : mulDivOp 5#11 a b = some (BitVec.ofNat 64 (a.toNat / b.toNat)) := by
  have : a / b = BitVec.ofNat 64 (a.toNat / b.toNat) := BitVec.udiv_def
  simp [mulDivOp, h, this]

theorem mulDivOp_rem : mulDivOp 6#11 a b = some (BitVec.ofInt 64 (a.toInt - b.toInt * a.toInt.tdiv b.toInt)) := by
  simp [mulDivOp, h, Int.tmod_def]

theorem mulDivOp_remu : mulDivOp 7#11 a b = some (BitVec.ofNat 64 (a.toNat % b.toNat)) := by
  have : a % b = BitVec.ofNat 64 (a.toNat % b.toNat) := BitVec.umod_def
  simp [mulDivOp, h, this]

end Sys2Proof.Machine

namespace Sys2Proof.Machine

/-- Settles O3: each clause is the value of its FN, written to RD. -/
theorem multiplyDivideResults : Obligations.MultiplyDivideResults := by
  intro s c rd ra rb v ready k a b gives
  have wr {fn : BitVec 11} {x : Word} (e : mulDivOp fn a b = some x) (hv : v = x) : gives fn :=
    exec_multiplyDivide_result ready (hv ▸ e)
  refine ⟨wr (mulDivOp_mul a b), wr (mulDivOp_mulh a b), wr (mulDivOp_mulhu a b), wr (mulDivOp_mulhsu a b), ?_, ?_, ?_, ?_⟩
  · intro hb hv
    obtain ⟨div, divu⟩ := mulDivOp_div_zero a
    exact ⟨wr (hb ▸ div) hv, wr (hb ▸ divu) hv⟩
  · intro hb hv
    obtain ⟨rem, remu⟩ := mulDivOp_rem_zero a
    exact ⟨wr (hb ▸ rem) hv, wr (hb ▸ remu) hv⟩
  · intro ha hb
    obtain ⟨div, rem⟩ := mulDivOp_overflow ha hb
    exact ⟨wr div, wr rem⟩
  · intro hb
    exact ⟨wr (mulDivOp_div a hb), wr (mulDivOp_divu a hb), wr (mulDivOp_rem a hb), wr (mulDivOp_remu a hb)⟩

end Sys2Proof.Machine
end

