-- ==== Sys2Proof/Proofs/Control.lean ====
section
/-! BRANCH, JUMP, JAL and JALR (02:R96, R97). -/

namespace Sys2Proof.Machine

/-! ## Instructions that transfer control, and long forms -/

/-- A transfer to a bad target is the fetch fault of a core on which the instruction had no effect (02:R97). -/
theorem coreInstr_goto_bad {s : State} {c : CoreId} {len : Nat} {body : Core → Core × Ending} {k' : Core} {t : Word}
    (h : s.ready c len) (e : body (s.core c) = (k', .goto t)) (o : ¬ targetOk t) : s.coreInstr c len body = s.traps c .fetch t := by
  rw [coreInstr_ready h, e]
  simp [State.endInstr, Core.finish, State.updCore, State.traps, State.ownChange, transfer_bad _ _ _ o]

/-- A long form whose first word is of another KIND is illegal (02:R84, R86). -/
theorem longInstr_bad {s : State} {c : CoreId} {p : Pfx} (body : Core → Core × Ending) (h : s.ready c (pfxLen p))
    (b : pfxBad p = true) : s.longInstr c p body = s.traps c .illegal 0#64 :=
  coreInstr_traps h (by simp [b])

/-- A short form, or a long form of the right KIND, is an instruction like another. -/
theorem longInstr_good {s : State} {c : CoreId} {p : Pfx} (body : Core → Core × Ending) (b : pfxBad p = false) :
    s.longInstr c p body = s.coreInstr c (pfxLen p) body := by
  simp [State.longInstr, b]

/-! ## Offsets and comparisons -/

/-- An offset counts words: it is shifted by two and sign-extended (02:R96). -/
theorem offset_bytes {n : Nat} (off : BitVec n) : 4#64 * off.signExtend 64 = BitVec.ofInt 64 (4 * off.toInt) := by
  rw [BitVec.ofInt_mul]; rfl

/-- The branches and their comparisons (02:R96). -/
def BranchTakes (op : BitVec 6) (a b : Word) : Prop :=
  (op = 0x20#6 ∧ a = b) ∨ (op = 0x21#6 ∧ a ≠ b) ∨ (op = 0x22#6 ∧ a.toInt < b.toInt) ∨
    (op = 0x23#6 ∧ b.toInt ≤ a.toInt) ∨ (op = 0x24#6 ∧ a.toNat < b.toNat) ∨ (op = 0x25#6 ∧ b.toNat ≤ a.toNat)

theorem branchTaken_of_taken {op : BitVec 6} {a b : Word} (h : BranchTakes op a b) : branchTaken op a b = some true := by
  rcases h with ⟨rfl, h⟩ | ⟨rfl, h⟩ | ⟨rfl, h⟩ | ⟨rfl, h⟩ | ⟨rfl, h⟩ | ⟨rfl, h⟩ <;>
    simp [branchTaken, BitVec.slt_eq_decide, BitVec.ult_eq_decide, h]

/-- The opcodes of BRANCH. -/
theorem branch_opcodes {op : BitVec 6} (lo : 0x20#6 ≤ op) (hi : op ≤ 0x25#6) :
    op = 0x20#6 ∨ op = 0x21#6 ∨ op = 0x22#6 ∨ op = 0x23#6 ∨ op = 0x24#6 ∨ op = 0x25#6 := by
  revert op; decide

theorem branchTaken_of_not_taken {op : BitVec 6} {a b : Word} (lo : 0x20#6 ≤ op) (hi : op ≤ 0x25#6) (h : ¬ BranchTakes op a b) :
    branchTaken op a b = some false := by
  rcases branch_opcodes lo hi with rfl | rfl | rfl | rfl | rfl | rfl <;>
    simpa [BranchTakes, branchTaken, BitVec.slt_eq_decide, BitVec.ult_eq_decide] using h

/-- The link of JALR is the instruction after it (02:R96). -/
theorem pfxLen_word (p : Pfx) : BitVec.ofNat 64 (pfxLen p) = if p.isSome then 8#64 else 4#64 := by cases p <;> rfl

/-! ## The instructions -/

theorem exec_branch (c : CoreId) (op : BitVec 6) (ra rb : Reg) (off : BitVec 16) (s : State) :
    exec (.branch c op ra rb off) s = .next (s.coreInstr c 4 (fun k =>
      match branchTaken op (k.reg ra) (k.reg rb) with
      | none => (k, .trap .illegal 0#64)
      | some true => (k, .goto (k.pcWord + 4#64 * off.signExtend 64))
      | some false => (k, .retire 0#10))) := rfl

theorem exec_jump (c : CoreId) (off : BitVec 26) (s : State) : exec (.jump c off) s =
    .next (s.coreInstr c 4 (fun k => (k, .goto (k.pcWord + 4#64 * off.signExtend 64)))) := rfl

theorem exec_jal (c : CoreId) (off : BitVec 26) (s : State) : exec (.jal c off) s =
    .next (s.coreInstr c 4 (fun k => (k.setReg 30#5 (k.pcWord + 4#64), .goto (k.pcWord + 4#64 * off.signExtend 64)))) := rfl

theorem exec_jalr (c : CoreId) (rd ra : Reg) (imm : BitVec 16) (pfx : Pfx) (s : State) : exec (.jalr c rd ra imm pfx) s =
    .next (s.longInstr c pfx (fun k => (k.setReg rd (k.pcWord + BitVec.ofNat 64 (pfxLen pfx)), .goto (k.reg ra + immS pfx imm)))) := rfl

/-- Settles O10: a branch by its comparison, then each transfer by its target. -/
theorem controlTransfers : Obligations.ControlTransfers := by
  intro s c k
  refine ⟨fun op ra rb off ready => ?_, fun off ready => ?_, fun rd ra imm pfx ready => ?_⟩
  · intro t a b taken run
    have target : t = k.pcWord + 4#64 * off.signExtend 64 := by rw [offset_bytes]
    simp only [run, exec_branch, Host.Outcome.next.injEq, target]
    refine ⟨fun y o => ?_, fun y o => ?_, fun lo hi n => ?_⟩
    · exact coreInstr_goto ready (by rw [branchTaken_of_taken y]) o rfl
    · exact coreInstr_goto_bad ready (by rw [branchTaken_of_taken y]) o
    · exact coreInstr_past ready (by rw [branchTaken_of_not_taken lo hi n]) rfl rfl
  · intro t
    have target : t = k.pcWord + 4#64 * off.signExtend 64 := by rw [offset_bytes]
    simp only [exec_jump, exec_jal, Host.Outcome.next.injEq, target]
    exact ⟨fun o => ⟨coreInstr_goto ready rfl o rfl, coreInstr_goto ready rfl o (setReg_found _ _ _)⟩,
      fun o => ⟨coreInstr_goto_bad ready rfl o, coreInstr_goto_bad ready rfl o⟩⟩
  · intro t link
    simp only [exec_jalr, Host.Outcome.next.injEq]
    refine ⟨longInstr_bad _ ready, fun good => ?_⟩
    simp only [longInstr_good _ good, pfxLen_word]
    exact ⟨fun o => coreInstr_goto ready rfl o (setReg_found _ _ _), coreInstr_goto_bad ready rfl⟩

end Sys2Proof.Machine
end

