-- ==== Sys2Proof/Proofs/MemoryBytes.lean ====
section
/-! Memory byte by byte: what a run written at an address reads as, and runs of bytes as numbers (02:R65). -/

namespace Sys2Proof.Machine

/-! ## Reading parts of a memory -/

theorem get_append_of_absent_left {m n : Mem} {a : Nat} (h : ∀ c ∈ m, c.1 ≠ a) : Mem.get (m ++ n) a = n.get a := by
  induction m with
  | nil => rfl
  | cons c m ih =>
    rw [List.forall_mem_cons] at h
    rw [List.cons_append, Mem.get, ih h.2]
    simp [h.1]

theorem get_append_of_absent_right {m n : Mem} {a : Nat} (h : ∀ c ∈ n, c.1 ≠ a) : Mem.get (m ++ n) a = m.get a := by
  induction m with
  | nil => simpa [Mem.get] using get_append_of_absent_left (n := []) h
  | cons c m ih => rw [List.cons_append, Mem.get, Mem.get, ih]

/-- What a part of a memory holds is what the memory holds, at an address that the part keeps. -/
theorem get_filter {p : Host.Cell → Bool} {a : Nat} (h : ∀ v, p (a, v) = true) (m : Mem) : Mem.get (m.filter p) a = m.get a := by
  induction m with
  | nil => rfl
  | cons c m ih =>
    obtain ⟨b, v⟩ := c
    by_cases e : b = a
    · subst e; simp [h, Mem.get]
    · rw [List.filter_cons]
      split <;> simp [Mem.get, e, ih]

theorem get_cells (bs : List Byte) : ∀ a x, a ≤ x → x < a + bs.length → (Mem.cells a bs).get x = bs.getD (x - a) 0#8 := by
  induction bs with
  | nil => intro a x lo hi; exact absurd hi (by simpa using lo)
  | cons b bs ih =>
    intro a x lo hi
    rw [List.length_cons] at hi
    rcases Nat.eq_or_lt_of_le lo with rfl | lo'
    · have absent : (Mem.cells (a + 1) bs).get a = 0#8 := by
        have := get_append_of_absent_left (m := Mem.cells (a + 1) bs) (n := []) (a := a) fun c hc => by
          have := (cells_range bs (a + 1) c hc).1; omega
        simpa [Mem.get] using this
      rw [Mem.cells]
      split <;> simp_all [Mem.get]
    · have tail : (Mem.cells (a + 1) bs).get x = (b :: bs).getD (x - a) 0#8 := by
        rw [ih (a + 1) x lo' (by omega), show x - a = x - (a + 1) + 1 by omega, List.getD_cons_succ]
      rw [Mem.cells]
      split
      · exact tail
      · rw [Mem.get, ← tail]; simp; omega

/-- A run of bytes written at an address reads back there, and leaves every other address. -/
theorem get_put (m : Mem) (a x : Nat) (bs : List Byte) :
    (m.put a bs).get x = if a ≤ x ∧ x < a + bs.length then bs.getD (x - a) 0#8 else m.get x := by
  have inside := cells_range bs a
  unfold Mem.put
  by_cases lo : a ≤ x
  · rw [get_append_of_absent_left fun c hc => by have := (List.mem_filter.1 hc).2; simp only [decide_eq_true_eq] at this; omega]
    by_cases hi : x < a + bs.length
    · rw [get_append_of_absent_right fun c hc => by have := (List.mem_filter.1 hc).2; simp only [decide_eq_true_eq] at this; omega,
        get_cells bs a x lo hi, if_pos ⟨lo, hi⟩]
    · rw [get_append_of_absent_left fun c hc => by have := (inside c hc).2; omega,
        get_filter (fun _ => by simpa using hi), if_neg (by omega)]
  · rw [get_append_of_absent_right fun c hc => ?_, get_filter (fun _ => by simpa using lo), if_neg (by omega)]
    rcases List.mem_append.1 hc with hc | hc
    · have := (inside c hc).1; omega
    · have := (List.mem_filter.1 hc).2; simp only [decide_eq_true_eq] at this; omega

/-! ## Runs of bytes -/

theorem bytesFrom_eq_map (m : Mem) : ∀ n a, m.bytesFrom a n = (List.range n).map fun i => m.get (a + i)
  | 0, _ => rfl
  | n + 1, a => by
    rw [Mem.bytesFrom, bytesFrom_eq_map m n (a + 1), List.range_succ_eq_map, List.map_cons, List.map_map]
    congr 1
    exact List.map_congr_left fun i _ => by simp only [Function.comp_apply]; congr 1; omega

/-- The bytes at an address, one by one. -/
theorem getN_eq_map (m : Mem) (a n : Nat) : m.getN a n = (List.range n).map fun i => m.get (a + i) := by
  rw [Mem.getN, bytesFrom_eq_map]
  exact List.map_congr_left fun i hi => get_filter (fun _ => by have := List.mem_range.1 hi; simp; omega) m

@[simp] theorem length_leBytes : ∀ n v, (leBytes n v).length = n
  | 0, _ => rfl
  | n + 1, v => by rw [leBytes, List.length_cons, length_leBytes n]

theorem leBytes_eq_map : ∀ n v, leBytes n v = (List.range n).map fun i => BitVec.ofNat 8 (v / 256 ^ i)
  | 0, _ => rfl
  | n + 1, v => by
    rw [leBytes, leBytes_eq_map n, List.range_succ_eq_map, List.map_cons, List.map_map]
    congr 1
    · simp
    · exact List.map_congr_left fun i _ => by simp only [Function.comp_apply, Nat.div_div_eq_div_mul, Nat.succ_eq_add_one, Nat.pow_succ']

/-- The number that the low bytes of a number make. -/
theorem leNat_leBytes : ∀ n v, leNat (leBytes n v) = v % 256 ^ n
  | 0, v => by simp [leBytes, leNat, Nat.mod_one]
  | n + 1, v => by rw [leBytes, leNat, leNat_leBytes n, BitVec.toNat_ofNat, Nat.pow_succ' (m := 256), Nat.mod_mul]

theorem leNat_lt : ∀ bs : List Byte, leNat bs < 256 ^ bs.length
  | [] => by simp [leNat]
  | b :: bs => by
    have := leNat_lt bs
    have := b.isLt
    rw [leNat, List.length_cons, Nat.pow_succ']; omega

end Sys2Proof.Machine
end

