-- ==== Sys2Proof/Proofs/ScalarLoad.lean ====
section
/-! SCALAR_LOAD (02:R112 to R116): the core's memories byte by byte, what draining the store buffer writes, and what a load returns. -/

namespace Sys2Proof.Machine

/-! ## Core-local space byte by byte (01:R47 to R50) -/

/-- The byte at a core-local address. -/
def Core.byteAt (k : Core) (x : Nat) : Byte := (k.memAt x).1.get (k.memAt x).2.2

/-- The bytes from `a` on lie in one memory. -/
def inOneMemory (a n : Nat) : Prop :=
  a + n ≤ 0x40000 ∨ (0x100000 ≤ a ∧ a + n ≤ 0x200000) ∨ (0x40000000 ≤ a ∧ a + n ≤ 0x45800000)

/-- No memory of the core holds an uncorrectable word. -/
def Core.unmarked (k : Core) : Prop := k.badDmem = [] ∧ k.badSpad = [] ∧ k.badImem = []

theorem memAt_dmem (k : Core) {x : Nat} (a : ¬ (0x100000 ≤ x ∧ x < 0x200000)) (s : ¬ (0x40000000 ≤ x ∧ x < 0x45800000)) :
    k.memAt x = (k.dmem, k.badDmem, x) := by
  unfold Core.memAt placeOf
  by_cases d : x < 0x3FC00
  · simp [d]
  · by_cases f : x < 0x40000 <;> simp [d, f, a, s]

theorem memAt_alias (k : Core) {x : Nat} (lo : 0x100000 ≤ x) (hi : x < 0x200000) :
    k.memAt x = (k.imem, k.badImem, x - aliasBase) := by
  have d : ¬ x < 0x3FC00 := by omega
  have f : ¬ x < 0x40000 := by omega
  simp [Core.memAt, placeOf, d, f, lo, hi]

theorem memAt_spad (k : Core) {x : Nat} (lo : 0x40000000 ≤ x) (hi : x < 0x45800000) :
    k.memAt x = (k.spad, k.badSpad, x - spadBase) := by
  have d : ¬ x < 0x3FC00 := by omega
  have f : ¬ x < 0x40000 := by omega
  have i : ¬ x < 0x200000 := by omega
  simp [Core.memAt, placeOf, d, f, i, lo, hi]

@[simp] theorem length_load (k : Core) (a n : Nat) : (k.load a n).length = n := by
  simp [Core.load, getN_eq_map]

/-- A load within one memory reads the bytes at its addresses. -/
theorem load_eq_map (k : Core) {a n : Nat} (h : inOneMemory a n) : k.load a n = (List.range n).map fun i => k.byteAt (a + i) := by
  have bytes : k.load a n = (List.range n).map fun i => (k.memAt a).1.get ((k.memAt a).2.2 + i) := getN_eq_map _ _ _
  rw [bytes]
  refine List.map_congr_left fun i hi => ?_
  have hi := List.mem_range.1 hi
  rcases h with h | ⟨lo, hi'⟩ | ⟨lo, hi'⟩
  · simp only [Core.byteAt, memAt_dmem k (show ¬ (0x100000 ≤ a ∧ _) by omega) (by omega),
      memAt_dmem k (show ¬ (0x100000 ≤ a + i ∧ _) by omega) (by omega)]
  · simp only [Core.byteAt, memAt_alias k lo (by omega), memAt_alias k (show 0x100000 ≤ a + i by omega) (by omega),
      Nat.sub_add_comm (show aliasBase ≤ a from lo)]
  · simp only [Core.byteAt, memAt_spad k lo (by omega), memAt_spad k (show 0x40000000 ≤ a + i by omega) (by omega),
      Nat.sub_add_comm (show spadBase ≤ a from lo)]

theorem badWord_unmarked {k : Core} (h : k.unmarked) (a n : Nat) : k.badWord a n = none := by
  obtain ⟨d, s, i⟩ := h
  have none_marked : (k.memAt a).2.1 = [] := by unfold Core.memAt; split <;> assumption
  simp [Core.badWord, none_marked, firstMark]

/-! ## Stores from the buffer (02:R112) -/

/-- The buffered store lies in DMEM below the DFSA or in the scratchpad window. -/
def SbEntry.inData (e : SbEntry) : Prop := 0 < e.size ∧ (e.addr + e.size ≤ 0x3FC00 ∨ 0x40000000 ≤ e.addr ∧ e.addr + e.size ≤ 0x45800000)

/-- The byte at an address once the buffered store has reached a memory that held `b` there. -/
def SbEntry.over (e : SbEntry) (x : Nat) (b : Byte) : Byte :=
  if e.addr ≤ x ∧ x < e.addr + e.size then BitVec.ofNat 8 (e.data.toNat / 256 ^ (x - e.addr)) else b

theorem inData_of_bufferOk {k : Core} (h : k.bufferOk) {e : SbEntry} (m : e ∈ k.sb) : e.inData := by
  obtain ⟨size, aligned, place⟩ := h e m
  simp only [List.mem_cons, List.not_mem_nil, or_false] at size
  unfold SbEntry.inData
  rcases size with size | size | size | size <;> rw [size] at aligned place ⊢ <;> omega

/-- A write to a memory without marks is a plain one. -/
theorem putMarked_unmarked {l : List Nat} (h : l = []) (m : Mem) (a : Nat) (bs : List Byte) : putMarked m l a bs = (m.put a bs, l) := by
  subst h; rfl

theorem over_outside {e : SbEntry} {x : Nat} (h : ¬ (e.addr ≤ x ∧ x < e.addr + e.size)) (b : Byte) : e.over x b = b := if_neg h

theorem over_inside {e : SbEntry} {x : Nat} (h : e.addr ≤ x ∧ x < e.addr + e.size) (b : Byte) :
    e.over x b = BitVec.ofNat 8 (e.data.toNat / 256 ^ (x - e.addr)) := if_pos h

/-- The bytes of a buffered store as written to the memory that begins at `base`. -/
theorem get_put_entry (m : Mem) (e : SbEntry) {x base : Nat} (lo : base ≤ e.addr) (hx : base ≤ x) :
    (m.put (e.addr - base) (leBytes e.size e.data.toNat)).get (x - base) = e.over x (m.get (x - base)) := by
  rw [get_put, length_leBytes]
  by_cases h : e.addr ≤ x ∧ x < e.addr + e.size
  · rw [if_pos (by omega), over_inside h, leBytes_eq_map, show x - base - (e.addr - base) = x - e.addr by omega]
    simp [List.getD_eq_getElem?_getD, List.getElem?_range (show x - e.addr < e.size by omega)]
  · rw [if_neg (by omega), over_outside h]

/-- A buffered store that reaches a core without marks writes its bytes to DMEM or scratchpad and changes nothing else. -/
theorem store_entry {k : Core} (h : k.unmarked) {e : SbEntry} (d : e.inData) :
    ∃ dm sp, k.store e.addr (leBytes e.size e.data.toNat) = { k with dmem := dm, spad := sp } ∧
      ∀ x, ({ k with dmem := dm, spad := sp } : Core).byteAt x = e.over x (k.byteAt x) := by
  obtain ⟨hd, hs, -⟩ := h
  obtain ⟨pos, hi | ⟨lo, hi⟩⟩ := d
  · have place : placeOf e.addr = .dmem := if_pos (by omega)
    refine ⟨k.dmem.put e.addr (leBytes e.size e.data.toNat), k.spad, by simp [Core.store, place, putMarked_unmarked hd], fun x => ?_⟩
    by_cases a : 0x100000 ≤ x ∧ x < 0x200000
    · simp only [Core.byteAt, memAt_alias _ a.1 a.2]; exact (over_outside (by omega) _).symm
    by_cases s : 0x40000000 ≤ x ∧ x < 0x45800000
    · simp only [Core.byteAt, memAt_spad _ s.1 s.2]; exact (over_outside (by omega) _).symm
    simp only [Core.byteAt, memAt_dmem _ a s]
    exact get_put_entry k.dmem e (base := 0) (Nat.zero_le _) (Nat.zero_le _)
  · have place : placeOf e.addr = .spad := by
      simp [placeOf, lo, show ¬ e.addr < 0x3FC00 by omega, show ¬ e.addr < 0x40000 by omega, show ¬ e.addr < 0x200000 by omega]; omega
    refine ⟨k.dmem, k.spad.put (e.addr - spadBase) (leBytes e.size e.data.toNat), by simp [Core.store, place, putMarked_unmarked hs], fun x => ?_⟩
    by_cases a : 0x100000 ≤ x ∧ x < 0x200000
    · simp only [Core.byteAt, memAt_alias _ a.1 a.2]; exact (over_outside (by omega) _).symm
    by_cases s : 0x40000000 ≤ x ∧ x < 0x45800000
    · simp only [Core.byteAt, memAt_spad _ s.1 s.2]
      exact get_put_entry k.spad e lo s.1
    · simp only [Core.byteAt, memAt_dmem _ a s]; exact (over_outside (by omega) _).symm

/-- The bytes after a list of buffered stores, the oldest first, have reached memory. -/
def overAll (l : List SbEntry) (x : Nat) (b : Byte) : Byte := l.foldl (fun b e => e.over x b) b

theorem drainN_unmarked (l : List SbEntry) : ∀ {k : Core}, k.sb = l → k.unmarked → (∀ e ∈ l, e.inData) →
    ∃ dm sp, Core.drainN l.length k = { k with sb := [], dmem := dm, spad := sp } ∧
      ∀ x, (Core.drainN l.length k).byteAt x = overAll l x (k.byteAt x) := by
  induction l with
  | nil => intro k empty _ _; exact ⟨k.dmem, k.spad, by show k = _; rw [← empty], fun _ => rfl⟩
  | cons e rest ih =>
    intro k front clean data
    obtain ⟨dm, sp, stored, bytes⟩ := store_entry (k := { k with sb := rest }) clean (data e List.mem_cons_self)
    have one : k.drainOne = { k with sb := rest, dmem := dm, spad := sp } := by
      have none_bad : ({ k with sb := rest } : Core).badWord e.addr e.size = none := badWord_unmarked clean _ _
      simp only [Core.drainOne, front, none_bad, stored]
    obtain ⟨dm', sp', left, bytes'⟩ := ih (k := k.drainOne) (by rw [one]) (by rw [one]; exact clean)
      fun y hy => data y (List.mem_cons_of_mem e hy)
    refine ⟨dm', sp', left.trans (by rw [one]), fun x => (bytes' x).trans ?_⟩
    rw [one, bytes]; rfl

/-- Draining a core without marks writes the bytes of every buffered store and changes nothing but DMEM, scratchpad and the
buffer (02:R112, R117). -/
theorem drain_unmarked {k : Core} (clean : k.unmarked) (ok : k.bufferOk) :
    ∃ dm sp, k.drain = { k with sb := [], dmem := dm, spad := sp } ∧ ∀ x, k.drain.byteAt x = overAll k.sb x (k.byteAt x) :=
  drainN_unmarked k.sb rfl clean fun _ => inData_of_bufferOk ok

theorem drain_keeps_unmarked {k : Core} (clean : k.unmarked) (ok : k.bufferOk) : k.drain.unmarked := by
  obtain ⟨dm, sp, e, -⟩ := drain_unmarked clean ok
  rw [e]; exact clean

/-! ## The youngest overlapping store (02:R115) -/

/-- A search of the younger stores goes before what the search had found. -/
theorem foldl_overlaps (l : List SbEntry) (a n : Nat) : ∀ r : Option SbEntry,
    l.foldl (fun r e => if e.overlaps a n then some e else r) r = (youngest l a n).or r := by
  induction l with
  | nil => exact fun _ => rfl
  | cons e l ih =>
    intro r
    rw [youngest, List.foldl_cons, List.foldl_cons, ih, ih (if e.overlaps a n then some e else none)]
    cases youngest l a n with
    | none => cases e.overlaps a n <;> rfl
    | some y => rfl

/-- The youngest overlapping store is found among the younger ones first. -/
theorem youngest_cons (e : SbEntry) (l : List SbEntry) (a n : Nat) :
    youngest (e :: l) a n = (youngest l a n).or (if e.overlaps a n then some e else none) :=
  foldl_overlaps l a n _

/-- With no youngest overlapping store, none overlaps. -/
theorem youngest_eq_none {l : List SbEntry} {a n : Nat} (h : youngest l a n = none) : ∀ e ∈ l, e.overlaps a n = false := by
  induction l with
  | nil => exact fun _ m => absurd m List.not_mem_nil
  | cons y l ih =>
    rw [youngest_cons, Option.or_eq_none_iff] at h
    obtain ⟨later, this⟩ := h
    refine List.forall_mem_cons.2 ⟨?_, ih later⟩
    cases o : y.overlaps a n with
    | false => rfl
    | true => rw [if_pos o] at this; cases this

/-- What is younger than the youngest overlapping store does not overlap. -/
theorem youngest_eq_some {l : List SbEntry} {a n : Nat} {e : SbEntry} (h : youngest l a n = some e) :
    ∃ older younger, l = older ++ e :: younger ∧ ∀ y ∈ younger, y.overlaps a n = false := by
  induction l with
  | nil => cases h
  | cons y l ih =>
    rw [youngest_cons] at h
    cases later : youngest l a n with
    | some z =>
      rw [later] at h
      cases h
      obtain ⟨older, younger, split, rest⟩ := ih later
      exact ⟨y :: older, younger, congrArg (y :: ·) split, rest⟩
    | none =>
      rw [later, Option.none_or] at h
      split at h
      · cases h; exact ⟨[], l, rfl, youngest_eq_none later⟩
      · cases h

/-- Stores that do not overlap an access leave its bytes. -/
theorem overAll_of_apart {l : List SbEntry} {a n x : Nat} (apart : ∀ e ∈ l, e.overlaps a n = false) (lo : a ≤ x) (hi : x < a + n)
    (b : Byte) : overAll l x b = b := by
  induction l with
  | nil => rfl
  | cons e l ih =>
    rw [List.forall_mem_cons] at apart
    obtain ⟨front, rest⟩ := apart
    have outside : ¬ (e.addr ≤ x ∧ x < e.addr + e.size) := by
      simp only [SbEntry.overlaps, Bool.and_eq_false_iff, decide_eq_false_iff_not] at front; omega
    rw [overAll, List.foldl_cons, over_outside outside]
    exact ih rest

/-- The bytes of an access whose youngest overlapping store covers it are that store's. -/
theorem overAll_of_covers {older younger : List SbEntry} {e : SbEntry} {a n x : Nat} (c : e.covers a n = true)
    (apart : ∀ y ∈ younger, y.overlaps a n = false) (lo : a ≤ x) (hi : x < a + n) (b : Byte) :
    overAll (older ++ e :: younger) x b = BitVec.ofNat 8 (e.data.toNat / 256 ^ (x - e.addr)) := by
  simp only [SbEntry.covers, Bool.and_eq_true, decide_eq_true_eq] at c
  rw [overAll, List.foldl_append, List.foldl_cons, over_inside (by omega)]
  exact overAll_of_apart apart lo hi _

/-! ## What the drained core holds at an access (02:R114 to R116) -/

/-- Where no buffered store overlaps, memory already holds what the drained core does. -/
theorem load_drain_of_apart {k : Core} {a n : Nat} (clean : k.unmarked) (ok : k.bufferOk) (one : inOneMemory a n)
    (y : youngest k.sb a n = none) : k.drain.load a n = k.load a n := by
  obtain ⟨dm, sp, -, bytes⟩ := drain_unmarked clean ok
  rw [load_eq_map _ one, load_eq_map _ one]
  refine List.map_congr_left fun i hi => ?_
  have hi := List.mem_range.1 hi
  rw [bytes, overAll_of_apart (youngest_eq_none y) (by omega) (by omega)]

/-- Where the youngest overlapping store covers the access, its bytes are what the drained core holds. -/
theorem forward_eq_load_drain {k : Core} {a n : Nat} {e : SbEntry} (clean : k.unmarked) (ok : k.bufferOk) (one : inOneMemory a n)
    (y : youngest k.sb a n = some e) (c : e.covers a n = true) : e.forward a n = leNat (k.drain.load a n) := by
  obtain ⟨older, younger, split, apart⟩ := youngest_eq_some y
  obtain ⟨dm, sp, -, bytes⟩ := drain_unmarked clean ok
  have same : k.drain.load a n = leBytes n (e.data.toNat / 256 ^ (a - e.addr)) := by
    rw [load_eq_map _ one, leBytes_eq_map]
    refine List.map_congr_left fun i hi => ?_
    have hi := List.mem_range.1 hi
    have start : e.addr ≤ a := by
      simp only [SbEntry.covers, Bool.and_eq_true, decide_eq_true_eq] at c; exact c.1
    rw [bytes, split, overAll_of_covers c apart (by omega) (by omega), Nat.div_div_eq_div_mul, ← Nat.pow_add,
      show a + i - e.addr = a - e.addr + i by omega]
  rw [same, leNat_leBytes]; rfl

/-! ## The checks and the extension of a load (02:R74, R75, R95) -/

theorem lt_of_placeOf_dmem {a : Nat} (h : placeOf a = .dmem ∨ placeOf a = .dfsa) : a < 0x40000 := by
  unfold placeOf at h
  (repeat' split at h) <;> simp_all
  omega

theorem range_of_placeOf_alias {a : Nat} (h : placeOf a = .alias_) : 0x100000 ≤ a ∧ a < 0x200000 := by
  unfold placeOf at h
  (repeat' split at h) <;> simp_all

theorem range_of_placeOf_spad {a : Nat} (h : placeOf a = .spad) : 0x40000000 ≤ a ∧ a < 0x45800000 := by
  unfold placeOf at h
  (repeat' split at h) <;> simp_all

/-- An allowed access begins and ends in one memory. -/
theorem places_of_accessCheck {k : Core} {wr : Bool} {a n : Nat} (h : k.accessCheck wr a n = none) :
    (placeOf a = .dmem ∨ placeOf a = .dfsa) ∧ (placeOf (a + n - 1) = .dmem ∨ placeOf (a + n - 1) = .dfsa) ∨
    placeOf a = .alias_ ∧ placeOf (a + n - 1) = .alias_ ∨ placeOf a = .spad ∧ placeOf (a + n - 1) = .spad := by
  unfold Core.accessCheck at h
  split at h <;> simp_all

/-- An access that may be made lies in one memory. -/
theorem inOneMemory_of_scalarMay {k : Core} {wr : Bool} {a n : Nat} (may : scalarMay k wr a n) (size : n ∈ [1, 2, 4, 8]) :
    inOneMemory a n := by
  have pos : 0 < n := by simp at size; omega
  unfold inOneMemory
  obtain ⟨aligned, ⟨place, -, -⟩ | ⟨place, allowed⟩⟩ := may
  · have := range_of_placeOf_alias place
    simp only [List.mem_cons, List.not_mem_nil, or_false] at size
    rcases size with rfl | rfl | rfl | rfl <;> omega
  · rcases places_of_accessCheck allowed with ⟨first, last⟩ | ⟨first, -⟩ | ⟨first, last⟩
    · have := lt_of_placeOf_dmem last; omega
    · exact absurd first place
    · have := range_of_placeOf_spad first
      have := range_of_placeOf_spad last
      omega

theorem scalarCheck_of_scalarMay {k : Core} {wr : Bool} {a n : Nat} (may : scalarMay k wr a n) : k.scalarCheck wr a n = none := by
  obtain ⟨aligned, ⟨place, level, wide⟩ | ⟨place, allowed⟩⟩ := may
  · simp [Core.scalarCheck, place, level, aligned]; omega
  · simp [Core.scalarCheck, place, aligned, allowed]

/-- A code read as two's complement is what its bits are as a signed word. -/
theorem toSigned_eq_toInt {w x : Nat} (pos : 0 < w) (h : x < 2 ^ w) : toSigned w x = (BitVec.ofNat w x).toInt := by
  have sign : bitN x (w - 1) = (BitVec.ofNat w x).msb := by
    rw [BitVec.msb_eq_getLsbD_last, BitVec.getLsbD_ofNat, Nat.testBit_eq_decide_div_mod_eq, bitN, Nat.shiftRight_eq_div_pow,
      decide_eq_true (show w - 1 < w by omega), Bool.true_and]
    rfl
  have modulus : ((2 ^ w : Nat) : Int) = 2 ^ w := Int.natCast_pow 2 w
  rw [BitVec.toInt_eq_msb_cond, toSigned, sign, BitVec.toNat_ofNat, Nat.mod_eq_of_lt h, modulus]

theorem extendLoad_eq {n x : Nat} (sg : Bool) (pos : 0 < n) (h : x < 256 ^ n) :
    extendLoad n sg x = if sg then (BitVec.ofNat (8 * n) x).signExtend 64 else BitVec.ofNat 64 x := by
  have bits : x < 2 ^ (8 * n) := by rw [Nat.pow_mul]; exact h
  rw [extendLoad, toSigned_eq_toInt (by omega) bits]; rfl

/-- The loads, their widths and their extensions (02:R95). -/
theorem loadForm_of_mem {op : BitVec 6} {n : Nat} {sg : Bool} (h : (op, n, sg) ∈ [(0x10#6, 1, true), (0x11#6, 1, false), (0x12#6, 2, true),
    (0x13#6, 2, false), (0x14#6, 4, true), (0x15#6, 4, false), (0x16#6, 8, false)]) : loadForm op = some (n, sg) ∧ n ∈ [1, 2, 4, 8] := by
  simp only [List.mem_cons, Prod.mk.injEq, List.not_mem_nil, or_false] at h
  rcases h with ⟨rfl, rfl, rfl⟩ | ⟨rfl, rfl, rfl⟩ | ⟨rfl, rfl, rfl⟩ | ⟨rfl, rfl, rfl⟩ | ⟨rfl, rfl, rfl⟩ | ⟨rfl, rfl, rfl⟩ | ⟨rfl, rfl, rfl⟩ <;>
    exact ⟨rfl, by decide⟩

/-! ## The instruction -/

theorem exec_scalarLoad (c : CoreId) (op : BitVec 6) (rd ra : Reg) (imm : BitVec 16) (pfx : Pfx) (s : State) :
    exec (.scalarLoad c op rd ra imm pfx) s = .next (s.longInstr c pfx (fun k =>
      match loadForm op with
      | none => (k, .trap .illegal 0#64)
      | some (n, sg) => k.scalarLoad rd (k.reg ra + immS pfx imm) n sg)) := rfl

theorem readLoad_unmarked {k : Core} (clean : k.unmarked) (rd : Reg) (a n : Nat) (sg : Bool) :
    k.readLoad rd a n sg = (k.setReg rd (extendLoad n sg (leNat (k.load a n))), .retire 0#10) := by
  rw [Core.readLoad, badWord_unmarked clean]

/-- A load that may be made returns what the drained core holds, and leaves the core as it was or drained. -/
theorem scalarLoad_reads_drained {k : Core} {addr : Word} {n : Nat} (rd : Reg) (sg : Bool) (may : scalarMay k false addr.toNat n)
    (size : n ∈ [1, 2, 4, 8]) (clean : k.unmarked) (ok : k.bufferOk) : ∃ k', (k' = k ∨ k' = k.drain) ∧
      k.scalarLoad rd addr n sg = (k'.setReg rd (extendLoad n sg (leNat (k.drain.load addr.toNat n))), .retire 0#10) := by
  have one := inOneMemory_of_scalarMay may size
  rw [Core.scalarLoad, scalarCheck_of_scalarMay may]
  cases y : youngest k.sb addr.toNat n with
  | none => exact ⟨k, .inl rfl, by simp only [readLoad_unmarked clean, load_drain_of_apart clean ok one y]⟩
  | some e =>
    by_cases covered : e.covers addr.toNat n = true
    · exact ⟨k, .inl rfl, by simp only [covered, if_true, forward_eq_load_drain clean ok one y covered]⟩
    · exact ⟨k.drain, .inr rfl, by simp only [covered, readLoad_unmarked (drain_keeps_unmarked clean ok)]; rfl⟩

/-- Settles O5: by what the buffer holds of the access, nothing, all of it in one store, or a part. -/
theorem loadSeesEarlierStores : Obligations.LoadSeesEarlierStores := by
  intro s c op rd ra imm pfx n sg form k len a ready good may ok badDmem badSpad badImem x v
  obtain ⟨form, size⟩ := loadForm_of_mem form
  have clean : k.unmarked := ⟨badDmem, badSpad, badImem⟩
  obtain ⟨k', left, result⟩ := scalarLoad_reads_drained rd sg may size clean ok
  have value : extendLoad n sg x = v :=
    extendLoad_eq sg (by simp at size; omega) (by simpa using leNat_lt (k.drain.load a n))
  have frame : k'.pc = k.pc ∧ k'.found = k.found := by
    obtain ⟨dm, sp, drained, -⟩ := drain_unmarked clean ok
    rcases left with rfl | rfl
    · exact ⟨rfl, rfl⟩
    · rw [drained]; exact ⟨rfl, rfl⟩
  refine ⟨k', left, ?_⟩
  rw [exec_scalarLoad, longInstr_good _ good]
  refine congrArg _ (coreInstr_past ready (k' := k'.setReg rd v) ?_ ?_ ?_)
  · simp only [form]; rw [← value]; exact result
  · rw [setReg_pc]; exact frame.1
  · rw [setReg_found]; exact frame.2

end Sys2Proof.Machine
end

