-- ==== Sys2Proof/Proofs/VectorStage.lean ====
section
/-! The vector stage (spec/04): how its instructions end, and the elements of vector and mask operands as functions of their index. -/

namespace Sys2Proof.Machine

/-! ## Ends of a vector instruction -/

/-- No trap follows an instruction that completes on a calm core, whatever flags it raises (09:R399, R404). -/
theorem retire_calm {k : Core} {len : Nat} (fl : Flags) (calm : k.calm) (h : k.pc.toNat + len < 0x100000) :
    k.retire len fl = (k.raise fl k.pc).past len := by
  have pc : (k.raise fl k.pc).pc = k.pc := by unfold Core.raise; dsimp only; split <;> rfl
  have fmode : (k.raise fl k.pc).fmode = k.fmode := by unfold Core.raise; dsimp only; split <;> rfl
  have none_late : (k.fmode.pam && (fl &&& k.fmode.ten) != 0#10) = false := by
    rcases calm with e | e <;> simp [e]
  simp [Core.retire, Core.retireTo, fmode, none_late, Core.advance, Core.past, pc, h]

/-- An instruction that completes with flags on a calm core. -/
theorem coreInstr_calm {s : State} {c : CoreId} {len : Nat} {body : Core → Core × Ending} {k' : Core} {fl : Flags} (h : s.ready c len)
    (calm : (s.core c).calm) (e : body (s.core c) = (k', .retire fl)) (p : k'.pc = (s.core c).pc) (q : k'.fmode = (s.core c).fmode)
    (w : k'.found = (s.core c).found) : s.coreInstr c len body = s.setCore c ((s.core c).landed k' len fl) := by
  have below : k'.pc.toNat + len < 0x100000 := by obtain ⟨-, -, -, below⟩ := h; rwa [p]
  have r : k'.retire len fl = (s.core c).landed k' len fl := by
    rw [retire_calm fl (by unfold Core.calm at calm ⊢; rw [q]; exact calm) below, Core.landed, p]
  rw [coreInstr_ready h, e]
  simp only [State.endInstr, Core.finish, State.updCore, core_setCore, setCore_setCore, r]
  exact noteFound_same (by simp [Core.landed, Core.past, w])

section
variable {s : State} {c : CoreId} {g : Core → Option Nat → Core × Ending} {k' : Core} (ready : s.vready c)
include ready

/-- With the vector stage free and no flags left by earlier strips an instruction runs as by itself (02:R128, 09:R404). -/
theorem vecInstr_body : (s.core c).continued (stageFree (fun k => g k none) (s.core c)) = g (s.core c) none := by
  obtain ⟨-, free, fresh⟩ := ready
  rw [continued_plain fresh, stageFree, free]; rfl

theorem vecInstr_lands {fl : Flags} (calm : (s.core c).calm) (e : g (s.core c) none = (k', .retire fl)) (p : k'.pc = (s.core c).pc)
    (q : k'.fmode = (s.core c).fmode) (w : k'.found = (s.core c).found) :
    s.vecInstr c g = s.setCore c ((s.core c).landed k' 4 fl) :=
  coreInstr_calm ready.1 calm ((vecInstr_body ready).trans e) p q w

theorem vecInstr_past (e : g (s.core c) none = (k', .retire 0#10)) (p : k'.pc = (s.core c).pc) (w : k'.found = (s.core c).found) :
    s.vecInstr c g = s.setCore c (k'.past 4) :=
  coreInstr_past ready.1 ((vecInstr_body ready).trans e) p w

theorem vecInstr_illegal (e : g (s.core c) none = illegal (s.core c)) : s.vecInstr c g = s.traps c .illegal 0#64 :=
  coreInstr_traps ready.1 ((vecInstr_body ready).trans e)

end

/-! ## Elements in turn -/

theorem mapElems_range' (act : Nat → Bool) (g : Nat → Nat → Nat → Nat → Nat × Flags) (d a b : Nat → Nat) : ∀ n i,
    (mapElems act g i ((List.range' i n).map d) ((List.range' i n).map a) ((List.range' i n).map b)).1 =
      (List.range' i n).map fun j => if act j then (g j (d j) (a j) (b j)).1 else d j
  | 0, _ => rfl
  | n + 1, i => by
    simp only [List.range'_succ, List.map_cons, mapElems, mapElems_range' act g d a b n (i + 1)]
    split <;> rfl

theorem flags_mapElems_range' (act : Nat → Bool) (g : Nat → Nat → Nat → Nat → Nat × Flags) (d a b : Nat → Nat) (t : Nat) : ∀ n i,
    (mapElems act g i ((List.range' i n).map d) ((List.range' i n).map a) ((List.range' i n).map b)).2.getLsbD t = true ↔
      ∃ j ∈ List.range' i n, act j = true ∧ (g j (d j) (a j) (b j)).2.getLsbD t = true
  | 0, _ => by simp [mapElems]
  | n + 1, i => by
    simp only [List.range'_succ, List.map_cons, mapElems, BitVec.getLsbD_or, Bool.or_eq_true, flags_mapElems_range' act g d a b t n (i + 1),
      List.mem_cons, exists_eq_or_imp]
    split <;> simp_all

section
variable (act : Nat → Bool) (g : Nat → Nat → Nat → Nat → Nat × Flags) (d a b : Nat → Nat) (n : Nat)

/-- An active element becomes its result, an inactive one stays (04:R173). -/
theorem mapElems_range : (mapElems act g 0 ((List.range n).map d) ((List.range n).map a) ((List.range n).map b)).1 =
    (List.range n).map fun j => if act j then (g j (d j) (a j) (b j)).1 else d j := by
  rw [List.range_eq_range', mapElems_range']

/-- The flags raised are those of the active elements. -/
theorem flags_mapElems_range (t : Nat) :
    (mapElems act g 0 ((List.range n).map d) ((List.range n).map a) ((List.range n).map b)).2.getLsbD t = true ↔
      ∃ j < n, act j = true ∧ (g j (d j) (a j) (b j)).2.getLsbD t = true := by
  rw [List.range_eq_range', flags_mapElems_range']; simp

end

@[simp] theorem vend_none (k : Core) : k.vend none = k.vl.toNat := rfl

/-- The active elements of the whole instruction (04:R173, R203). -/
theorem isActive_iff (k : Core) (f : VFields) (i : Nat) : k.isActive f (k.vend none) i = true ↔ k.activeAt f i := by
  rw [vend_none]
  cases h : f.m <;> simp [Core.isActive, Core.activeAt, h, and_assoc]

/-! ## Elements of a vector operand (04:R165) -/

theorem unpackBytes_eq_map (b : Nat) : ∀ n bs, unpackBytes b n bs = (List.range n).map fun i => leNat ((bs.drop (i * b)).take b)
  | 0, _ => rfl
  | n + 1, bs => by
    rw [unpackBytes, unpackBytes_eq_map b n, List.range_succ_eq_map, List.map_cons, List.map_map]
    congr 1
    · simp
    · exact List.map_congr_left fun i _ => by simp only [Function.comp_apply, List.drop_drop, Nat.succ_mul, Nat.add_comm b]

/-- A part of a run of bytes is the run at that place. -/
theorem take_drop_getN (m : Mem) {a n o l : Nat} (h : o + l ≤ n) : ((m.getN a n).drop o).take l = m.getN (a + o) l := by
  simp only [getN_eq_map]
  apply List.ext_getElem
  · simp; omega
  · intro i _ _; simp [Nat.add_assoc]

theorem velem_lt (k : Core) (r : Reg) (w i : Nat) : k.velem r w i < 2 ^ w := Nat.mod_lt _ (Nat.two_pow_pos w)

/-- An element of whole bytes is the number that its bytes hold. -/
theorem velem_bytes (k : Core) (r : Reg) (b i : Nat) : k.velem r (8 * b) i = k.vregs.getLe (r.toNat * 8192 + i * b) b := by
  have at_ : i * (8 * b) = 8 * (i * b) := Nat.mul_left_comm i 8 b
  have lt : k.vregs.getLe (r.toNat * 8192 + i * b) b < 2 ^ (8 * b) := by
    have := leNat_lt (k.vregs.getN (r.toNat * 8192 + i * b) b)
    rwa [getN_eq_map, List.length_map, List.length_range, show 256 = 2 ^ 8 from rfl, ← Nat.pow_mul, ← getN_eq_map] at this
  rw [Core.velem, at_, Nat.mul_div_cancel_left _ (by omega), Nat.mul_mod_right, show (0 + 8 * b + 7) / 8 = b by omega, Nat.pow_zero,
    Nat.div_one, Nat.mod_eq_of_lt lt]

/-- The elements of an operand of whole bytes, one by one. -/
theorem vget_eq_map_velem (k : Core) (r : Reg) {w : Nat} (whole : w % 8 = 0) (n : Nat) : k.vget r w n = (List.range n).map (k.velem r w) := by
  obtain ⟨b, rfl⟩ := Nat.dvd_of_mod_eq_zero whole
  have size : (n * (8 * b) + 7) / 8 = n * b := by rw [Nat.mul_left_comm]; omega
  rw [Core.vget, unpack, size, whole, Nat.mul_div_cancel_left b (by omega)]
  simp only [beq_self_eq_true, if_true, unpackBytes_eq_map]
  refine List.map_congr_left fun i hi => ?_
  have inside : i * b + b ≤ n * b := by
    rw [← Nat.succ_mul]; exact Nat.mul_le_mul_right b (List.mem_range.1 hi)
  rw [take_drop_getN _ inside, velem_bytes]; rfl

/-! ## Masks bit by bit -/

theorem unpackBits_eq_map (w : Nat) : ∀ n v, unpackBits w n v = (List.range n).map fun i => v / 2 ^ (w * i) % 2 ^ w
  | 0, _ => rfl
  | n + 1, v => by
    rw [unpackBits, unpackBits_eq_map w n, List.range_succ_eq_map, List.map_cons, List.map_map]
    congr 1
    · simp
    · exact List.map_congr_left fun i _ => by
        simp only [Function.comp_apply, Nat.div_div_eq_div_mul, ← Nat.pow_add, Nat.succ_eq_add_one, Nat.mul_add, Nat.mul_one, Nat.add_comm w]

/-- Bit `i` of a number, as a number. -/
theorem div_two_pow_mod_two (x i : Nat) : x / 2 ^ i % 2 = b2n (x.testBit i) := by
  rw [Nat.testBit_eq_decide_div_mod_eq, b2n]
  rcases Nat.mod_two_eq_zero_or_one (x / 2 ^ i) with e | e <;> simp [e]

theorem maskBits_eq_map (m : BitVec 65536) (n : Nat) : maskBits m n = (List.range n).map fun i => b2n (m.getLsbD i) := by
  rw [maskBits, unpackBits_eq_map]
  exact List.map_congr_left fun i _ => by rw [Nat.one_mul, Nat.pow_one, div_two_pow_mod_two]; rfl

theorem bitsNat_lt : ∀ bs, bitsNat bs < 2 ^ bs.length
  | [] => by simp [bitsNat]
  | b :: bs => by
    have := bitsNat_lt bs
    rw [bitsNat, List.length_cons, Nat.pow_succ]; omega

theorem testBit_bitsNat : ∀ bs i, (bitsNat bs).testBit i = decide (bs.getD i 0 % 2 = 1)
  | [], i => by simp [bitsNat]
  | b :: bs, 0 => by rw [bitsNat, Nat.testBit_zero, List.getD_cons_zero]; simp
  | b :: bs, i + 1 => by
    rw [bitsNat, Nat.testBit_add_one, show (b % 2 + 2 * bitsNat bs) / 2 = bitsNat bs by omega, testBit_bitsNat bs i, List.getD_cons_succ]

/-- The bits that are replaced are the new ones, the others stay. -/
theorem getLsbD_maskWith (m : BitVec 65536) (h : Nat → Nat) {n : Nat} (le : n ≤ 65536) (i : Nat) :
    (maskWith m ((List.range n).map h)).getLsbD i = if i < n then decide (h i % 2 = 1) else m.getLsbD i := by
  have lt := bitsNat_lt ((List.range n).map h)
  rw [List.length_map, List.length_range] at lt
  rw [maskWith, List.length_map, List.length_range, BitVec.getLsbD_ofNat, Nat.mul_comm, Nat.testBit_two_pow_mul_add _ lt, testBit_bitsNat]
  by_cases below : i < n
  · have : i < 65536 := by omega
    simp [below, this]
  · have same : (m.toNat / 2 ^ n).testBit (i - n) = m.getLsbD i := by
      rw [Nat.testBit_div_two_pow, Nat.sub_add_cancel (by omega)]; rfl
    simp only [below, if_false, same]
    by_cases inside : i < 65536
    · simp [inside]
    · simp [inside, BitVec.getLsbD_of_ge m i (by omega)]

end Sys2Proof.Machine
end

