-- ==== Sys2Proof/Proofs/ComparesAndMasks.lean ====
section
/-! VECTOR_FP_COMPARE, VECTOR_INTEGER_COMPARE and the mask operations (04:R180, R181, R202): the bits of a mask that they write, and
what MPOPC and MFIRST find. -/

namespace Sys2Proof.Machine

/-! ## Bits written element by element -/

/-- The result's lowest bit at an active element, the old bit elsewhere. -/
theorem getLsbD_maskWith_mapElems (act : Nat → Bool) (g : Nat → Nat → Nat → Nat → Nat × Flags) (a b : Nat → Nat)
    (m : BitVec 65536) {n : Nat} (le : n ≤ 65536) (i : Nat) :
    (maskWith m (mapElems act g 0 (maskBits m n) ((List.range n).map a) ((List.range n).map b)).1).getLsbD i =
      if i < n ∧ act i = true then decide ((g i (b2n (m.getLsbD i)) (a i) (b i)).1 % 2 = 1) else m.getLsbD i := by
  rw [maskBits_eq_map, mapElems_range, getLsbD_maskWith m _ le]
  by_cases below : i < n
  · cases act i
    · cases m.getLsbD i <;> simp [below, b2n]
    · simp [below]
  · simp [below]

/-! ## Comparisons of values (04:R180, R181) -/

theorem isSig_of_isNan_false {x : Num} (h : x.isNan = false) : x.isSig = false := by
  cases x with
  | nan _ => simp [Num.isNan] at h
  | _ => rfl

/-- A comparison holds only between operands that are no NaN. -/
theorem compareOp_value (quiet : Bool) (p : Ordering → Bool) (x y : Num) :
    (Num.compareOp quiet p x y).1 = true ↔ x.isNan = false ∧ y.isNan = false ∧ p (Num.cmp x y) = true := by
  cases hx : x.isNan <;> cases hy : y.isNan <;> simp [Num.compareOp, hx, hy]

/-- A quiet comparison sets NV for a signalling NaN only. -/
theorem compareOp_quiet_flags (p : Ordering → Bool) (x y : Num) :
    (Num.compareOp true p x y).2 = flagIf (x.isSig || y.isSig) fNV := by
  cases h : x.isNan || y.isNan with
  | true => simp [Num.compareOp, h, sigNv]
  | false =>
    obtain ⟨hx, hy⟩ := Bool.or_eq_false_iff.1 h
    simp [Num.compareOp, h, isSig_of_isNan_false hx, isSig_of_isNan_false hy, flagIf]

/-- The others set NV for any NaN. -/
theorem compareOp_flags (p : Ordering → Bool) (x y : Num) : (Num.compareOp false p x y).2 = flagIf (x.isNan || y.isNan) fNV := by
  cases h : x.isNan || y.isNan <;> simp [Num.compareOp, h, flagIf]

/-- A code is negative when its top bit is set. -/
theorem toSigned_eq_ite {w x : Nat} (pos : 0 < w) (h : x < 2 ^ w) :
    toSigned w x = if 2 ^ (w - 1) ≤ x then (x : Int) - 2 ^ w else x := by
  have half : 2 ^ w = 2 * 2 ^ (w - 1) := by rw [← Nat.pow_succ']; congr 1; omega
  have sign : bitN x (w - 1) = decide (2 ^ (w - 1) ≤ x) := by
    by_cases top : 2 ^ (w - 1) ≤ x
    · have : x / 2 ^ (w - 1) = 1 := Nat.div_eq_of_lt_le (by omega) (by omega)
      simp [bitN, Nat.shiftRight_eq_div_pow, this, top]
    · have : x / 2 ^ (w - 1) = 0 := Nat.div_eq_of_lt (by omega)
      simp [bitN, Nat.shiftRight_eq_div_pow, this, top]
  rw [toSigned, sign]; simp

/-! ## The compares -/

/-- The mask `v` and the flags `fl` are those of a compare that finds `p` and is invalid where `nv` says: bits at inactive elements
stay, and NV is raised when an active element is invalid (04:R173, R180). -/
def Core.compared (k : Core) (f : VFields) (w : Nat) (p : Nat → Nat → Prop) (nv : Nat → Nat → Bool) (v : BitVec 65536) (fl : Flags) : Prop :=
  (∀ i, (k.activeAt f i → (v.getLsbD i = true ↔ p (k.velem f.va w i) (k.velem f.vb w i))) ∧
    (¬ k.activeAt f i → v.getLsbD i = (k.mask (f.vd.setWidth 3)).getLsbD i)) ∧
  ((fl = fNV ∧ ∃ i, k.activeAt f i ∧ nv (k.velem f.va w i) (k.velem f.vb w i) = true) ∨
    (fl = 0#10 ∧ ∀ i, k.activeAt f i → nv (k.velem f.va w i) (k.velem f.vb w i) = false))

/-- The flags of a row whose elements raise NV or nothing. -/
theorem flags_eq_of_flagIf {fl : Flags} {bad : Nat → Prop} {x : Flags} (h : ∀ t, fl.getLsbD t = true ↔ ∃ i, bad i ∧ x.getLsbD t = true) :
    (fl = x ∧ ∃ i, bad i) ∨ (fl = 0#10 ∧ ∀ i, ¬ bad i) := by
  by_cases any : ∃ i, bad i
  · obtain ⟨i, hi⟩ := any
    exact .inl ⟨BitVec.eq_of_getLsbD_eq fun t _ => Bool.eq_iff_iff.2 ((h t).trans ⟨fun ⟨_, _, y⟩ => y, fun y => ⟨i, hi, y⟩⟩), i, hi⟩
  · refine .inr ⟨BitVec.eq_of_getLsbD_eq fun t _ => ?_, fun i hi => any ⟨i, hi⟩⟩
    have : fl.getLsbD t ≠ true := fun y => any (((h t).1 y).imp fun _ hi => hi.1)
    simpa using this

theorem vl_le_of_cmpOk {k : Core} {f : VFields} {w : Nat} (ok : k.cmpOk f w = true) : k.vl.toNat ≤ 65536 := by
  simp only [Core.cmpOk, Core.maskLenOk, Bool.and_eq_true, Bool.not_true, Bool.false_or, decide_eq_true_eq] at ok
  obtain ⟨⟨⟨⟨-, le⟩, -⟩, -⟩, -⟩ := ok
  exact le

section
variable {k : Core} {f : VFields} {w : Nat} {g : Nat → Nat → Bool × Flags} {p : Nat → Nat → Prop} {nv : Nat → Nat → Bool}
  (whole : w % 8 = 0) (le : k.vl.toNat ≤ 65536) (value : ∀ a b, a < 2 ^ w → b < 2 ^ w → ((g a b).1 = true ↔ p a b))
  (flags : ∀ a b, (g a b).2 = flagIf (nv a b) fNV)
include whole le value flags

theorem vcompare_compared : ∃ v fl, k.vcompare f w none g = (({ k with vcur := 0#18 } : Core).setMask (f.vd.setWidth 3) v, .retire fl) ∧
    k.compared f w p nv v fl := by
  refine ⟨_, _, rfl, fun i => ?_, ?_⟩
  · have result (a b : Nat) : decide ((b2flags (g a b)).1 % 2 = 1) = (g a b).1 := by
      cases h : (g a b).1 <;> simp [b2flags, b2n, h]
    rw [vget_eq_map_velem k _ whole, vget_eq_map_velem k _ whole, getLsbD_maskWith_mapElems _ _ _ _ _ le, result]
    refine ⟨fun active => ?_, fun idle => ?_⟩
    · rw [if_pos ⟨active.2.1, (isActive_iff k f i).2 active⟩]
      exact value _ _ (velem_lt _ _ _ _) (velem_lt _ _ _ _)
    · rw [if_neg fun h => idle ((isActive_iff k f i).1 h.2)]; rfl
  · rw [maskBits_eq_map, vget_eq_map_velem k _ whole, vget_eq_map_velem k _ whole]
    have raised := flags_eq_of_flagIf (x := fNV)
      (bad := fun i => k.activeAt f i ∧ nv (k.velem f.va w i) (k.velem f.vb w i) = true) fun t =>
        (flags_mapElems_range (k.isActive f (k.vend none)) (fun _ _ a b => b2flags (g a b)) (fun i => b2n ((k.mask (maskOf f.vd)).getLsbD i))
          (k.velem f.va w) (k.velem f.vb w) k.vl.toNat t).trans (exists_congr fun i => ?_)
    · simpa only [not_and, Bool.not_eq_true] using raised
    · simp only [isActive_iff, b2flags, flags, flagIf]
      cases nv (k.velem f.va w i) (k.velem f.vb w i) <;> simp +contextual [Core.activeAt]

end

/-! ## The formats of the compares -/

theorem ewBits_mem (k : Core) : k.ewBits ∈ [8, 16, 32, 64, 4] := by
  unfold Core.ewBits; split <;> simp

theorem ewBits_whole {k : Core} (h : k.ewBits ≠ 4) : k.ewBits % 8 = 0 ∧ 0 < k.ewBits := by
  have mem := ewBits_mem k
  simp only [List.mem_cons, List.not_mem_nil, or_false] at mem
  omega

/-- The format of EW 32 and of EW 64. -/
theorem ewFmt_eq {k : Core} (h : k.ewBits = 32 ∨ k.ewBits = 64) :
    k.ewFmt = some (if k.ewBits = 32 then fp32 else fp64) ∧ (if k.ewBits = 32 then fp32 else fp64).width = k.ewBits := by
  rcases h with e | e <;> simp [Core.ewFmt, e] <;> rfl

section
variable {k : Core} {f : VFields} (fn : 0x10 ≤ f.fn.toNat ∧ f.fn.toNat ≤ 0x12) (ok : k.cmpOk f k.ewBits = true)
include fn ok

theorem vFpCompare_eq {fm : FFmt} (fmt : k.ewFmt = some fm) (width : fm.width = k.ewBits) :
    k.vFpCompare f none = k.vcompare f k.ewBits none fun a b => fm.compareCode (f.fn.toNat - 0x10) a b := by
  simp [Core.vFpCompare, fmt, width, ok, fn]

theorem vIntCompare_eq (h : k.ewBits ≠ 4) : ∃ g, k.vIntCompare f none = k.vcompare f k.ewBits none g ∧ (∀ a b, (g a b).2 = 0#10) ∧
    (f.fn = 0x10#7 → ∀ a b, (g a b).1 = (a == b)) ∧
    (f.fn = 0x11#7 → ∀ a b, (g a b).1 = decide (toSigned k.ewBits a < toSigned k.ewBits b)) ∧
    (f.fn = 0x12#7 → ∀ a b, (g a b).1 = decide (a < b)) := by
  refine ⟨_, by simp [Core.vIntCompare, Core.intEw, h, ok, fn]; rfl, fun _ _ => rfl, fun e a b => ?_, fun e a b => ?_, fun e a b => ?_⟩ <;>
    simp [e]

end

theorem exec_vectorFpCompare (c : CoreId) (f : VFields) (s : State) :
    exec (.vectorFpCompare c f) s = .next (s.vecInstr c (fun k => k.vFpCompare f)) := rfl

theorem exec_vectorIntegerCompare (c : CoreId) (f : VFields) (s : State) :
    exec (.vectorIntegerCompare c f) s = .next (s.vecInstr c (fun k => k.vIntCompare f)) := rfl

/-- The answer `run` is a core past a compare that finds `p` and is invalid where `nv` says, with the flags raised and VCUR 0. -/
def State.compares (s : State) (c : CoreId) (f : VFields) (run : Res) (p : Nat → Nat → Prop) (nv : Nat → Nat → Bool) : Prop :=
  ∃ v fl, run = .next (s.setCore c ((s.core c).landed (({ s.core c with vcur := 0#18 } : Core).setMask (f.vd.setWidth 3) v) 4 fl)) ∧
    (s.core c).compared f (s.core c).ewBits p nv v fl

section
variable {s : State} {c : CoreId} {f : VFields} {p : Nat → Nat → Prop} {nv : Nat → Nat → Bool} (ready : s.vready c)
  (calm : (s.core c).calm) (ok : (s.core c).cmpOk f (s.core c).ewBits = true)
include ready calm ok

/-- An instruction whose effect is a compare. -/
theorem vecInstr_compares (h : Core → Option Nat → Core × Ending) {g : Nat → Nat → Bool × Flags}
    (e : h (s.core c) none = (s.core c).vcompare f (s.core c).ewBits none g) (whole : (s.core c).ewBits % 8 = 0)
    (value : ∀ a b, a < 2 ^ (s.core c).ewBits → b < 2 ^ (s.core c).ewBits → ((g a b).1 = true ↔ p a b))
    (flags : ∀ a b, (g a b).2 = flagIf (nv a b) fNV) : s.compares c f (.next (s.vecInstr c h)) p nv := by
  obtain ⟨v, fl, result, is⟩ := vcompare_compared whole (vl_le_of_cmpOk ok) value flags
  exact ⟨v, fl, congrArg _ (vecInstr_lands ready calm (e.trans result) rfl rfl rfl), is⟩

/-- A floating-point compare finds what its comparison of the two values finds. -/
theorem vectorFpCompare_compares {fm : FFmt} (P : Ordering → Prop) {q : Ordering → Bool} {which : Nat} {quiet : Bool}
    (fmt : (s.core c).ewFmt = some fm) (width : fm.width = (s.core c).ewBits) (whole : (s.core c).ewBits % 8 = 0)
    (fn : f.fn.toNat = 0x10 + which) (few : which ≤ 2)
    (op : ∀ a b, fm.compareCode which a b = Num.compareOp quiet q (fm.decode a) (fm.decode b)) (holds : ∀ o, q o = true ↔ P o)
    (flags : ∀ a b, (Num.compareOp quiet q (fm.decode a) (fm.decode b)).2 = flagIf (nv a b) fNV) :
    s.compares c f (exec (.vectorFpCompare c f) s)
      (fun a b => (fm.decode a).isNan = false ∧ (fm.decode b).isNan = false ∧ P (Num.cmp (fm.decode a) (fm.decode b))) nv := by
  have at_ : f.fn.toNat - 0x10 = which := by omega
  refine vecInstr_compares ready calm ok _ (vFpCompare_eq (by omega) ok fmt width) whole (fun a b _ _ => ?_) fun a b => ?_
  · rw [at_, op, compareOp_value, holds]
  · rw [at_, op, flags]

end

/-! ## Mask operations (04:R202) -/

/-- Bits VCUR to VL − 1 of the mask are written from two rows of numbers. -/
theorem vecInstr_maskWrites {s : State} {c : CoreId} {f : VFields} {h : Core → Option Nat → Core × Ending} {a b : Nat → Nat}
    {g : Nat → Nat → Nat} {r : Nat → Bool} (ready : s.vready c) (le : (s.core c).vl.toNat ≤ 65536)
    (e : h (s.core c) none = (s.core c).maskWrite f none ((List.range (s.core c).vl.toNat).map a) ((List.range (s.core c).vl.toNat).map b) g)
    (bit : ∀ j, decide (g (a j) (b j) % 2 = 1) = r j) :
    ∃ v, (.next (s.vecInstr c h) : Res) =
        .next (s.setCore c ((({ s.core c with vcur := 0#18 } : Core).setMask (f.vd.setWidth 3) v).past 4)) ∧
      ∀ j, v.getLsbD j = if (s.core c).vcur.toNat ≤ j ∧ j < (s.core c).vl.toNat then r j
        else ((s.core c).mask (f.vd.setWidth 3)).getLsbD j := by
  refine ⟨_, congrArg _ (vecInstr_past ready (e.trans rfl) rfl rfl), fun j => ?_⟩
  rw [getLsbD_maskWith_mapElems _ _ _ _ _ le, bit]
  by_cases from_ : (s.core c).vcur.toNat ≤ j <;> by_cases below : j < (s.core c).vl.toNat <;> simp [from_, below, maskOf]

theorem maskLogic_eq {k : Core} {f : VFields} (ok : k.maskOpOk f = true) (fn : f.fn.toNat ≤ 3) (vd : f.vd.toNat < 8) (va : f.va.toNat < 8)
    (vb : f.vb.toNat < 8) : k.maskLogic f none = k.maskWrite f none
      ((List.range k.vl.toNat).map fun i => b2n ((k.mask (f.va.setWidth 3)).getLsbD i))
      ((List.range k.vl.toNat).map fun i => b2n ((k.mask (f.vb.setWidth 3)).getLsbD i)) (maskBit f.fn.toNat) := by
  simp [Core.maskLogic, ok, fn, isMaskReg, vd, va, vb, maskBits_eq_map, maskOf]

/-- MSET writes ones, MCLR zeros. -/
theorem maskFill_eq {k : Core} {f : VFields} (ok : k.maskOpOk f = true) (fn : f.fn.toNat = 4 ∨ f.fn.toNat = 5) (vd : f.vd.toNat < 8)
    (va : f.va = 0#5) (vb : f.vb = 0#5) : k.maskFill f none = k.maskWrite f none ((List.range k.vl.toNat).map fun _ => 0)
      ((List.range k.vl.toNat).map fun _ => 0) fun _ _ => 5 - f.fn.toNat := by
  simp [Core.maskFill, ok, fn, isMaskReg, vd, va, vb, List.map_const', List.length_range]

section
variable (a b : Bool)

theorem maskBit_and : decide (maskBit 0 (b2n a) (b2n b) % 2 = 1) = (a && b) := by cases a <;> cases b <;> rfl

theorem maskBit_or : decide (maskBit 1 (b2n a) (b2n b) % 2 = 1) = (a || b) := by cases a <;> cases b <;> rfl

theorem maskBit_xor : decide (maskBit 2 (b2n a) (b2n b) % 2 = 1) = (a ^^ b) := by cases a <;> cases b <;> rfl

theorem maskBit_andn : decide (maskBit 3 (b2n a) (b2n b) % 2 = 1) = (a && !b) := by cases a <;> cases b <;> rfl

end

/-! ## Scans of a mask (04:R202) -/

theorem popN_eq_countP : ∀ n x, popN n x = (List.range n).countP x.testBit
  | 0, _ => rfl
  | n + 1, x => by
    rw [popN, popN_eq_countP n, List.range_succ_eq_map, List.countP_cons, List.countP_map, Nat.add_comm]
    congr 1
    · exact List.countP_congr fun i _ => by rw [Function.comp_apply, Nat.testBit_add_one]
    · have := div_two_pow_mod_two x 0
      rwa [Nat.pow_zero, Nat.div_one, b2n] at this

theorem maskCount_eq_countP (m : BitVec 65536) (n : Nat) : maskCount m n = (List.range n).countP fun i => m.getLsbD i := by
  rw [maskCount, popN_eq_countP]
  exact List.countP_congr fun i hi => by simp [Nat.testBit_mod_two_pow, List.mem_range.1 hi, BitVec.getLsbD]

theorem firstSet_eq_find? (p : Nat → Bool) : ∀ n i, firstSet i ((List.range' i n).map fun j => b2n (p j)) = (List.range' i n).find? p
  | 0, _ => rfl
  | n + 1, i => by
    rw [List.range'_succ, List.map_cons, firstSet, firstSet_eq_find? p n, List.find?_cons]
    cases p i <;> rfl

/-- MFIRST finds the lowest bit that is set, and without one all ones. -/
theorem mfirstOf_eq {m : BitVec 65536} {n : Nat} {v : Word}
    (h : (∀ j < n, m.getLsbD j = false) ∧ v = 0xFFFFFFFFFFFFFFFF#64 ∨
      v.toNat < n ∧ m.getLsbD v.toNat = true ∧ ∀ j < v.toNat, m.getLsbD j = false) : mfirstOf m n = v := by
  rw [mfirstOf, maskBits_eq_map, List.range_eq_range', firstSet_eq_find? m.getLsbD, ← List.range_eq_range']
  rcases h with ⟨clear, rfl⟩ | ⟨below, set_, clear⟩
  · rw [List.find?_eq_none.2 fun j hj => by simp [clear j (List.mem_range.1 hj)]]; rfl
  · have found : (List.range n).find? m.getLsbD = some v.toNat :=
      List.find?_range_eq_some.2 ⟨set_, List.mem_range.2 below, fun j hj => by simp [clear j hj]⟩
    rw [found]; exact BitVec.ofNat_toNat 64 v

/-- A write to a register and one to VCUR may change places. -/
theorem setReg_setCur (k : Core) (r : Reg) (v : Word) : (k.setReg r v).setCur none = ({ k with vcur := 0#18 } : Core).setReg r v := by
  rcases reg_kinds r with rfl | rfl | ⟨i, h⟩
  · rfl
  · rw [setReg_stack, setReg_stack]; unfold Core.setSp Core.level; cases k.tlvl.cur <;> rfl
  · rw [setReg_slot _ _ h, setReg_slot _ _ h]; rfl

theorem vecInstr_scans {s : State} {c : CoreId} {f : VFields} {fn : Nat} {g : BitVec 65536 → Nat → Word} (ready : s.vready c)
    (ok : (s.core c).maskOpOk f = true) (hfn : f.fn.toNat = fn) (va : f.va.toNat < 8) (vb : f.vb = 0#5) :
    s.vecInstr c (fun k hi => k.maskScan f hi fn g) = s.setCore c ((({ s.core c with vcur := 0#18 } : Core).setReg f.vd
      (g ((s.core c).mask (f.va.setWidth 3)) (s.core c).vl.toNat)).past 4) :=
  vecInstr_past ready (by simp [Core.maskScan, ok, hfn, isMaskReg, va, vb, setReg_setCur, maskOf]) (setReg_pc _ _ _) (setReg_found _ _ _)

/-- A mask operation whose VA names no mask register is illegal (04:R176). -/
theorem maskOps_illegal {k : Core} {f : VFields} (va : 8 ≤ f.va.toNat) : k.maskLogic f none = illegal k ∧ k.maskFill f none = illegal k ∧
    ∀ fn g, k.maskScan f none fn g = illegal k := by
  have no_mask : isMaskReg f.va = false := by simp [isMaskReg]; omega
  have not_zero : (f.va == 0#5) = false := by
    rw [beq_eq_false_iff_ne]; rintro e; rw [e] at va; simp at va
  simp [Core.maskLogic, Core.maskFill, Core.maskScan, no_mask, not_zero]

theorem exec_maskLogic (c : CoreId) (f : VFields) (s : State) : exec (.maskLogic c f) s = .next (s.vecInstr c (fun k => k.maskLogic f)) := rfl

theorem exec_msetMclr (c : CoreId) (f : VFields) (s : State) : exec (.msetMclr c f) s = .next (s.vecInstr c (fun k => k.maskFill f)) := rfl

theorem exec_mpopc (c : CoreId) (f : VFields) (s : State) :
    exec (.mpopc c f) s = .next (s.vecInstr c (fun k hi => k.maskScan f hi 0x08 mpopcOf)) := rfl

theorem exec_mfirst (c : CoreId) (f : VFields) (s : State) :
    exec (.mfirst c f) s = .next (s.vecInstr c (fun k hi => k.maskScan f hi 0x09 mfirstOf)) := rfl

/-! ## The obligation -/

/-- Settles O22: each compare by its comparison, each mask operation by its bit. -/
theorem comparesAndMasks : Obligations.ComparesAndMasks := by
  refine ⟨fun s c f ready calm ok => ?_, fun s c f ready => ?_⟩
  · intro k w fm sg gives x order
    refine ⟨fun ew => ?_, fun ew => ?_⟩
    · obtain ⟨fmt, width⟩ := ewFmt_eq ew
      have whole : w % 8 = 0 := by rcases ew with e | e <;> rw [e]
      exact ⟨fun e => vectorFpCompare_compares ready calm ok (· = .eq) (which := 0) fmt width whole (by rw [e]; rfl) (by omega)
          (fun _ _ => rfl) (fun _ => beq_iff_eq) fun _ _ => compareOp_quiet_flags _ _ _,
        fun e => vectorFpCompare_compares ready calm ok (· = .lt) (which := 1) fmt width whole (by rw [e]; rfl) (by omega)
          (fun _ _ => rfl) (fun _ => beq_iff_eq) fun _ _ => compareOp_flags _ _ _,
        fun e => vectorFpCompare_compares ready calm ok (· ≠ .gt) (which := 2) fmt width whole (by rw [e]; rfl) (by omega)
          (fun _ _ => rfl) (fun _ => bne_iff_ne) fun _ _ => compareOp_flags _ _ _⟩
    · obtain ⟨whole, pos⟩ := ewBits_whole ew
      have signed {a : Nat} (h : a < 2 ^ w) : toSigned w a = sg a := toSigned_eq_ite pos h
      refine ⟨fun e => ?_, fun e => ?_, fun e => ?_⟩ <;>
        obtain ⟨g, result, flags, eq, lt, ltu⟩ := vIntCompare_eq (f := f) (by simp [e]) ok ew
      · exact vecInstr_compares ready calm ok (p := (· = ·)) (nv := fun _ _ => false) _ result whole (fun a b _ _ => by simp [eq e]) flags
      · exact vecInstr_compares ready calm ok (p := fun a b => sg a < sg b) (nv := fun _ _ => false) _ result whole
          (fun a b ha hb => by rw [lt e, decide_eq_true_iff, signed ha, signed hb]) flags
      · exact vecInstr_compares ready calm ok (p := (· < ·)) (nv := fun _ _ => false) _ result whole (fun a b _ _ => by simp [ltu e]) flags
  · intro k n m mk le a b writes
    have ok : k.maskOpOk f = true := by simpa [Core.maskOpOk, m, mk] using le
    refine ⟨fun vd va vb => ?_, fun vd va vb => ?_, fun va vb => ?_, fun va i hi => ?_⟩
    · have logic {fn : BitVec 7} {r : Nat → Bool} (few : fn.toNat ≤ 3)
          (bit : ∀ j, decide (maskBit fn.toNat (b2n (a j)) (b2n (b j)) % 2 = 1) = r j) (e : f.fn = fn) : writes (.maskLogic c f) r :=
        vecInstr_maskWrites ready le (maskLogic_eq ok (by rw [e]; exact few) vd va vb) (by rw [e]; exact bit)
      exact ⟨logic (by decide) fun _ => maskBit_and _ _, logic (by decide) fun _ => maskBit_or _ _,
        logic (by decide) fun _ => maskBit_xor _ _, logic (by decide) fun _ => maskBit_andn _ _⟩
    · exact ⟨fun e => vecInstr_maskWrites ready le (maskFill_eq ok (by simp [e]) vd va vb) fun j => by simp [e],
        fun e => vecInstr_maskWrites ready le (maskFill_eq ok (by simp [e]) vd va vb) fun j => by simp [e]⟩
    · refine ⟨fun e => ?_, fun e v found => ?_⟩
      · rw [exec_mpopc, vecInstr_scans ready ok (by simp [e]) va vb, mpopcOf, maskCount_eq_countP]
      · rw [exec_mfirst, vecInstr_scans ready ok (by simp [e]) va vb, mfirstOf_eq found]
    · obtain ⟨logic, fill, scan⟩ := maskOps_illegal (k := k) va
      simp only [List.mem_cons, List.not_mem_nil, or_false] at hi
      rcases hi with rfl | rfl | rfl | rfl
      · rw [exec_maskLogic, vecInstr_illegal ready logic]
      · rw [exec_mpopc, vecInstr_illegal ready (scan _ _)]
      · rw [exec_mfirst, vecInstr_illegal ready (scan _ _)]
      · rw [exec_msetMclr, vecInstr_illegal ready fill]

end Sys2Proof.Machine
end
